-- ==== Sys2Proof/Word.lean ====
section
/-! DEFINITION. The word types of the Volova 768 (spec/00_scope.md R2) and their plainest arithmetic. -/

namespace Sys2Proof

/-- One byte of memory. -/
abbrev Byte := BitVec 8
/-- A 64-bit scalar register value. -/
abbrev W64 := BitVec 64
/-- A register number field of an instruction (R129). -/
abbrev Reg := BitVec 5
/-- The content of one vector or mask register: 256 bits for each of 64 lanes (R12, R28). -/
abbrev VWord := BitVec 16384

/-- Sign extension to 64 bits (R130). -/
def sext {n : Nat} (x : BitVec n) : W64 := x.signExtend 64

/-- Zero extension to 64 bits. -/
def zext {n : Nat} (x : BitVec n) : W64 := x.setWidth 64

/-- 1 or 0 in a scalar register. -/
def bit64 (b : Bool) : W64 := if b then 1 else 0

end Sys2Proof
end

