-- ==== Sys2Proof/Config.lean ====
section
/-! DEFINITION. What an implementation fixes, and the values the spec leaves open. A free value is a constant
without a body applied to the model's counter `ticks` (log 9, DESIGN CHOICE): nothing constrains it. -/

namespace Sys2Proof.Config

/-- R11: whether the 48 modules hold 256 GiB each (else 128 GiB). -/
opaque bigModules : Bool

/-- Log 4, DESIGN CHOICE: core cycles that one step of the machine takes; the spec gives no cycle count per step. -/
opaque cycles : Nat → BitVec 64
/-- Log 9, DESIGN CHOICE: a scalar register that a started context does not set (R307). -/
opaque freeWord : Nat → BitVec 64
/-- Log 4, DESIGN CHOICE, R387: the energy of the activity of hart `hart`'s context and its commands in step `ticks`, as the scale
factors of the activity classes estimate it. -/
opaque energy (ticks hart : Nat) (scale : List (Nat × Nat)) : BitVec 64
/-- Log 4, DESIGN CHOICE, R387: the static energy of a core in one step. -/
opaque staticEnergy (ticks core : Nat) (scale : List (Nat × Nat)) : BitVec 64
/-- R387: the scale factors of the activity classes that make the estimates of a millisecond agree with the energy measured. -/
opaque scaleFactors (ticks : Nat) (measured : BitVec 64) : List (Nat × Nat)
/-- R87: of two elements of one vector store that write one byte, whether the later-numbered one wins. -/
opaque storeWinner : Nat → Nat → Bool
/-- R73: which two partial sums `mmul.f` adds next. -/
opaque treePick : Nat → Nat → Nat
/-- R388: the temperature of a die, in sixteenths of a degree. -/
opaque temperature : Nat → Nat → BitVec 16
/-- R258, R269, R359, R372: whether a byte that the spec leaves open holds its newer candidate. -/
opaque newer : Nat → Nat → Bool

/-- R390: SHA-512 digest of the vendor's public key, fused. -/
opaque vendorKeyHash : List Byte
/-- R390: the fused minimum security version. -/
opaque minSvn : Nat
/-- R391: the device serial. -/
opaque serial : W64
/-- R392: the private half of the identity key, which never leaves the boot block: the 32-byte seed of an Ed25519 key (log 10, PRESUMED). -/
opaque identitySeed : BitVec 256

end Sys2Proof.Config
end

