-- ==== Sys2Proof/Syntax.lean ====
section
/-! DEFINITION. The instructions and the steps of the part: one constructor of `Instr` per row of
spec/opcode_table.json. Rows with an encoding carry the fields of R129 to R146; the other rows are events, whose
operands are an `EventInput` (INVENTORY.md, Instructions). -/

namespace Sys2Proof

/-- How a remote request ends (R218, R357, R358). -/
inductive RemoteResult where
  | value (old : W64)
  | bytes (data : List Byte)
  | ack
  | expired
  | busy
  | keyRevoked
  | targetFault
  | named (fail : BitVec 8)
  /-- the line that the request reached is poisoned, with the kind of R361 (R360, R362) -/
  | poisoned (kind : Nat)
deriving DecidableEq, Repr

/-- The operations of AMO and RAMO (R133, R155, R218). -/
inductive AmoOp where
  | swap | add | and | or | xor | min | max | minu | maxu | cas
deriving DecidableEq, Repr

/-- What a request arriving from the fabric asks for (R354). -/
inductive RemoteOp where
  | load | store | atomic (op : AmoOp)
deriving DecidableEq, Repr

/-- A request arriving from the fabric (R218, R219, R354, R357). -/
structure RemoteReq where
  key : BitVec 32
  source : Nat
  hart : Nat
  tag : BitVec 16
  seq : BitVec 32
  retry : Bool
  op : RemoteOp
  addr : Nat
  width : Nat
  data : W64
  cmp : W64
deriving DecidableEq, Repr

/-- What lands in one COPY_LANDING step (R239, R248): about `n` bytes of the copy at place `i` of the channel's queue, `off` bytes
behind its vstart, or `n` elements of the channel's stream, from the one at place `off` of its strip on. Where an access goes
through a fabric window the step sends the request, and a later one finds the answer. -/
inductive Landing where
  | copy (i n off : Nat)
  | stream (n : Nat) (off : Nat := 0)
deriving DecidableEq, Repr

/-- A granule that a scrub read visits (R361, R362, R364). -/
inductive Granule where
  /-- a line in its segment or module -/
  | line (pa : Nat)
  /-- the copy of a line in a core's L1, or in a die cache -/
  | l1Line (core pa : Nat)
  | dieLine (die pa : Nat)
  | scratch (core off : Nat)
  | vreg (h word : Nat)
  /-- a scalar register of a hart -/
  | xreg (h : Nat) (r : Reg)
  /-- elements 64 w to 64 w + 63 of a mask register -/
  | mask (h k w : Nat)
  /-- element e of load queue n -/
  | loadQueue (h n e : Nat)
  /-- entries 4 w to 4 w + 3 of a codebook table -/
  | codebook (h t w : Nat)
  /-- the entry at place n of the vector queue, or of the matrix queue -/
  | entry (h : Nat) (matrix : Bool) (n : Nat)
  /-- the checkpoint of a guarded strip -/
  | checkpoint (h : Nat)
  | acc (core word : Nat)
  | column (core bank col : Nat)
  | task (slot q k : Nat)
  /-- word w of item n of the hold-up directory, in a hold-up buffer -/
  | holdBuffer (n w : Nat)
  | other
deriving DecidableEq, Repr

/-- The operands of an event: the place it acts at and what the outside world supplies. Each event's meaning says which
of them it reads; the step puts them into `State.input` (log 1, DESIGN CHOICE). -/
structure EventInput where
  hart : Nat := 0
  core : Nat := 0
  die : Nat := 0
  slot : Nat := 0
  queue : Nat := 0
  index : Nat := 0
  cw : BitVec 12 := 0
  word : W64 := 0
  landing : Landing := .stream 0
  request : Option RemoteReq := none
  result : RemoteResult := .ack
  granule : Granule := .other
  bad : Bool := false
  bytesA : List Byte := []
  bytesB : List Byte := []
deriving DecidableEq, Repr

/-- One constructor per row of spec/opcode_table.json. The rows without fields stand last: Lean's runtime allows
fields only to the first 245 constructors of a type, so an event's operands stand in `EventInput`. -/
inductive Instr where
  /-- ADD (R148). -/
  | add (d a b : Reg)
  /-- SUB (R148). -/
  | sub (d a b : Reg)
  /-- AND (R148). -/
  | and (d a b : Reg)
  /-- OR (R148). -/
  | or (d a b : Reg)
  /-- XOR (R148). -/
  | xor (d a b : Reg)
  /-- ANDN (R148). -/
  | andn (d a b : Reg)
  /-- SLL (R148). -/
  | sll (d a b : Reg)
  /-- SRL (R148). -/
  | srl (d a b : Reg)
  /-- SRA (R148). -/
  | sra (d a b : Reg)
  /-- SLT (R148). -/
  | slt (d a b : Reg)
  /-- SLTU (R148). -/
  | sltu (d a b : Reg)
  /-- MIN (R148). -/
  | min (d a b : Reg)
  /-- MAX (R148). -/
  | max (d a b : Reg)
  /-- MINU (R148). -/
  | minu (d a b : Reg)
  /-- MAXU (R148). -/
  | maxu (d a b : Reg)
  /-- CLZ (R148). -/
  | clz (d a : Reg)
  /-- CTZ (R148). -/
  | ctz (d a : Reg)
  /-- POPC (R148). -/
  | popc (d a : Reg)
  /-- ADDI (R149). -/
  | addi (d a : Reg) (i : BitVec 15)
  /-- ANDI (R149). -/
  | andi (d a : Reg) (i : BitVec 15)
  /-- ORI (R149). -/
  | ori (d a : Reg) (i : BitVec 15)
  /-- XORI (R149). -/
  | xori (d a : Reg) (i : BitVec 15)
  /-- SLLI (R149). -/
  | slli (d a : Reg) (h : BitVec 6)
  /-- SRLI (R149). -/
  | srli (d a : Reg) (h : BitVec 6)
  /-- SRAI (R149). -/
  | srai (d a : Reg) (h : BitVec 6)
  /-- SLTI (R149). -/
  | slti (d a : Reg) (i : BitVec 14)
  /-- SLTIU (R149). -/
  | sltiu (d a : Reg) (i : BitVec 14)
  /-- LIM (R130). -/
  | lim (d : Reg) (i : BitVec 20)
  /-- ADPC (R130). -/
  | adpc (d : Reg) (i : BitVec 20)
  /-- MUL (R150). -/
  | mul (d a b : Reg)
  /-- MULH (R150). -/
  | mulh (d a b : Reg)
  /-- MULHU (R150). -/
  | mulhu (d a b : Reg)
  /-- MULHSU (R150). -/
  | mulhsu (d a b : Reg)
  /-- DIV (R150). -/
  | div (d a b : Reg)
  /-- DIVU (R150). -/
  | divu (d a b : Reg)
  /-- REM (R150). -/
  | rem (d a b : Reg)
  /-- REMU (R150). -/
  | remu (d a b : Reg)
  /-- LD_S8 (R151). -/
  | ldS8 (d a : Reg) (i : BitVec 12)
  /-- LD_Z8 (R151). -/
  | ldZ8 (d a : Reg) (i : BitVec 12)
  /-- LD_S16 (R151). -/
  | ldS16 (d a : Reg) (i : BitVec 12)
  /-- LD_Z16 (R151). -/
  | ldZ16 (d a : Reg) (i : BitVec 12)
  /-- LD_S32 (R151). -/
  | ldS32 (d a : Reg) (i : BitVec 12)
  /-- LD_Z32 (R151). -/
  | ldZ32 (d a : Reg) (i : BitVec 12)
  /-- LD_64 (R151). -/
  | ld64 (d a : Reg) (i : BitVec 12)
  /-- ST_8 (R151). -/
  | st8 (b a : Reg) (i : BitVec 12)
  /-- ST_16 (R151). -/
  | st16 (b a : Reg) (i : BitVec 12)
  /-- ST_32 (R151). -/
  | st32 (b a : Reg) (i : BitVec 12)
  /-- ST_64 (R151). -/
  | st64 (b a : Reg) (i : BitVec 12)
  /-- FADD (R152). -/
  | fadd (r : BitVec 3) (p : BitVec 2) (d a b : Reg)
  /-- FSUB (R152). -/
  | fsub (r : BitVec 3) (p : BitVec 2) (d a b : Reg)
  /-- FMUL (R152). -/
  | fmul (r : BitVec 3) (p : BitVec 2) (d a b : Reg)
  /-- FDIV (R152). -/
  | fdiv (r : BitVec 3) (p : BitVec 2) (d a b : Reg)
  /-- FSQRT (R152). -/
  | fsqrt (r : BitVec 3) (p : BitVec 2) (d a : Reg)
  /-- FMAC (R152). -/
  | fmac (r : BitVec 3) (p : BitVec 2) (d a b : Reg)
  /-- FMIN (R152). -/
  | fmin (r : BitVec 3) (p : BitVec 2) (d a b : Reg)
  /-- FMAX (R152). -/
  | fmax (r : BitVec 3) (p : BitVec 2) (d a b : Reg)
  /-- FEQ (R152). -/
  | feq (r : BitVec 3) (p : BitVec 2) (d a b : Reg)
  /-- FLT (R152). -/
  | flt (r : BitVec 3) (p : BitVec 2) (d a b : Reg)
  /-- FLE (R152). -/
  | fle (r : BitVec 3) (p : BitVec 2) (d a b : Reg)
  /-- FCLS (R153). -/
  | fcls (r : BitVec 3) (p : BitVec 2) (d a : Reg)
  /-- FCVTI (R153). -/
  | fcvti (r : BitVec 3) (p : BitVec 2) (d a : Reg)
  /-- FCVTF (R152). -/
  | fcvtf (r : BitVec 3) (p : BitVec 2) (d a : Reg)
  /-- FCVTP (R152). -/
  | fcvtp (r : BitVec 3) (p : BitVec 2) (d a : Reg)
  /-- FSGNJ (R152). -/
  | fsgnj (r : BitVec 3) (p : BitVec 2) (d a b : Reg)
  /-- BEQ (R154). -/
  | beq (a b : Reg) (o : BitVec 15)
  /-- BNE (R154). -/
  | bne (a b : Reg) (o : BitVec 15)
  /-- BLT (R154). -/
  | blt (a b : Reg) (o : BitVec 15)
  /-- BGE (R154). -/
  | bge (a b : Reg) (o : BitVec 15)
  /-- BLTU (R154). -/
  | bltu (a b : Reg) (o : BitVec 15)
  /-- BGEU (R154). -/
  | bgeu (a b : Reg) (o : BitVec 15)
  /-- JAL (R154). -/
  | jal (d : Reg) (i : BitVec 20)
  /-- JALR (R154). -/
  | jalr (d a : Reg) (i : BitVec 15)
  /-- AMOSWAP (R155). -/
  | amoswap (s : BitVec 3) (rel acq wide : Bool) (d a b : Reg)
  /-- AMOADD (R155). -/
  | amoadd (s : BitVec 3) (rel acq wide : Bool) (d a b : Reg)
  /-- AMOAND (R155). -/
  | amoand (s : BitVec 3) (rel acq wide : Bool) (d a b : Reg)
  /-- AMOOR (R155). -/
  | amoor (s : BitVec 3) (rel acq wide : Bool) (d a b : Reg)
  /-- AMOXOR (R155). -/
  | amoxor (s : BitVec 3) (rel acq wide : Bool) (d a b : Reg)
  /-- AMOMIN (R155). -/
  | amomin (s : BitVec 3) (rel acq wide : Bool) (d a b : Reg)
  /-- AMOMAX (R155). -/
  | amomax (s : BitVec 3) (rel acq wide : Bool) (d a b : Reg)
  /-- AMOMINU (R155). -/
  | amominu (s : BitVec 3) (rel acq wide : Bool) (d a b : Reg)
  /-- AMOMAXU (R155). -/
  | amomaxu (s : BitVec 3) (rel acq wide : Bool) (d a b : Reg)
  /-- AMOCAS (R155). -/
  | amocas (s : BitVec 3) (rel acq wide : Bool) (d a b : Reg)
  /-- FENCE (R92). -/
  | fence (s : BitVec 3) (succ pred : BitVec 2)
  /-- LDACQ (R156). -/
  | ldacq (s w : BitVec 3) (d a : Reg)
  /-- STREL (R156). -/
  | strel (s : BitVec 3) (w : BitVec 2) (a b : Reg)
  /-- MWATCH (R157). -/
  | mwatch (a b : Reg)
  /-- MWAIT (R158). -/
  | mwait (s : BitVec 3) (d : Reg)
  /-- CWR (R159). -/
  | cwr (c : BitVec 12) (d : Reg)
  /-- CWW (R159). -/
  | cww (c : BitVec 12) (d a : Reg)
  /-- CWSET (R159). -/
  | cwset (c : BitVec 12) (d a : Reg)
  /-- CWCLR (R159). -/
  | cwclr (c : BitVec 12) (d a : Reg)
  /-- SVC (R163). -/
  | svc (k : BitVec 5)
  /-- BRK (R163). -/
  | brk (k : BitVec 5)
  /-- HINT (R164). -/
  | hint (k : BitVec 5)
  /-- TSPAWN (R165). -/
  | tspawn (d a : Reg)
  /-- HBAR (R50). -/
  | hbar (n : BitVec 4)
  /-- VERFLIP (R344). -/
  | verflip (v : BitVec 3)
  /-- PGATE (R328). -/
  | pgate (a : Reg)
  /-- HSTART (R307). -/
  | hstart (a b : Reg)
  /-- HSTOP (R308). -/
  | hstop (a : Reg)
  /-- TLBINV (R309). -/
  | tlbinv (s : BitVec 3) (a b : Reg)
  /-- VQSAVE (R304). -/
  | vqsave (a : Reg)
  /-- VQLOAD (R304). -/
  | vqload (a : Reg)
  /-- CHSAVE (R305). -/
  | chsave (a : Reg)
  /-- CHLOAD (R305). -/
  | chload (a : Reg)
  /-- RAMOADD (R218). -/
  | ramoadd (wide : Bool) (d a b : Reg)
  /-- RAMOSWAP (R218). -/
  | ramoswap (wide : Bool) (d a b : Reg)
  /-- RAMOCAS (R218). -/
  | ramocas (wide : Bool) (d a b : Reg)
  /-- RAMOOR (R218). -/
  | ramoor (wide : Bool) (d a b : Reg)
  /-- RAMOMIN (R218). -/
  | ramomin (wide : Bool) (d a b : Reg)
  /-- RAMOMAX (R218). -/
  | ramomax (wide : Bool) (d a b : Reg)
  /-- VSETL (R173). -/
  | vsetl (g : Bool) (ew n : BitVec 2) (d a : Reg)
  /-- VGRANT (R174). -/
  | vgrant (d : Reg)
  /-- VFADD (R179). -/
  | vfadd (m fw : BitVec 3) (d a b : Reg)
  /-- VFSUB (R179). -/
  | vfsub (m fw : BitVec 3) (d a b : Reg)
  /-- VFMUL (R179). -/
  | vfmul (m fw : BitVec 3) (d a b : Reg)
  /-- VFMA (R179). -/
  | vfma (m fw : BitVec 3) (d a b : Reg)
  /-- VFNMA (R179). -/
  | vfnma (m fw : BitVec 3) (d a b : Reg)
  /-- VFMIN (R179). -/
  | vfmin (m fw : BitVec 3) (d a b : Reg)
  /-- VFMAX (R179). -/
  | vfmax (m fw : BitVec 3) (d a b : Reg)
  /-- VFDIV (R179). -/
  | vfdiv (m fw : BitVec 3) (d a b : Reg)
  /-- VFSQRT (R179). -/
  | vfsqrt (m fw : BitVec 3) (d a : Reg)
  /-- VFRSQ (R179). -/
  | vfrsq (m fw : BitVec 3) (d a : Reg)
  /-- VFUQ (R67). -/
  | vfuq (m fw : BitVec 3) (d a b : Reg)
  /-- VFABS (R179). -/
  | vfabs (m fw : BitVec 3) (d a : Reg)
  /-- VFNEG (R179). -/
  | vfneg (m fw : BitVec 3) (d a : Reg)
  /-- VFSGN (R179). -/
  | vfsgn (m fw : BitVec 3) (d a b : Reg)
  /-- VFSCALE (R181). -/
  | vfscale (m fw : BitVec 3) (d a b : Reg)
  /-- VFEQ (R182). -/
  | vfeq (m fw : BitVec 3) (d : BitVec 3) (a b : Reg)
  /-- VFLT (R182). -/
  | vflt (m fw : BitVec 3) (d : BitVec 3) (a b : Reg)
  /-- VFLE (R182). -/
  | vfle (m fw : BitVec 3) (d : BitVec 3) (a b : Reg)
  /-- VFCLS (R182). -/
  | vfcls (m fw : BitVec 3) (d a : Reg)
  /-- VFCVT (R182). -/
  | vfcvt (m fw : BitVec 3) (d a : Reg)
  /-- VFCVTI (R182). -/
  | vfcvti (m fw : BitVec 3) (d a : Reg)
  /-- VFICVT (R182). -/
  | vficvt (m fw : BitVec 3) (d a : Reg)
  /-- VSIG (R183). -/
  | vsig (m fw : BitVec 3) (d a : Reg)
  /-- VRAND (R184). -/
  | vrand (m fw : BitVec 3) (d : Reg)
  /-- VADD (R185). -/
  | vadd (m fw : BitVec 3) (d a b : Reg)
  /-- VSUB (R185). -/
  | vsub (m fw : BitVec 3) (d a b : Reg)
  /-- VMUL (R185). -/
  | vmul (m fw : BitVec 3) (d a b : Reg)
  /-- VMULH (R185). -/
  | vmulh (m fw : BitVec 3) (d a b : Reg)
  /-- VMIN (R185). -/
  | vmin (m fw : BitVec 3) (d a b : Reg)
  /-- VMAX (R185). -/
  | vmax (m fw : BitVec 3) (d a b : Reg)
  /-- VAND (R185). -/
  | vand (m fw : BitVec 3) (d a b : Reg)
  /-- VOR (R185). -/
  | vor (m fw : BitVec 3) (d a b : Reg)
  /-- VXOR (R185). -/
  | vxor (m fw : BitVec 3) (d a b : Reg)
  /-- VSLL (R185). -/
  | vsll (m fw : BitVec 3) (d a b : Reg)
  /-- VSRL (R185). -/
  | vsrl (m fw : BitVec 3) (d a b : Reg)
  /-- VSRA (R185). -/
  | vsra (m fw : BitVec 3) (d a b : Reg)
  /-- VADDS (R185). -/
  | vadds (m fw : BitVec 3) (d a b : Reg)
  /-- VSUBS (R185). -/
  | vsubs (m fw : BitVec 3) (d a b : Reg)
  /-- VABSD (R185). -/
  | vabsd (m fw : BitVec 3) (d a b : Reg)
  /-- VSEQ (R186). -/
  | vseq (m fw : BitVec 3) (d : BitVec 3) (a b : Reg)
  /-- VSNE (R186). -/
  | vsne (m fw : BitVec 3) (d : BitVec 3) (a b : Reg)
  /-- VSLT (R186). -/
  | vslt (m fw : BitVec 3) (d : BitVec 3) (a b : Reg)
  /-- VSLTU (R186). -/
  | vsltu (m fw : BitVec 3) (d : BitVec 3) (a b : Reg)
  /-- VSEL (R186). -/
  | vsel (m fw : BitVec 3) (d a b : Reg)
  /-- VMV (R186). -/
  | vmv (m fw : BitVec 3) (d a : Reg)
  /-- VBCAST (R186). -/
  | vbcast (m fw : BitVec 3) (d a : Reg)
  /-- VIDX (R186). -/
  | vidx (m fw : BitVec 3) (d : Reg)
  /-- VWMA (R187). -/
  | vwma (m fw : BitVec 3) (d a b : Reg)
  /-- VWMUL (R187). -/
  | vwmul (m fw : BitVec 3) (d a b : Reg)
  /-- VWADD (R187). -/
  | vwadd (m fw : BitVec 3) (d a b : Reg)
  /-- VDOT4 (R188). -/
  | vdot4 (m fw : BitVec 3) (d a b : Reg)
  /-- VRED (R189). -/
  | vred (m fw : BitVec 3) (o : BitVec 2) (d a : Reg)
  /-- VPERM (R189). -/
  | vperm (m fw : BitVec 3) (d a b : Reg)
  /-- VSLUP (R189). -/
  | vslup (m fw : BitVec 3) (d a b : Reg)
  /-- VSLDN (R189). -/
  | vsldn (m fw : BitVec 3) (d a b : Reg)
  /-- VCOMPRESS (R189). -/
  | vcompress (m fw : BitVec 3) (d a : Reg)
  /-- VEXPAND (R189). -/
  | vexpand (m fw : BitVec 3) (d a : Reg)
  /-- VXPOSE8 (R191). -/
  | vxpose8 (m fw : BitVec 3) (d : Reg)
  /-- VSCAN (R190). -/
  | vscan (m fw : BitVec 3) (o : BitVec 2) (d a : Reg)
  /-- MAND (R192). -/
  | mand (d a b : BitVec 3)
  /-- MOR (R192). -/
  | mor (d a b : BitVec 3)
  /-- MXOR (R192). -/
  | mxor (d a b : BitVec 3)
  /-- MNOT (R192). -/
  | mnot (d a : BitVec 3)
  /-- MPOP (R192). -/
  | mpop (m : BitVec 3) (d : Reg) (a : BitVec 3)
  /-- MFFS (R192). -/
  | mffs (m : BitVec 3) (d : Reg) (a : BitVec 3)
  /-- MFROMVL (R192). -/
  | mfromvl (d : BitVec 3)
  /-- MMVX (R192). -/
  | mmvx (d : Reg) (a : BitVec 3) (b : Reg)
  /-- VLD (R197). -/
  | vld (e : BitVec 2) (q : Bool) (m : BitVec 3) (d a : Reg)
  /-- VLDS (R197). -/
  | vlds (e : BitVec 2) (q : Bool) (m : BitVec 3) (d a b : Reg)
  /-- VLDX (R197). -/
  | vldx (e : BitVec 2) (q : Bool) (m : BitVec 3) (d a b : Reg)
  /-- VLDX_O (R204). -/
  | vldxO (e : BitVec 2) (q : Bool) (m : BitVec 3) (d a b : Reg)
  /-- VLD_FF (R205). -/
  | vldFf (e : BitVec 2) (m : BitVec 3) (d a : Reg)
  /-- VST (R197). -/
  | vst (e : BitVec 2) (m : BitVec 3) (d a : Reg)
  /-- VSTS (R197). -/
  | vsts (e : BitVec 2) (m : BitVec 3) (d a b : Reg)
  /-- VSTX (R197). -/
  | vstx (e : BitVec 2) (m : BitVec 3) (d a b : Reg)
  /-- VSTX_O (R204). -/
  | vstxO (e : BitVec 2) (m : BitVec 3) (d a b : Reg)
  /-- VST_N (R212). -/
  | vstN (e : BitVec 2) (m : BitVec 3) (d a : Reg)
  /-- VAMOADD (R214). -/
  | vamoadd (e : BitVec 2) (m : BitVec 3) (d a b : Reg)
  /-- VAMOMIN (R214). -/
  | vamomin (e : BitVec 2) (m : BitVec 3) (d a b : Reg)
  /-- VAMOMAX (R214). -/
  | vamomax (e : BitVec 2) (m : BitVec 3) (d a b : Reg)
  /-- VAMOOR (R214). -/
  | vamoor (e : BitVec 2) (m : BitVec 3) (d a b : Reg)
  /-- VAMOAND (R214). -/
  | vamoand (e : BitVec 2) (m : BitVec 3) (d a b : Reg)
  /-- VAMOXOR (R214). -/
  | vamoxor (e : BitVec 2) (m : BitVec 3) (d a b : Reg)
  /-- VMVX (R215). -/
  | vmvx (d a b : Reg)
  /-- VMVV (R215). -/
  | vmvv (d a b : Reg)
  /-- CPDECL (R246). -/
  | cpdecl (c : BitVec 3) (a : Reg)
  /-- CPCOPY (R239). -/
  | cpcopy (o : Bool) (c : BitVec 3) (d a b : Reg)
  /-- CPSTAT (R253). -/
  | cpstat (c : BitVec 3) (d a : Reg)
  /-- SBINIT (R243). -/
  | sbinit (n : BitVec 5)
  /-- SBEXPECT (R243). -/
  | sbexpect (n : BitVec 5) (a : Reg)
  /-- SBWAIT (R245). -/
  | sbwait (n : BitVec 5) (d a : Reg)
  /-- SBCANCEL (R243). -/
  | sbcancel (n : BitVec 5)
  /-- EPUSH (R255). -/
  | epush (a b : Reg)
  /-- EPOP (R255). -/
  | epop (d a : Reg)
  /-- EPROBE (R255). -/
  | eprobe (d a : Reg)
  /-- GUNITE (R281). -/
  | gunite (m : BitVec 3) (d a b : Reg)
  /-- GFIND (R283). -/
  | gfind (m : BitVec 3) (d a : Reg)
  /-- GRELABEL (R284). -/
  | grelabel (fs wb : Bool) (m : BitVec 3) (d a b : Reg)
  /-- GSIZE (R285). -/
  | gsize (d a : Reg)
  /-- GSNAP (R286). -/
  | gsnap (d : Reg)
  /-- CHAIN (R260). -/
  | chain (a : Reg)
  /-- CHSTAT (R273). -/
  | chstat (s : BitVec 5) (d : Reg)
  /-- LSUPD (R194). -/
  | lsupd (d a : Reg)
  /-- LSACC (R195). -/
  | lsacc (a : Reg)
  /-- CBLOAD (R196). -/
  | cbload (t : BitVec 4) (a : Reg)
  /-- C_ADDI (R144). -/
  | cAddi (i : BitVec 7) (d : BitVec 3)
  /-- C_LI (R144). -/
  | cLi (i : BitVec 7) (d : BitVec 3)
  /-- C_MV (R144). -/
  | cMv (a d : BitVec 3)
  /-- C_ADD (R144). -/
  | cAdd (b d : BitVec 3)
  /-- C_SUB (R144). -/
  | cSub (b d : BitVec 3)
  /-- C_LD (R144). -/
  | cLd (o : BitVec 4) (a d : BitVec 3)
  /-- C_ST (R144). -/
  | cSt (o : BitVec 4) (a b : BitVec 3)
  /-- C_BEQZ (R144). -/
  | cBeqz (o : BitVec 7) (a : BitVec 3)
  /-- C_BNEZ (R144). -/
  | cBnez (o : BitVec 7) (a : BitVec 3)
  /-- C_J (R144). -/
  | cJ (o : BitVec 10)
  /-- C_JR (R144). -/
  | cJr (a : Reg)
  /-- MSHAPE (R224). -/
  | mshape (d a : Reg)
  /-- MLDB (R226). -/
  | mldb (bank : BitVec 1) (fw a b : Reg)
  /-- MLDBX (R227). -/
  | mldbx (bank : BitVec 1) (fw a b c : Reg)
  /-- MMUL_O (R228). -/
  | mmulO (acc : BitVec 4) (bank : BitVec 1) (fw : Reg) (asrc : Bool) (oa ob : Reg) (m : BitVec 3)
  /-- MMUL_F (R228). -/
  | mmulF (acc : BitVec 4) (bank : BitVec 1) (fw : Reg) (asrc : Bool) (oa ob : Reg) (m : BitVec 3)
  /-- MZERO (R231). -/
  | mzero (acc cnt : BitVec 4)
  /-- MRD (R232). -/
  | mrd (acc : BitVec 4) (fw oa ob : Reg) (m : BitVec 3)
  /-- MWR (R233). -/
  | mwr (acc : BitVec 4) (fw oa ob : Reg) (m : BitVec 3)
  /-- MST (R234). -/
  | mst (acc : BitVec 4) (fw oa ob : Reg) (m : BitVec 3)
  /-- MSIG (R235). -/
  | msig (acc : BitVec 4) (d : Reg)
  /-- MSCL (R236). -/
  | mscl (acc : BitVec 4) (oa : Reg) (m : BitVec 3)
  /-- UIRET (R171). -/
  | uiret
  /-- TYIELD (R166). -/
  | tyield
  /-- SRET (R299). -/
  | sret
  /-- WFI (R306). -/
  | wfi
  /-- SCOMMIT (R216). -/
  | scommit
  /-- GINIT (R280). -/
  | ginit
  /-- GUNDO (R287). -/
  | gundo
  /-- GDROP (R287). -/
  | gdrop
  /-- CHRET (R263). -/
  | chret
  /-- CHABORT (R274). -/
  | chabort
  /-- C_NOP (R144). -/
  | cNop
  /-- VECTOR_DISPATCH (R25). -/
  | vectorDispatch
  /-- GROUP_COMMIT (R37). -/
  | groupCommit
  /-- MATRIX_EXECUTE (R221). -/
  | matrixExecute
  /-- TRAP_ENTRY (R297). -/
  | trapEntry
  /-- ARBITER_RUN (R321). -/
  | arbiterRun
  /-- YIELD_WINDOW_EXPIRY (R32). -/
  | yieldWindowExpiry
  /-- HART_START (R51). -/
  | hartStart
  /-- PREEMPTED_RESUME (R33). -/
  | preemptedResume
  /-- UI_DELIVERY (R170). -/
  | uiDelivery
  /-- MWAIT_WAKE (R158). -/
  | mwaitWake
  /-- HBAR_EXIT (R50). -/
  | hbarExit
  /-- SBWAIT_TIMEOUT (R245). -/
  | sbwaitTimeout
  /-- WFI_WAKE (R306). -/
  | wfiWake
  /-- TYIELD_RESOLVE (R166). -/
  | tyieldResolve
  /-- COPY_LANDING (R244). -/
  | copyLanding
  /-- COPY_COMPLETE (R239). -/
  | copyComplete
  /-- COLLATOR_COMMAND_START (R256). -/
  | collatorCommandStart
  /-- BUCKET_START (R257). -/
  | bucketStart
  /-- COLLATOR_COMPLETION (R257). -/
  | collatorCompletion
  /-- RESULT_ENTRY_POST (R257). -/
  | resultEntryPost
  /-- SNAP (R264). -/
  | snap
  /-- RESTORE (R264). -/
  | restore
  /-- ADVANCE (R262). -/
  | advance
  /-- ADJOINT (R262). -/
  | adjoint
  /-- DOORBELL_ENQUEUE (R317). -/
  | doorbellEnqueue
  /-- DEPENDENCE_READ (R318). -/
  | dependenceRead
  /-- DEPENDENCE_TIMER (R318). -/
  | dependenceTimer
  /-- DISPATCH_BIND (R319). -/
  | dispatchBind
  /-- QUEUE_ENABLE (R314). -/
  | queueEnable
  /-- QUEUE_DISABLE (R314). -/
  | queueDisable
  /-- PROOFER_STAGING (R324). -/
  | prooferStaging
  /-- GATING_BEGIN (R328). -/
  | gatingBegin
  /-- DRAIN_COMPLETE (R329). -/
  | drainComplete
  /-- GATE_COMMIT (R329). -/
  | gateCommit
  /-- WAKE_MESSAGE (R330). -/
  | wakeMessage
  /-- WAKING_COMPLETE (R329). -/
  | wakingComplete
  /-- TABLE_WALK (R337). -/
  | tableWalk
  /-- SVER_WRITE (R335). -/
  | sverWrite
  /-- SBAR_WRITE (R295). -/
  | sbarWrite
  /-- SORPHAN_READ (R295). -/
  | sorphanRead
  /-- SERRLOG_READ (R365). -/
  | serrlogRead
  /-- SMSAVE_WRITE (R371). -/
  | smsaveWrite
  /-- RAMOTAG_WRITE (R217). -/
  | ramotagWrite
  /-- GATHER_BASE_WRITE (R277). -/
  | gatherBaseWrite
  /-- CONTROL_WORD_WRITE (R159). -/
  | controlWordWrite
  /-- PARTITION_APPLY (R349). -/
  | partitionApply
  /-- PARTITION_DISSOLVE (R349). -/
  | partitionDissolve
  /-- PARTITION_COMMAND_DONE (R349). -/
  | partitionCommandDone
  /-- REMOTE_REQUEST_ARRIVAL (R354). -/
  | remoteRequestArrival
  /-- DEDUP_ENTRY_EXPIRY (R219). -/
  | dedupEntryExpiry
  /-- REMOTE_RESPONSE (R357). -/
  | remoteResponse
  /-- PORT_DOWN (R356). -/
  | portDown
  /-- LINK_DOWN_TIMEOUT (R358). -/
  | linkDownTimeout
  /-- PATH_LOST_TIMEOUT (R358). -/
  | pathLostTimeout
  /-- PEER_SILENT_TIMEOUT (R358). -/
  | peerSilentTimeout
  /-- KEY_REVOCATION (R358). -/
  | keyRevocation
  /-- SCRUB_READ (R361). -/
  | scrubRead
  /-- SUPPLY_SAG (R382). -/
  | supplySag
  /-- CLOCK_RECOVERY_STEP (R382). -/
  | clockRecoveryStep
  /-- INPUT_LOSS (R372). -/
  | inputLoss
  /-- HOLDUP_WRITEBACK (R372). -/
  | holdupWriteback
  /-- HOLDUP_WRITE (R373). -/
  | holdupWrite
  /-- HOLDUP_OFF (R372). -/
  | holdupOff
  /-- STORE_ERASE (R379). -/
  | storeErase
  /-- ERASE_COMPLETE (R379). -/
  | eraseComplete
  /-- FHSDATA_READ (R379). -/
  | fhsdataRead
  /-- POWER_CONTROLLER_PERIOD (R383). -/
  | powerControllerPeriod
  /-- ENERGY_CALIBRATION (R387). -/
  | energyCalibration
  /-- RAMP_STEP (R386). -/
  | rampStep
  /-- DIE_CRITICAL (R388). -/
  | dieCritical
  /-- PACKAGE_RESET (R389). -/
  | packageReset
  /-- MEASUREMENT_EXTEND (R391). -/
  | measurementExtend
  /-- ATTESTATION_REQUEST (R392). -/
  | attestationRequest
  /-- HINT_PAUSE_END (R164). -/
  | hintPauseEnd
deriving DecidableEq, Repr

end Sys2Proof
end

