-- ==== Sys2Proof/WellFormed.lean ====
section
/-! DEFINITION. Which instructions the encodings admit (R131, R135 to R146), and which operands of events name an agent
that exists (R8 to R12). -/

namespace Sys2Proof

/-- R162, R294, R295, R313, R335, R347, R364, R371, R379, R385, R388, R391: the control words that exist. -/
def cwAssigned (c : BitVec 12) : Bool :=
  let n := c.toNat
  n == 0x000 || n == 0x002 || n == 0x003 || (0x010 ≤ n && n ≤ 0x016) || n == 0x018 || n == 0x019 || n == 0x01A
  || (0x01F ≤ n && n ≤ 0x021) || (0x028 ≤ n && n ≤ 0x02B) || (0x030 ≤ n && n ≤ 0x036) || (0x040 ≤ n && n ≤ 0x042)
  || n == 0x048 || n == 0x049 || n == 0x050 || n == 0x051 || n == 0x058 || n == 0x060 || n == 0x061
  || n == 0x068 || n == 0x069
  || (0x400 ≤ n && n ≤ 0x40D) || (0x440 ≤ n && n ≤ 0x443) || (0x480 ≤ n && n ≤ 0x484) || (0x4C0 ≤ n && n ≤ 0x4C5)
  || (0x800 ≤ n && n ≤ 0x808) || (0x840 ≤ n && n ≤ 0x844) || (0x880 ≤ n && n ≤ 0x887) || (0x8C0 ≤ n && n ≤ 0x8C2)

/-- R9: a hart id. -/
def hartOk (h : Nat) : Bool := h < 3072
/-- R9: a core number. -/
def coreOk (c : Nat) : Bool := c < 768

/-- R85: a scope code. -/
def scopeOk (s : BitVec 3) : Bool := s.toNat ≤ 4

/-- R136: the precision and rounding fields of FPU; an instruction that rounds nothing has any rounding code that one which rounds may
have (log 80, DEDUCED). -/
def fpuOk (r : BitVec 3) (p : BitVec 2) : Bool := r.toNat ≤ 4 && p.toNat ≤ 1

/-- R142, R197: the field [11:7] of a load names a queue when `q` is set. -/
def queueOk (q : Bool) (d : Reg) : Bool := !q || d.toNat ≤ 3

/-- The checks that make a field combination an instruction (R131). -/
def Instr.wf : Instr → Bool
  | .fadd r p _ _ _ | .fsub r p _ _ _ | .fmul r p _ _ _ | .fdiv r p _ _ _ | .fmac r p _ _ _ | .fmin r p _ _ _
  | .fmax r p _ _ _ | .feq r p _ _ _ | .flt r p _ _ _ | .fle r p _ _ _ | .fsgnj r p _ _ _
  | .fsqrt r p _ _ | .fcls r p _ _ | .fcvti r p _ _ | .fcvtf r p _ _ | .fcvtp r p _ _ => fpuOk r p
  | .amoswap s _ _ _ _ _ _ | .amoadd s _ _ _ _ _ _ | .amoand s _ _ _ _ _ _ | .amoor s _ _ _ _ _ _
  | .amoxor s _ _ _ _ _ _ | .amomin s _ _ _ _ _ _ | .amomax s _ _ _ _ _ _ | .amominu s _ _ _ _ _ _
  | .amomaxu s _ _ _ _ _ _ | .amocas s _ _ _ _ _ _ => scopeOk s
  | .fence s _ _ | .strel s _ _ _ | .mwait s _ => scopeOk s
  | .ldacq s w _ _ => scopeOk s && w.toNat ≤ 6
  | .tlbinv s _ _ => s.toNat ≤ 3
  | .cwr c _ | .cww c _ _ | .cwset c _ _ | .cwclr c _ _ => cwAssigned c
  | .vsel m _ _ _ _ => m != 0
  | .vxpose8 m _ d => m == 0 && d.toNat + 7 ≤ 31
  | .vld _ q _ d _ => queueOk q d
  | .vlds _ q _ d _ _ | .vldx _ q _ d _ _ | .vldxO _ q _ d _ _ => queueOk q d
  | .cpdecl c _ | .cpstat c _ _ => c.toNat ≤ 6
  | .cpcopy _ c _ _ b => c.toNat ≤ 6 && b.toNat ≤ 30
  | .chstat s _ => s.toNat ≤ 5
  | .cJr a => a != 0
  | .mmulO acc _ _ asrc _ ob _ | .mmulF acc _ _ asrc _ ob _ => acc.toNat ≤ 11 && (asrc || ob == 0)
  | .mzero acc cnt => acc.toNat + cnt.toNat ≤ 11
  | .mrd acc _ _ _ _ | .mwr acc _ _ _ _ | .mst acc _ _ _ _ => acc.toNat ≤ 11
  | .msig acc _ | .mscl acc _ _ => acc.toNat ≤ 11
  | .add .. | .sub .. | .and .. | .or .. | .xor .. | .andn .. | .sll .. | .srl .. | .sra .. | .slt .. | .sltu ..
  | .min .. | .max .. | .minu .. | .maxu .. | .clz .. | .ctz .. | .popc .. | .addi .. | .andi .. | .ori .. | .xori ..
  | .slli .. | .srli .. | .srai .. | .slti .. | .sltiu .. | .lim .. | .adpc .. | .mul .. | .mulh .. | .mulhu ..
  | .mulhsu .. | .div .. | .divu .. | .rem .. | .remu .. | .ldS8 .. | .ldZ8 .. | .ldS16 .. | .ldZ16 .. | .ldS32 ..
  | .ldZ32 .. | .ld64 .. | .st8 .. | .st16 .. | .st32 .. | .st64 .. | .beq .. | .bne .. | .blt .. | .bge .. | .bltu ..
  | .bgeu .. | .jal .. | .jalr .. | .mwatch .. | .svc .. | .brk .. | .uiret | .hint .. | .tspawn .. | .tyield
  | .hbar .. | .verflip .. | .sret | .wfi | .pgate .. | .hstart .. | .hstop .. | .vqsave .. | .vqload .. | .chsave ..
  | .chload .. | .ramoadd .. | .ramoswap .. | .ramocas .. | .ramoor .. | .ramomin .. | .ramomax .. | .vsetl ..
  | .vgrant .. | .vfadd .. | .vfsub .. | .vfmul .. | .vfma .. | .vfnma .. | .vfmin .. | .vfmax .. | .vfdiv ..
  | .vfsqrt .. | .vfrsq .. | .vfuq .. | .vfabs .. | .vfneg .. | .vfsgn .. | .vfscale .. | .vfeq .. | .vflt .. | .vfle ..
  | .vfcls .. | .vfcvt .. | .vfcvti .. | .vficvt .. | .vsig .. | .vrand .. | .vadd .. | .vsub .. | .vmul .. | .vmulh ..
  | .vmin .. | .vmax .. | .vand .. | .vor .. | .vxor .. | .vsll .. | .vsrl .. | .vsra .. | .vadds .. | .vsubs ..
  | .vabsd .. | .vseq .. | .vsne .. | .vslt .. | .vsltu .. | .vmv .. | .vbcast .. | .vidx .. | .vwma .. | .vwmul ..
  | .vwadd .. | .vdot4 .. | .vred .. | .vperm .. | .vslup .. | .vsldn .. | .vcompress .. | .vexpand .. | .vscan ..
  | .mand .. | .mor .. | .mxor .. | .mnot .. | .mpop .. | .mffs .. | .mfromvl .. | .mmvx .. | .vldFf .. | .vst ..
  | .vsts .. | .vstx .. | .vstxO .. | .vstN .. | .vamoadd .. | .vamomin .. | .vamomax .. | .vamoor .. | .vamoand ..
  | .vamoxor .. | .vmvx .. | .vmvv .. | .scommit | .sbinit .. | .sbexpect .. | .sbwait .. | .sbcancel .. | .epush ..
  | .epop .. | .eprobe .. | .ginit | .gunite .. | .gfind .. | .grelabel .. | .gsize .. | .gsnap .. | .gundo | .gdrop
  | .chain .. | .chret | .chabort | .lsupd .. | .lsacc .. | .cbload .. | .cAddi .. | .cLi .. | .cMv .. | .cAdd ..
  | .cSub .. | .cLd .. | .cSt .. | .cBeqz .. | .cBnez .. | .cJ .. | .cNop | .mshape .. | .mldb .. | .mldbx ..
  | .vectorDispatch | .groupCommit | .matrixExecute | .trapEntry | .arbiterRun | .yieldWindowExpiry | .hartStart
  | .preemptedResume | .uiDelivery | .mwaitWake | .hbarExit | .sbwaitTimeout | .wfiWake | .tyieldResolve
  | .copyLanding | .copyComplete | .collatorCommandStart | .bucketStart | .collatorCompletion | .resultEntryPost
  | .snap | .restore | .advance | .adjoint | .doorbellEnqueue | .dependenceRead | .dependenceTimer | .dispatchBind
  | .queueEnable | .queueDisable | .prooferStaging | .gatingBegin | .drainComplete | .gateCommit | .wakeMessage
  | .wakingComplete | .tableWalk | .sverWrite | .sbarWrite | .sorphanRead | .serrlogRead | .smsaveWrite
  | .ramotagWrite | .gatherBaseWrite | .controlWordWrite | .partitionApply | .partitionDissolve
  | .partitionCommandDone | .remoteRequestArrival | .dedupEntryExpiry | .remoteResponse | .portDown
  | .linkDownTimeout | .pathLostTimeout | .peerSilentTimeout | .keyRevocation | .scrubRead | .supplySag
  | .clockRecoveryStep | .inputLoss | .holdupWriteback | .holdupWrite | .holdupOff | .storeErase | .eraseComplete
  | .fhsdataRead | .powerControllerPeriod | .energyCalibration | .rampStep | .dieCritical | .packageReset
  | .measurementExtend | .attestationRequest | .hintPauseEnd => true

/-- The operands of an event name an agent that exists (R8 to R12, R238, R242, R346, R388). -/
def Instr.inputOk (i : Instr) (a : EventInput) : Bool :=
  hartOk a.hart && coreOk a.core && a.die < 20 && a.slot < 64 && a.queue < 16 &&
  match i with
  | .collatorCommandStart | .bucketStart | .collatorCompletion | .resultEntryPost => a.die < 6
  | .copyLanding | .copyComplete => a.queue ≤ 6
  | .portDown => a.index < 32
  | .gatherBaseWrite => a.cw == 0x030 || a.cw == 0x031 || a.cw == 0x032 || a.cw == 0x033
  | .controlWordWrite => cwAssigned a.cw
  | .attestationRequest => a.bytesA.length == 32
  | _ => true

end Sys2Proof
end

