-- ==== Sys2Proof/Decode.lean ====
section
/-! DEFINITION. The decoder and the encoder, from the formats of R127 to R146 (spec/06_encoding.md). Decoding is total: what
is no instruction is rejected by a name of `Reject`, and the machine takes the illegal-instruction trap there (R147). -/

namespace Sys2Proof

/-- Why bytes are no instruction (R131, R147). -/
inductive Reject where
  /-- fewer bytes than the length of R127 -/
  | short
  /-- R132: a reserved major, tile class or compressed operation -/
  | major
  /-- R133: a function code that the grid does not list -/
  | function
  /-- R131: a reserved field is not zero, or a field names no register of its kind -/
  | reserved
  /-- R131, R139: a field value that the instruction does not allow -/
  | field
deriving DecidableEq, Repr

/-- The instruction when its reserved fields are zero. -/
def need (ok : Bool) (i : Instr) : Except Reject Instr := if ok then .ok i else .error .reserved

/-- A bit as a field of width 1. -/
def bitOf (b : Bool) : BitVec 1 := BitVec.ofBool b

/-- Format Q (R129). -/
structure FQ where
  md : BitVec 5
  fn : BitVec 5
  b : BitVec 5
  a : BitVec 5
  d : BitVec 5
deriving DecidableEq, Repr

/-- The fields of a word read in format Q (R129). -/
def unpackQ (w : BitVec 32) : FQ :=
  ⟨w.extractLsb' 27 5, w.extractLsb' 22 5, w.extractLsb' 17 5, w.extractLsb' 12 5, w.extractLsb' 7 5⟩

/-- The word of fields in format Q with major `maj` (R129). -/
def packQ (maj : BitVec 6) (q : FQ) : BitVec 32 :=
  q.md ++ q.fn ++ q.b ++ q.a ++ q.d ++ maj ++ 0#1

/-- Format I (R129). -/
structure FI where
  imm : BitVec 15
  a : BitVec 5
  d : BitVec 5
deriving DecidableEq, Repr

/-- The fields of a word read in format I (R129). -/
def unpackI (w : BitVec 32) : FI :=
  ⟨w.extractLsb' 17 15, w.extractLsb' 12 5, w.extractLsb' 7 5⟩

/-- The word of fields in format I with major `maj` (R129). -/
def packI (maj : BitVec 6) (q : FI) : BitVec 32 :=
  q.imm ++ q.a ++ q.d ++ maj ++ 0#1

/-- Format IW (R129). -/
structure FIW where
  imm : BitVec 12
  w : BitVec 3
  a : BitVec 5
  d : BitVec 5
deriving DecidableEq, Repr

/-- The fields of a word read in format IW (R129). -/
def unpackIW (w : BitVec 32) : FIW :=
  ⟨w.extractLsb' 20 12, w.extractLsb' 17 3, w.extractLsb' 12 5, w.extractLsb' 7 5⟩

/-- The word of fields in format IW with major `maj` (R129). -/
def packIW (maj : BitVec 6) (q : FIW) : BitVec 32 :=
  q.imm ++ q.w ++ q.a ++ q.d ++ maj ++ 0#1

/-- Format SW (R129). -/
structure FSW where
  hi : BitVec 7
  w : BitVec 3
  b : BitVec 5
  a : BitVec 5
  lo : BitVec 5
deriving DecidableEq, Repr

/-- The fields of a word read in format SW (R129). -/
def unpackSW (w : BitVec 32) : FSW :=
  ⟨w.extractLsb' 25 7, w.extractLsb' 22 3, w.extractLsb' 17 5, w.extractLsb' 12 5, w.extractLsb' 7 5⟩

/-- The word of fields in format SW with major `maj` (R129). -/
def packSW (maj : BitVec 6) (q : FSW) : BitVec 32 :=
  q.hi ++ q.w ++ q.b ++ q.a ++ q.lo ++ maj ++ 0#1

/-- Format B (R129). -/
structure FB where
  hi : BitVec 10
  b : BitVec 5
  a : BitVec 5
  lo : BitVec 5
deriving DecidableEq, Repr

/-- The fields of a word read in format B (R129). -/
def unpackB (w : BitVec 32) : FB :=
  ⟨w.extractLsb' 22 10, w.extractLsb' 17 5, w.extractLsb' 12 5, w.extractLsb' 7 5⟩

/-- The word of fields in format B with major `maj` (R129). -/
def packB (maj : BitVec 6) (q : FB) : BitVec 32 :=
  q.hi ++ q.b ++ q.a ++ q.lo ++ maj ++ 0#1

/-- Format J (R129). -/
structure FJ where
  imm : BitVec 20
  d : BitVec 5
deriving DecidableEq, Repr

/-- The fields of a word read in format J (R129). -/
def unpackJ (w : BitVec 32) : FJ :=
  ⟨w.extractLsb' 12 20, w.extractLsb' 7 5⟩

/-- The word of fields in format J with major `maj` (R129). -/
def packJ (maj : BitVec 6) (q : FJ) : BitVec 32 :=
  q.imm ++ q.d ++ maj ++ 0#1

/-- Format V (R129). -/
structure FV where
  fn : BitVec 4
  m : BitVec 3
  fw : BitVec 3
  b : BitVec 5
  a : BitVec 5
  d : BitVec 5
deriving DecidableEq, Repr

/-- The fields of a word read in format V (R129). -/
def unpackV (w : BitVec 32) : FV :=
  ⟨w.extractLsb' 28 4, w.extractLsb' 25 3, w.extractLsb' 22 3, w.extractLsb' 17 5, w.extractLsb' 12 5, w.extractLsb' 7 5⟩

/-- The word of fields in format V with major `maj` (R129). -/
def packV (maj : BitVec 6) (q : FV) : BitVec 32 :=
  q.fn ++ q.m ++ q.fw ++ q.b ++ q.a ++ q.d ++ maj ++ 0#1

/-- Format VM (R129). -/
structure FVM where
  ew : BitVec 3
  flags : BitVec 2
  mode : BitVec 2
  m : BitVec 3
  b : BitVec 5
  a : BitVec 5
  d : BitVec 5
deriving DecidableEq, Repr

/-- The fields of a word read in format VM (R129). -/
def unpackVM (w : BitVec 32) : FVM :=
  ⟨w.extractLsb' 29 3, w.extractLsb' 27 2, w.extractLsb' 25 2, w.extractLsb' 22 3, w.extractLsb' 17 5, w.extractLsb' 12 5, w.extractLsb' 7 5⟩

/-- The word of fields in format VM with major `maj` (R129). -/
def packVM (maj : BitVec 6) (q : FVM) : BitVec 32 :=
  q.ew ++ q.flags ++ q.mode ++ q.m ++ q.b ++ q.a ++ q.d ++ maj ++ 0#1

/-- Format CW (R129). -/
structure FCW where
  f : BitVec 3
  cw : BitVec 12
  a : BitVec 5
  d : BitVec 5
deriving DecidableEq, Repr

/-- The fields of a word read in format CW (R129). -/
def unpackCW (w : BitVec 32) : FCW :=
  ⟨w.extractLsb' 29 3, w.extractLsb' 17 12, w.extractLsb' 12 5, w.extractLsb' 7 5⟩

/-- The word of fields in format CW with major `maj` (R129). -/
def packCW (maj : BitVec 6) (q : FCW) : BitVec 32 :=
  q.f ++ q.cw ++ q.a ++ q.d ++ maj ++ 0#1

/-- Major 0x01 (R133). -/
def decodeAlu (q : FQ) : Except Reject Instr :=
  match q.fn.toNat with
  | 0 => need (q.md == 0) (.add q.d q.a q.b)
  | 1 => need (q.md == 0) (.sub q.d q.a q.b)
  | 2 => need (q.md == 0) (.and q.d q.a q.b)
  | 3 => need (q.md == 0) (.or q.d q.a q.b)
  | 4 => need (q.md == 0) (.xor q.d q.a q.b)
  | 5 => need (q.md == 0) (.andn q.d q.a q.b)
  | 6 => need (q.md == 0) (.sll q.d q.a q.b)
  | 7 => need (q.md == 0) (.srl q.d q.a q.b)
  | 8 => need (q.md == 0) (.sra q.d q.a q.b)
  | 9 => need (q.md == 0) (.slt q.d q.a q.b)
  | 10 => need (q.md == 0) (.sltu q.d q.a q.b)
  | 11 => need (q.md == 0) (.min q.d q.a q.b)
  | 12 => need (q.md == 0) (.max q.d q.a q.b)
  | 13 => need (q.md == 0) (.minu q.d q.a q.b)
  | 14 => need (q.md == 0) (.maxu q.d q.a q.b)
  | 15 => need (q.md == 0 && q.b == 0) (.clz q.d q.a)
  | 16 => need (q.md == 0 && q.b == 0) (.ctz q.d q.a)
  | 17 => need (q.md == 0 && q.b == 0) (.popc q.d q.a)
  | _ => .error .function

/-- Major 0x06 (R133). -/
def decodeShift (q : FI) : Except Reject Instr :=
  match (q.imm.extractLsb' 13 2).toNat with
  | 0 => need (q.imm.extractLsb' 6 7 == 0) (.slli q.d q.a (q.imm.extractLsb' 0 6))
  | 1 => need (q.imm.extractLsb' 6 7 == 0) (.srli q.d q.a (q.imm.extractLsb' 0 6))
  | 2 => need (q.imm.extractLsb' 6 7 == 0) (.srai q.d q.a (q.imm.extractLsb' 0 6))
  | _ => .error .function

/-- Major 0x07 (R133). -/
def decodeSlt (q : FI) : Except Reject Instr :=
  match (q.imm.extractLsb' 14 1).toNat with
  | 0 => .ok (.slti q.d q.a (q.imm.extractLsb' 0 14))
  | 1 => .ok (.sltiu q.d q.a (q.imm.extractLsb' 0 14))
  | _ => .error .function

/-- Major 0x0A (R133). -/
def decodeLoad (q : FIW) : Except Reject Instr :=
  match q.w.toNat with
  | 0 => .ok (.ldS8 q.d q.a q.imm)
  | 1 => .ok (.ldZ8 q.d q.a q.imm)
  | 2 => .ok (.ldS16 q.d q.a q.imm)
  | 3 => .ok (.ldZ16 q.d q.a q.imm)
  | 4 => .ok (.ldS32 q.d q.a q.imm)
  | 5 => .ok (.ldZ32 q.d q.a q.imm)
  | 6 => .ok (.ld64 q.d q.a q.imm)
  | _ => .error .function

/-- Major 0x0B (R133). -/
def decodeStore (q : FSW) : Except Reject Instr :=
  match q.w.toNat with
  | 0 => .ok (.st8 q.b q.a (q.hi ++ q.lo))
  | 1 => .ok (.st16 q.b q.a (q.hi ++ q.lo))
  | 2 => .ok (.st32 q.b q.a (q.hi ++ q.lo))
  | 3 => .ok (.st64 q.b q.a (q.hi ++ q.lo))
  | _ => .error .function

/-- Major 0x0C (R133). -/
def decodeFpu (q : FQ) : Except Reject Instr :=
  match q.fn.toNat with
  | 0 => .ok (.fadd (q.md.extractLsb' 2 3) (q.md.extractLsb' 0 2) q.d q.a q.b)
  | 1 => .ok (.fsub (q.md.extractLsb' 2 3) (q.md.extractLsb' 0 2) q.d q.a q.b)
  | 2 => .ok (.fmul (q.md.extractLsb' 2 3) (q.md.extractLsb' 0 2) q.d q.a q.b)
  | 3 => .ok (.fdiv (q.md.extractLsb' 2 3) (q.md.extractLsb' 0 2) q.d q.a q.b)
  | 4 => need (q.b == 0) (.fsqrt (q.md.extractLsb' 2 3) (q.md.extractLsb' 0 2) q.d q.a)
  | 5 => .ok (.fmac (q.md.extractLsb' 2 3) (q.md.extractLsb' 0 2) q.d q.a q.b)
  | 6 => .ok (.fmin (q.md.extractLsb' 2 3) (q.md.extractLsb' 0 2) q.d q.a q.b)
  | 7 => .ok (.fmax (q.md.extractLsb' 2 3) (q.md.extractLsb' 0 2) q.d q.a q.b)
  | 8 => .ok (.feq (q.md.extractLsb' 2 3) (q.md.extractLsb' 0 2) q.d q.a q.b)
  | 9 => .ok (.flt (q.md.extractLsb' 2 3) (q.md.extractLsb' 0 2) q.d q.a q.b)
  | 10 => .ok (.fle (q.md.extractLsb' 2 3) (q.md.extractLsb' 0 2) q.d q.a q.b)
  | 11 => need (q.b == 0) (.fcls (q.md.extractLsb' 2 3) (q.md.extractLsb' 0 2) q.d q.a)
  | 12 => need (q.b == 0) (.fcvti (q.md.extractLsb' 2 3) (q.md.extractLsb' 0 2) q.d q.a)
  | 13 => need (q.b == 0) (.fcvtf (q.md.extractLsb' 2 3) (q.md.extractLsb' 0 2) q.d q.a)
  | 14 => need (q.b == 0) (.fcvtp (q.md.extractLsb' 2 3) (q.md.extractLsb' 0 2) q.d q.a)
  | 15 => .ok (.fsgnj (q.md.extractLsb' 2 3) (q.md.extractLsb' 0 2) q.d q.a q.b)
  | _ => .error .function

/-- Major 0x0D (R133). -/
def decodeMulDiv (q : FQ) : Except Reject Instr :=
  match q.fn.toNat with
  | 0 => need (q.md == 0) (.mul q.d q.a q.b)
  | 1 => need (q.md == 0) (.mulh q.d q.a q.b)
  | 2 => need (q.md == 0) (.mulhu q.d q.a q.b)
  | 3 => need (q.md == 0) (.mulhsu q.d q.a q.b)
  | 4 => need (q.md == 0) (.div q.d q.a q.b)
  | 5 => need (q.md == 0) (.divu q.d q.a q.b)
  | 6 => need (q.md == 0) (.rem q.d q.a q.b)
  | 7 => need (q.md == 0) (.remu q.d q.a q.b)
  | _ => .error .function

/-- Major 0x16 (R133). -/
def decodeAmo (q : FQ) : Except Reject Instr :=
  match (q.fn.extractLsb' 0 4).toNat with
  | 0 => .ok (.amoswap (q.md.extractLsb' 2 3) (q.md.getLsbD 1) (q.md.getLsbD 0) (q.fn.getLsbD 4) q.d q.a q.b)
  | 1 => .ok (.amoadd (q.md.extractLsb' 2 3) (q.md.getLsbD 1) (q.md.getLsbD 0) (q.fn.getLsbD 4) q.d q.a q.b)
  | 2 => .ok (.amoand (q.md.extractLsb' 2 3) (q.md.getLsbD 1) (q.md.getLsbD 0) (q.fn.getLsbD 4) q.d q.a q.b)
  | 3 => .ok (.amoor (q.md.extractLsb' 2 3) (q.md.getLsbD 1) (q.md.getLsbD 0) (q.fn.getLsbD 4) q.d q.a q.b)
  | 4 => .ok (.amoxor (q.md.extractLsb' 2 3) (q.md.getLsbD 1) (q.md.getLsbD 0) (q.fn.getLsbD 4) q.d q.a q.b)
  | 5 => .ok (.amomin (q.md.extractLsb' 2 3) (q.md.getLsbD 1) (q.md.getLsbD 0) (q.fn.getLsbD 4) q.d q.a q.b)
  | 6 => .ok (.amomax (q.md.extractLsb' 2 3) (q.md.getLsbD 1) (q.md.getLsbD 0) (q.fn.getLsbD 4) q.d q.a q.b)
  | 7 => .ok (.amominu (q.md.extractLsb' 2 3) (q.md.getLsbD 1) (q.md.getLsbD 0) (q.fn.getLsbD 4) q.d q.a q.b)
  | 8 => .ok (.amomaxu (q.md.extractLsb' 2 3) (q.md.getLsbD 1) (q.md.getLsbD 0) (q.fn.getLsbD 4) q.d q.a q.b)
  | 9 => .ok (.amocas (q.md.extractLsb' 2 3) (q.md.getLsbD 1) (q.md.getLsbD 0) (q.fn.getLsbD 4) q.d q.a q.b)
  | _ => .error .function

/-- Major 0x17 (R133). -/
def decodeSync (q : FQ) : Except Reject Instr :=
  match q.fn.toNat with
  | 0 => need (q.md.extractLsb' 3 2 == 0 && q.b == 0 && q.a.extractLsb' 2 3 == 0 && q.d.extractLsb' 2 3 == 0) (.fence (q.md.extractLsb' 0 3) (q.a.extractLsb' 0 2) (q.d.extractLsb' 0 2))
  | 1 => need (q.md.extractLsb' 3 2 == 0 && q.b.extractLsb' 3 2 == 0) (.ldacq (q.md.extractLsb' 0 3) (q.b.extractLsb' 0 3) q.d q.a)
  | 2 => need (q.md.extractLsb' 3 2 == 0 && q.d.extractLsb' 2 3 == 0) (.strel (q.md.extractLsb' 0 3) (q.d.extractLsb' 0 2) q.a q.b)
  | 3 => need (q.md == 0 && q.d == 0) (.mwatch q.a q.b)
  | 4 => need (q.md.extractLsb' 3 2 == 0 && q.b == 0 && q.a == 0) (.mwait (q.md.extractLsb' 0 3) q.d)
  | _ => .error .function

/-- Major 0x18 (R133). -/
def decodeCw (q : FCW) : Except Reject Instr :=
  match q.f.toNat with
  | 0 => need (q.a == 0) (.cwr q.cw q.d)
  | 1 => .ok (.cww q.cw q.d q.a)
  | 2 => .ok (.cwset q.cw q.d q.a)
  | 3 => .ok (.cwclr q.cw q.d q.a)
  | _ => .error .function

/-- Major 0x19 (R133). -/
def decodeSys (q : FQ) : Except Reject Instr :=
  match q.fn.toNat with
  | 0 => need (q.b == 0 && q.a == 0 && q.d == 0) (.svc q.md)
  | 1 => need (q.b == 0 && q.a == 0 && q.d == 0) (.brk q.md)
  | 2 => need (q.md == 0 && q.b == 0 && q.a == 0 && q.d == 0) (.uiret)
  | 3 => need (q.b == 0 && q.a == 0 && q.d == 0) (.hint q.md)
  | 4 => need (q.md == 0 && q.b == 0) (.tspawn q.d q.a)
  | 5 => need (q.md == 0 && q.b == 0 && q.a == 0 && q.d == 0) (.tyield)
  | 6 => need (q.md.extractLsb' 4 1 == 0 && q.b == 0 && q.a == 0 && q.d == 0) (.hbar (q.md.extractLsb' 0 4))
  | 7 => need (q.md.extractLsb' 3 2 == 0 && q.b == 0 && q.a == 0 && q.d == 0) (.verflip (q.md.extractLsb' 0 3))
  | 8 => need (q.md == 0 && q.b == 0 && q.a == 0 && q.d == 0) (.sret)
  | 9 => need (q.md == 0 && q.b == 0 && q.a == 0 && q.d == 0) (.wfi)
  | 10 => need (q.md == 0 && q.b == 0 && q.d == 0) (.pgate q.a)
  | 11 => need (q.md == 0 && q.d == 0) (.hstart q.a q.b)
  | 12 => need (q.md == 0 && q.b == 0 && q.d == 0) (.hstop q.a)
  | 13 => need (q.md.extractLsb' 3 2 == 0 && q.d == 0) (.tlbinv (q.md.extractLsb' 0 3) q.a q.b)
  | 14 => need (q.md == 0 && q.b == 0 && q.d == 0) (.vqsave q.a)
  | 15 => need (q.md == 0 && q.b == 0 && q.d == 0) (.vqload q.a)
  | 16 => need (q.md == 0 && q.b == 0 && q.d == 0) (.chsave q.a)
  | 17 => need (q.md == 0 && q.b == 0 && q.d == 0) (.chload q.a)
  | _ => .error .function

/-- Major 0x1A (R133). -/
def decodeRamo (q : FQ) : Except Reject Instr :=
  match (q.fn.extractLsb' 0 4).toNat with
  | 0 => need (q.md == 0) (.ramoadd (q.fn.getLsbD 4) q.d q.a q.b)
  | 1 => need (q.md == 0) (.ramoswap (q.fn.getLsbD 4) q.d q.a q.b)
  | 2 => need (q.md == 0) (.ramocas (q.fn.getLsbD 4) q.d q.a q.b)
  | 3 => need (q.md == 0) (.ramoor (q.fn.getLsbD 4) q.d q.a q.b)
  | 4 => need (q.md == 0) (.ramomin (q.fn.getLsbD 4) q.d q.a q.b)
  | 5 => need (q.md == 0) (.ramomax (q.fn.getLsbD 4) q.d q.a q.b)
  | _ => .error .function

/-- Major 0x20 (R133). -/
def decodeVset (q : FQ) : Except Reject Instr :=
  match q.fn.toNat with
  | 0 => need (q.b == 0) (.vsetl (q.md.getLsbD 4) (q.md.extractLsb' 2 2) (q.md.extractLsb' 0 2) q.d q.a)
  | 1 => need (q.md == 0 && q.b == 0 && q.a == 0) (.vgrant q.d)
  | _ => .error .function

/-- Major 0x21 (R133). -/
def decodeVfa (q : FV) : Except Reject Instr :=
  match q.fn.toNat with
  | 0 => .ok (.vfadd q.m q.fw q.d q.a q.b)
  | 1 => .ok (.vfsub q.m q.fw q.d q.a q.b)
  | 2 => .ok (.vfmul q.m q.fw q.d q.a q.b)
  | 3 => .ok (.vfma q.m q.fw q.d q.a q.b)
  | 4 => .ok (.vfnma q.m q.fw q.d q.a q.b)
  | 5 => .ok (.vfmin q.m q.fw q.d q.a q.b)
  | 6 => .ok (.vfmax q.m q.fw q.d q.a q.b)
  | 7 => .ok (.vfdiv q.m q.fw q.d q.a q.b)
  | 8 => need (q.b == 0) (.vfsqrt q.m q.fw q.d q.a)
  | 9 => need (q.b == 0) (.vfrsq q.m q.fw q.d q.a)
  | 10 => .ok (.vfuq q.m q.fw q.d q.a q.b)
  | 11 => need (q.b == 0) (.vfabs q.m q.fw q.d q.a)
  | 12 => need (q.b == 0) (.vfneg q.m q.fw q.d q.a)
  | 13 => .ok (.vfsgn q.m q.fw q.d q.a q.b)
  | 14 => .ok (.vfscale q.m q.fw q.d q.a q.b)
  | _ => .error .function

/-- Major 0x22 (R133). -/
def decodeVfb (q : FV) : Except Reject Instr :=
  match q.fn.toNat with
  | 0 => need (q.d.extractLsb' 3 2 == 0) (.vfeq q.m q.fw (q.d.extractLsb' 0 3) q.a q.b)
  | 1 => need (q.d.extractLsb' 3 2 == 0) (.vflt q.m q.fw (q.d.extractLsb' 0 3) q.a q.b)
  | 2 => need (q.d.extractLsb' 3 2 == 0) (.vfle q.m q.fw (q.d.extractLsb' 0 3) q.a q.b)
  | 3 => need (q.b == 0) (.vfcls q.m q.fw q.d q.a)
  | 4 => need (q.b == 0) (.vfcvt q.m q.fw q.d q.a)
  | 5 => need (q.b == 0) (.vfcvti q.m q.fw q.d q.a)
  | 6 => need (q.b == 0) (.vficvt q.m q.fw q.d q.a)
  | 7 => need (q.b == 0) (.vsig q.m q.fw q.d q.a)
  | 8 => need (q.b == 0 && q.a == 0) (.vrand q.m q.fw q.d)
  | _ => .error .function

/-- Major 0x23 (R133). -/
def decodeVia (q : FV) : Except Reject Instr :=
  match q.fn.toNat with
  | 0 => .ok (.vadd q.m q.fw q.d q.a q.b)
  | 1 => .ok (.vsub q.m q.fw q.d q.a q.b)
  | 2 => .ok (.vmul q.m q.fw q.d q.a q.b)
  | 3 => .ok (.vmulh q.m q.fw q.d q.a q.b)
  | 4 => .ok (.vmin q.m q.fw q.d q.a q.b)
  | 5 => .ok (.vmax q.m q.fw q.d q.a q.b)
  | 6 => .ok (.vand q.m q.fw q.d q.a q.b)
  | 7 => .ok (.vor q.m q.fw q.d q.a q.b)
  | 8 => .ok (.vxor q.m q.fw q.d q.a q.b)
  | 9 => .ok (.vsll q.m q.fw q.d q.a q.b)
  | 10 => .ok (.vsrl q.m q.fw q.d q.a q.b)
  | 11 => .ok (.vsra q.m q.fw q.d q.a q.b)
  | 12 => .ok (.vadds q.m q.fw q.d q.a q.b)
  | 13 => .ok (.vsubs q.m q.fw q.d q.a q.b)
  | 14 => .ok (.vabsd q.m q.fw q.d q.a q.b)
  | _ => .error .function

/-- Major 0x24 (R133). -/
def decodeVib (q : FV) : Except Reject Instr :=
  match q.fn.toNat with
  | 0 => need (q.d.extractLsb' 3 2 == 0) (.vseq q.m q.fw (q.d.extractLsb' 0 3) q.a q.b)
  | 1 => need (q.d.extractLsb' 3 2 == 0) (.vsne q.m q.fw (q.d.extractLsb' 0 3) q.a q.b)
  | 2 => need (q.d.extractLsb' 3 2 == 0) (.vslt q.m q.fw (q.d.extractLsb' 0 3) q.a q.b)
  | 3 => need (q.d.extractLsb' 3 2 == 0) (.vsltu q.m q.fw (q.d.extractLsb' 0 3) q.a q.b)
  | 4 => .ok (.vsel q.m q.fw q.d q.a q.b)
  | 5 => need (q.b == 0) (.vmv q.m q.fw q.d q.a)
  | 6 => need (q.b == 0) (.vbcast q.m q.fw q.d q.a)
  | 7 => need (q.b == 0 && q.a == 0) (.vidx q.m q.fw q.d)
  | _ => .error .function

/-- Major 0x25 (R133). -/
def decodeVwm (q : FV) : Except Reject Instr :=
  match q.fn.toNat with
  | 0 => .ok (.vwma q.m q.fw q.d q.a q.b)
  | 1 => .ok (.vwmul q.m q.fw q.d q.a q.b)
  | 2 => .ok (.vwadd q.m q.fw q.d q.a q.b)
  | 3 => .ok (.vdot4 q.m q.fw q.d q.a q.b)
  | _ => .error .function

/-- Major 0x26 (R133). -/
def decodeVx (q : FV) : Except Reject Instr :=
  match q.fn.toNat with
  | 0 => need (q.b.extractLsb' 2 3 == 0) (.vred q.m q.fw (q.b.extractLsb' 0 2) q.d q.a)
  | 1 => .ok (.vperm q.m q.fw q.d q.a q.b)
  | 2 => .ok (.vslup q.m q.fw q.d q.a q.b)
  | 3 => .ok (.vsldn q.m q.fw q.d q.a q.b)
  | 4 => need (q.b == 0) (.vcompress q.m q.fw q.d q.a)
  | 5 => need (q.b == 0) (.vexpand q.m q.fw q.d q.a)
  | 6 => need (q.m == 0 && q.b == 0 && q.a == 0) (.vxpose8 q.m q.fw q.d)
  | 7 => need (q.b.extractLsb' 2 3 == 0) (.vscan q.m q.fw (q.b.extractLsb' 0 2) q.d q.a)
  | _ => .error .function

/-- Major 0x27 (R133). -/
def decodeVmk (q : FV) : Except Reject Instr :=
  match q.fn.toNat with
  | 0 => need (q.m == 0 && q.fw == 0 && q.b.extractLsb' 3 2 == 0 && q.a.extractLsb' 3 2 == 0 && q.d.extractLsb' 3 2 == 0) (.mand (q.d.extractLsb' 0 3) (q.a.extractLsb' 0 3) (q.b.extractLsb' 0 3))
  | 1 => need (q.m == 0 && q.fw == 0 && q.b.extractLsb' 3 2 == 0 && q.a.extractLsb' 3 2 == 0 && q.d.extractLsb' 3 2 == 0) (.mor (q.d.extractLsb' 0 3) (q.a.extractLsb' 0 3) (q.b.extractLsb' 0 3))
  | 2 => need (q.m == 0 && q.fw == 0 && q.b.extractLsb' 3 2 == 0 && q.a.extractLsb' 3 2 == 0 && q.d.extractLsb' 3 2 == 0) (.mxor (q.d.extractLsb' 0 3) (q.a.extractLsb' 0 3) (q.b.extractLsb' 0 3))
  | 3 => need (q.m == 0 && q.fw == 0 && q.b == 0 && q.a.extractLsb' 3 2 == 0 && q.d.extractLsb' 3 2 == 0) (.mnot (q.d.extractLsb' 0 3) (q.a.extractLsb' 0 3))
  | 4 => need (q.fw == 0 && q.b == 0 && q.a.extractLsb' 3 2 == 0) (.mpop q.m q.d (q.a.extractLsb' 0 3))
  | 5 => need (q.fw == 0 && q.b == 0 && q.a.extractLsb' 3 2 == 0) (.mffs q.m q.d (q.a.extractLsb' 0 3))
  | 6 => need (q.m == 0 && q.fw == 0 && q.b == 0 && q.a == 0 && q.d.extractLsb' 3 2 == 0) (.mfromvl (q.d.extractLsb' 0 3))
  | 7 => need (q.m == 0 && q.fw == 0 && q.a.extractLsb' 3 2 == 0) (.mmvx q.d (q.a.extractLsb' 0 3) q.b)
  | _ => .error .function

/-- Major 0x28 (R133). -/
def decodeVld (q : FVM) : Except Reject Instr :=
  match ((q.flags.extractLsb' 0 1) ++ q.mode).toNat with
  | 0 => need (q.ew.extractLsb' 2 1 == 0 && q.b == 0) (.vld (q.ew.extractLsb' 0 2) (q.flags.getLsbD 1) q.m q.d q.a)
  | 1 => need (q.ew.extractLsb' 2 1 == 0) (.vlds (q.ew.extractLsb' 0 2) (q.flags.getLsbD 1) q.m q.d q.a q.b)
  | 2 => need (q.ew.extractLsb' 2 1 == 0) (.vldx (q.ew.extractLsb' 0 2) (q.flags.getLsbD 1) q.m q.d q.a q.b)
  | 3 => need (q.ew.extractLsb' 2 1 == 0) (.vldxO (q.ew.extractLsb' 0 2) (q.flags.getLsbD 1) q.m q.d q.a q.b)
  | 4 => need (q.ew.extractLsb' 2 1 == 0 && q.flags.extractLsb' 1 1 == 0 && q.b == 0) (.vldFf (q.ew.extractLsb' 0 2) q.m q.d q.a)
  | _ => .error .function

/-- Major 0x29 (R133). -/
def decodeVst (q : FVM) : Except Reject Instr :=
  match ((q.flags.extractLsb' 0 1) ++ q.mode).toNat with
  | 0 => need (q.ew.extractLsb' 2 1 == 0 && q.flags.extractLsb' 1 1 == 0 && q.b == 0) (.vst (q.ew.extractLsb' 0 2) q.m q.d q.a)
  | 1 => need (q.ew.extractLsb' 2 1 == 0 && q.flags.extractLsb' 1 1 == 0) (.vsts (q.ew.extractLsb' 0 2) q.m q.d q.a q.b)
  | 2 => need (q.ew.extractLsb' 2 1 == 0 && q.flags.extractLsb' 1 1 == 0) (.vstx (q.ew.extractLsb' 0 2) q.m q.d q.a q.b)
  | 3 => need (q.ew.extractLsb' 2 1 == 0 && q.flags.extractLsb' 1 1 == 0) (.vstxO (q.ew.extractLsb' 0 2) q.m q.d q.a q.b)
  | 4 => need (q.ew.extractLsb' 2 1 == 0 && q.flags.extractLsb' 1 1 == 0 && q.b == 0) (.vstN (q.ew.extractLsb' 0 2) q.m q.d q.a)
  | _ => .error .function

/-- Major 0x2A (R133). -/
def decodeVamo (q : FVM) : Except Reject Instr :=
  match (q.flags ++ q.mode).toNat with
  | 0 => need (q.ew.extractLsb' 2 1 == 0) (.vamoadd (q.ew.extractLsb' 0 2) q.m q.d q.a q.b)
  | 1 => need (q.ew.extractLsb' 2 1 == 0) (.vamomin (q.ew.extractLsb' 0 2) q.m q.d q.a q.b)
  | 2 => need (q.ew.extractLsb' 2 1 == 0) (.vamomax (q.ew.extractLsb' 0 2) q.m q.d q.a q.b)
  | 3 => need (q.ew.extractLsb' 2 1 == 0) (.vamoor (q.ew.extractLsb' 0 2) q.m q.d q.a q.b)
  | 4 => need (q.ew.extractLsb' 2 1 == 0) (.vamoand (q.ew.extractLsb' 0 2) q.m q.d q.a q.b)
  | 5 => need (q.ew.extractLsb' 2 1 == 0) (.vamoxor (q.ew.extractLsb' 0 2) q.m q.d q.a q.b)
  | _ => .error .function

/-- Major 0x2B (R133). -/
def decodeVmv (q : FQ) : Except Reject Instr :=
  match q.fn.toNat with
  | 0 => need (q.md == 0) (.vmvx q.d q.a q.b)
  | 1 => need (q.md == 0) (.vmvv q.d q.a q.b)
  | 2 => need (q.md == 0 && q.b == 0 && q.a == 0 && q.d == 0) (.scommit)
  | _ => .error .function

/-- Major 0x2C (R133). -/
def decodeCp (q : FQ) : Except Reject Instr :=
  match q.fn.toNat with
  | 0 => need (q.md.extractLsb' 3 2 == 0 && q.b == 0 && q.d == 0) (.cpdecl (q.md.extractLsb' 0 3) q.a)
  | 1 => need (q.md.extractLsb' 4 1 == 0) (.cpcopy (q.md.getLsbD 3) (q.md.extractLsb' 0 3) q.d q.a q.b)
  | 2 => need (q.md.extractLsb' 3 2 == 0 && q.b == 0) (.cpstat (q.md.extractLsb' 0 3) q.d q.a)
  | 3 => need (q.b == 0 && q.a == 0 && q.d == 0) (.sbinit q.md)
  | 4 => need (q.b == 0 && q.d == 0) (.sbexpect q.md q.a)
  | 5 => need (q.b == 0) (.sbwait q.md q.d q.a)
  | 6 => need (q.b == 0 && q.a == 0 && q.d == 0) (.sbcancel q.md)
  | _ => .error .function

/-- Major 0x2D (R133). -/
def decodeEq (q : FQ) : Except Reject Instr :=
  match q.fn.toNat with
  | 0 => need (q.md == 0 && q.d == 0) (.epush q.a q.b)
  | 1 => need (q.md == 0 && q.b == 0) (.epop q.d q.a)
  | 2 => need (q.md == 0 && q.b == 0) (.eprobe q.d q.a)
  | _ => .error .function

/-- Major 0x2E (R133). -/
def decodeGth (q : FQ) : Except Reject Instr :=
  match q.fn.toNat with
  | 0 => need (q.md == 0 && q.b == 0 && q.a == 0 && q.d == 0) (.ginit)
  | 1 => need (q.md.extractLsb' 3 2 == 0) (.gunite (q.md.extractLsb' 0 3) q.d q.a q.b)
  | 2 => need (q.md.extractLsb' 3 2 == 0 && q.b == 0) (.gfind (q.md.extractLsb' 0 3) q.d q.a)
  | 3 => .ok (.grelabel (q.md.getLsbD 4) (q.md.getLsbD 3) (q.md.extractLsb' 0 3) q.d q.a q.b)
  | 4 => need (q.md == 0 && q.b == 0) (.gsize q.d q.a)
  | 5 => need (q.md == 0 && q.b == 0 && q.a == 0) (.gsnap q.d)
  | 6 => need (q.md == 0 && q.b == 0 && q.a == 0 && q.d == 0) (.gundo)
  | 7 => need (q.md == 0 && q.b == 0 && q.a == 0 && q.d == 0) (.gdrop)
  | _ => .error .function

/-- Major 0x2F (R133). -/
def decodeSpn (q : FQ) : Except Reject Instr :=
  match q.fn.toNat with
  | 0 => need (q.md == 0 && q.b == 0 && q.d == 0) (.chain q.a)
  | 1 => need (q.md == 0 && q.b == 0 && q.a == 0 && q.d == 0) (.chret)
  | 2 => need (q.b == 0 && q.a == 0) (.chstat q.md q.d)
  | 3 => need (q.md == 0 && q.b == 0 && q.a == 0 && q.d == 0) (.chabort)
  | _ => .error .function

/-- Major 0x30 (R133). -/
def decodeTrn (q : FQ) : Except Reject Instr :=
  match q.fn.toNat with
  | 0 => need (q.md == 0 && q.b == 0) (.lsupd q.d q.a)
  | 1 => need (q.md == 0 && q.b == 0 && q.d == 0) (.lsacc q.a)
  | 2 => need (q.md == 0 && q.b == 0 && q.d.extractLsb' 4 1 == 0) (.cbload (q.d.extractLsb' 0 4) q.a)
  | _ => .error .function

/-- A 32-bit instruction by its major opcode (R132), before the checks of `Instr.wf`. -/
def decode32 (w : BitVec 32) : Except Reject Instr :=
  match (w.extractLsb' 1 6).toNat with
  | 0x01 => decodeAlu (unpackQ w)
  | 0x02 => let q := unpackI w; .ok (.addi q.d q.a q.imm)
  | 0x03 => let q := unpackI w; .ok (.andi q.d q.a q.imm)
  | 0x04 => let q := unpackI w; .ok (.ori q.d q.a q.imm)
  | 0x05 => let q := unpackI w; .ok (.xori q.d q.a q.imm)
  | 0x06 => decodeShift (unpackI w)
  | 0x07 => decodeSlt (unpackI w)
  | 0x08 => let q := unpackJ w; .ok (.lim q.d q.imm)
  | 0x09 => let q := unpackJ w; .ok (.adpc q.d q.imm)
  | 0x0A => decodeLoad (unpackIW w)
  | 0x0B => decodeStore (unpackSW w)
  | 0x0C => decodeFpu (unpackQ w)
  | 0x0D => decodeMulDiv (unpackQ w)
  | 0x0E => let q := unpackB w; .ok (.beq q.a q.b (q.hi ++ q.lo))
  | 0x0F => let q := unpackB w; .ok (.bne q.a q.b (q.hi ++ q.lo))
  | 0x10 => let q := unpackB w; .ok (.blt q.a q.b (q.hi ++ q.lo))
  | 0x11 => let q := unpackB w; .ok (.bge q.a q.b (q.hi ++ q.lo))
  | 0x12 => let q := unpackB w; .ok (.bltu q.a q.b (q.hi ++ q.lo))
  | 0x13 => let q := unpackB w; .ok (.bgeu q.a q.b (q.hi ++ q.lo))
  | 0x14 => let q := unpackJ w; .ok (.jal q.d q.imm)
  | 0x15 => let q := unpackI w; .ok (.jalr q.d q.a q.imm)
  | 0x16 => decodeAmo (unpackQ w)
  | 0x17 => decodeSync (unpackQ w)
  | 0x18 => decodeCw (unpackCW w)
  | 0x19 => decodeSys (unpackQ w)
  | 0x1A => decodeRamo (unpackQ w)
  | 0x20 => decodeVset (unpackQ w)
  | 0x21 => decodeVfa (unpackV w)
  | 0x22 => decodeVfb (unpackV w)
  | 0x23 => decodeVia (unpackV w)
  | 0x24 => decodeVib (unpackV w)
  | 0x25 => decodeVwm (unpackV w)
  | 0x26 => decodeVx (unpackV w)
  | 0x27 => decodeVmk (unpackV w)
  | 0x28 => decodeVld (unpackVM w)
  | 0x29 => decodeVst (unpackVM w)
  | 0x2A => decodeVamo (unpackVM w)
  | 0x2B => decodeVmv (unpackQ w)
  | 0x2C => decodeCp (unpackQ w)
  | 0x2D => decodeEq (unpackQ w)
  | 0x2E => decodeGth (unpackQ w)
  | 0x2F => decodeSpn (unpackQ w)
  | 0x30 => decodeTrn (unpackQ w)
  | _ => .error .major

/-- A 16-bit instruction (R144). -/
def decode16 (w : BitVec 16) : Except Reject Instr :=
  match (w.extractLsb' 2 4).toNat with
  | 0 => .ok (.cAddi (w.extractLsb' 9 7) (w.extractLsb' 6 3))
  | 1 => .ok (.cLi (w.extractLsb' 9 7) (w.extractLsb' 6 3))
  | 2 => need (w.extractLsb' 12 4 == 0) (.cMv (w.extractLsb' 9 3) (w.extractLsb' 6 3))
  | 3 => need (w.extractLsb' 12 4 == 0) (.cAdd (w.extractLsb' 9 3) (w.extractLsb' 6 3))
  | 4 => need (w.extractLsb' 12 4 == 0) (.cSub (w.extractLsb' 9 3) (w.extractLsb' 6 3))
  | 5 => .ok (.cLd (w.extractLsb' 12 4) (w.extractLsb' 9 3) (w.extractLsb' 6 3))
  | 6 => .ok (.cSt (w.extractLsb' 12 4) (w.extractLsb' 9 3) (w.extractLsb' 6 3))
  | 7 => .ok (.cBeqz (w.extractLsb' 9 7) (w.extractLsb' 6 3))
  | 8 => .ok (.cBnez (w.extractLsb' 9 7) (w.extractLsb' 6 3))
  | 9 => .ok (.cJ (w.extractLsb' 6 10))
  | 10 => need (w.extractLsb' 11 5 == 0) (.cJr (w.extractLsb' 6 5))
  | 11 => need (w.extractLsb' 6 10 == 0) .cNop
  | _ => .error .major

/-- The fields of a tile instruction (R145). -/
structure FT where
  oc : BitVec 5
  ob : BitVec 5
  oa : BitVec 5
  fw : BitVec 5
  bank : BitVec 1
  acc : BitVec 4
  cls : BitVec 5
  res2 : BitVec 20
  cnt : BitVec 4
  res1 : BitVec 2
  asrc : BitVec 2
  ord : BitVec 1
  m : BitVec 3
deriving DecidableEq, Repr

/-- The fields of the two words of a tile instruction (R145). -/
def unpackT (w w2 : BitVec 32) : FT :=
  ⟨w.extractLsb' 27 5, w.extractLsb' 22 5, w.extractLsb' 17 5, w.extractLsb' 12 5, w.extractLsb' 11 1,
   w.extractLsb' 7 4, w.extractLsb' 2 5, w2.extractLsb' 12 20, w2.extractLsb' 8 4, w2.extractLsb' 6 2,
   w2.extractLsb' 4 2, w2.extractLsb' 3 1, w2.extractLsb' 0 3⟩

/-- The first word of a tile instruction (R145). -/
def packT1 (q : FT) : BitVec 32 := q.oc ++ q.ob ++ q.oa ++ q.fw ++ q.bank ++ q.acc ++ q.cls ++ 3#2

/-- The second word of a tile instruction (R145). -/
def packT2 (q : FT) : BitVec 32 := q.res2 ++ q.cnt ++ q.res1 ++ q.asrc ++ q.ord ++ q.m

/-- w2 holds nothing but the named fields (R146). -/
def w2Only (q : FT) (m ord asrc cnt : Bool) : Bool :=
  q.res2 == 0 && q.res1 == 0 && (m || q.m == 0) && (ord || q.ord == 0) && (asrc || q.asrc == 0) && (cnt || q.cnt == 0)

/-- A 64-bit tile instruction by its class (R146). -/
def decode64 (w w2 : BitVec 32) : Except Reject Instr :=
  let q := unpackT w w2
  match q.cls.toNat with
  | 0 => need (q.acc == 0 && q.bank == 0 && q.fw == 0 && q.oc == 0 && w2Only q false false false false)
      (.mshape q.oa q.ob)
  | 1 => need (q.acc == 0 && q.oc == 0 && w2Only q false false false false) (.mldb q.bank q.fw q.oa q.ob)
  | 2 => need (q.acc == 0 && w2Only q false false false false) (.mldbx q.bank q.fw q.oa q.ob q.oc)
  | 3 => need (q.oc == 0 && w2Only q true true true false && q.asrc.toNat ≤ 1)
      (if q.ord == 1 then .mmulO q.acc q.bank q.fw (q.asrc == 1) q.oa q.ob q.m
       else .mmulF q.acc q.bank q.fw (q.asrc == 1) q.oa q.ob q.m)
  | 4 => need (q.bank == 0 && q.fw == 0 && q.oa == 0 && q.ob == 0 && q.oc == 0 && w2Only q false false false true)
      (.mzero q.acc q.cnt)
  | 5 => need (q.bank == 0 && q.oc == 0 && w2Only q true false false false) (.mrd q.acc q.fw q.oa q.ob q.m)
  | 6 => need (q.bank == 0 && q.oc == 0 && w2Only q true false false false) (.mwr q.acc q.fw q.oa q.ob q.m)
  | 7 => need (q.bank == 0 && q.oc == 0 && w2Only q true false false false) (.mst q.acc q.fw q.oa q.ob q.m)
  | 8 => need (q.bank == 0 && q.fw == 0 && q.ob == 0 && q.oc == 0 && w2Only q false false false false)
      (.msig q.acc q.oa)
  | 9 => need (q.bank == 0 && q.fw == 0 && q.ob == 0 && q.oc == 0 && w2Only q true false false false)
      (.mscl q.acc q.oa q.m)
  | _ => .error .major

/-- The length in bytes that the first parcel fixes (R127). -/
def parcelLength (p : BitVec 16) : Nat :=
  if !p.getLsbD 0 then 4 else if !p.getLsbD 1 then 2 else 8

/-- An instruction that also passes `Instr.wf`. -/
def checked (r : Except Reject Instr) (n : Nat) : Except Reject (Instr × Nat) :=
  match r with
  | .ok i => if i.wf then .ok (i, n) else .error .field
  | .error e => .error e

/-- Two bytes as they lie in memory, little-endian (R2). -/
def parcel (a b : Byte) : BitVec 16 := b ++ a

/-- The instruction at the start of a list of bytes and its length in bytes (R127, R147). -/
def decode : List Byte → Except Reject (Instr × Nat)
  | a :: b :: r =>
    let p := parcel a b
    match parcelLength p, r with
    | 2, _ => checked (decode16 p) 2
    | 4, c :: d :: _ => checked (decode32 (parcel c d ++ p)) 4
    | 8, c :: d :: e :: f :: g :: h :: _ =>
      checked (decode64 (parcel c d ++ p) (parcel g h ++ parcel e f)) 8
    | _, _ => .error .short
  | _ => .error .short

/-- `n` little-endian bytes of a number (R2). -/
def bytesLE : Nat → Nat → List Byte
  | 0, _ => []
  | n + 1, w => BitVec.ofNat 8 w :: bytesLE n (w / 256)

/-- The four bytes of a word as they lie in memory (R2). -/
def le32 (w : BitVec 32) : List Byte :=
  [w.extractLsb' 0 8, w.extractLsb' 8 8, w.extractLsb' 16 8, w.extractLsb' 24 8]

/-- The two bytes of a parcel as they lie in memory (R2). -/
def le16 (w : BitVec 16) : List Byte := [w.extractLsb' 0 8, w.extractLsb' 8 8]

/-- The bytes of a tile instruction (R145). -/
def le64 (q : FT) : List Byte := le32 (packT1 q) ++ le32 (packT2 q)

/-- The bytes of an instruction as they lie in memory (R127 to R146); an event has none. -/
def encode : Instr → List Byte
  | .add d a b => le32 (packQ 0x01 ⟨0, 0, b, a, d⟩)
  | .sub d a b => le32 (packQ 0x01 ⟨0, 1, b, a, d⟩)
  | .and d a b => le32 (packQ 0x01 ⟨0, 2, b, a, d⟩)
  | .or d a b => le32 (packQ 0x01 ⟨0, 3, b, a, d⟩)
  | .xor d a b => le32 (packQ 0x01 ⟨0, 4, b, a, d⟩)
  | .andn d a b => le32 (packQ 0x01 ⟨0, 5, b, a, d⟩)
  | .sll d a b => le32 (packQ 0x01 ⟨0, 6, b, a, d⟩)
  | .srl d a b => le32 (packQ 0x01 ⟨0, 7, b, a, d⟩)
  | .sra d a b => le32 (packQ 0x01 ⟨0, 8, b, a, d⟩)
  | .slt d a b => le32 (packQ 0x01 ⟨0, 9, b, a, d⟩)
  | .sltu d a b => le32 (packQ 0x01 ⟨0, 10, b, a, d⟩)
  | .min d a b => le32 (packQ 0x01 ⟨0, 11, b, a, d⟩)
  | .max d a b => le32 (packQ 0x01 ⟨0, 12, b, a, d⟩)
  | .minu d a b => le32 (packQ 0x01 ⟨0, 13, b, a, d⟩)
  | .maxu d a b => le32 (packQ 0x01 ⟨0, 14, b, a, d⟩)
  | .clz d a => le32 (packQ 0x01 ⟨0, 15, 0, a, d⟩)
  | .ctz d a => le32 (packQ 0x01 ⟨0, 16, 0, a, d⟩)
  | .popc d a => le32 (packQ 0x01 ⟨0, 17, 0, a, d⟩)
  | .addi d a i => le32 (packI 0x02 ⟨i, a, d⟩)
  | .andi d a i => le32 (packI 0x03 ⟨i, a, d⟩)
  | .ori d a i => le32 (packI 0x04 ⟨i, a, d⟩)
  | .xori d a i => le32 (packI 0x05 ⟨i, a, d⟩)
  | .slli d a h => le32 (packI 0x06 ⟨0#2 ++ 0#7 ++ h, a, d⟩)
  | .srli d a h => le32 (packI 0x06 ⟨1#2 ++ 0#7 ++ h, a, d⟩)
  | .srai d a h => le32 (packI 0x06 ⟨2#2 ++ 0#7 ++ h, a, d⟩)
  | .slti d a i => le32 (packI 0x07 ⟨0#1 ++ i, a, d⟩)
  | .sltiu d a i => le32 (packI 0x07 ⟨1#1 ++ i, a, d⟩)
  | .lim d i => le32 (packJ 0x08 ⟨i, d⟩)
  | .adpc d i => le32 (packJ 0x09 ⟨i, d⟩)
  | .mul d a b => le32 (packQ 0x0D ⟨0, 0, b, a, d⟩)
  | .mulh d a b => le32 (packQ 0x0D ⟨0, 1, b, a, d⟩)
  | .mulhu d a b => le32 (packQ 0x0D ⟨0, 2, b, a, d⟩)
  | .mulhsu d a b => le32 (packQ 0x0D ⟨0, 3, b, a, d⟩)
  | .div d a b => le32 (packQ 0x0D ⟨0, 4, b, a, d⟩)
  | .divu d a b => le32 (packQ 0x0D ⟨0, 5, b, a, d⟩)
  | .rem d a b => le32 (packQ 0x0D ⟨0, 6, b, a, d⟩)
  | .remu d a b => le32 (packQ 0x0D ⟨0, 7, b, a, d⟩)
  | .ldS8 d a i => le32 (packIW 0x0A ⟨i, 0, a, d⟩)
  | .ldZ8 d a i => le32 (packIW 0x0A ⟨i, 1, a, d⟩)
  | .ldS16 d a i => le32 (packIW 0x0A ⟨i, 2, a, d⟩)
  | .ldZ16 d a i => le32 (packIW 0x0A ⟨i, 3, a, d⟩)
  | .ldS32 d a i => le32 (packIW 0x0A ⟨i, 4, a, d⟩)
  | .ldZ32 d a i => le32 (packIW 0x0A ⟨i, 5, a, d⟩)
  | .ld64 d a i => le32 (packIW 0x0A ⟨i, 6, a, d⟩)
  | .st8 b a i => le32 (packSW 0x0B ⟨i.extractLsb' 5 7, 0, b, a, i.extractLsb' 0 5⟩)
  | .st16 b a i => le32 (packSW 0x0B ⟨i.extractLsb' 5 7, 1, b, a, i.extractLsb' 0 5⟩)
  | .st32 b a i => le32 (packSW 0x0B ⟨i.extractLsb' 5 7, 2, b, a, i.extractLsb' 0 5⟩)
  | .st64 b a i => le32 (packSW 0x0B ⟨i.extractLsb' 5 7, 3, b, a, i.extractLsb' 0 5⟩)
  | .fadd r p d a b => le32 (packQ 0x0C ⟨r ++ p, 0, b, a, d⟩)
  | .fsub r p d a b => le32 (packQ 0x0C ⟨r ++ p, 1, b, a, d⟩)
  | .fmul r p d a b => le32 (packQ 0x0C ⟨r ++ p, 2, b, a, d⟩)
  | .fdiv r p d a b => le32 (packQ 0x0C ⟨r ++ p, 3, b, a, d⟩)
  | .fsqrt r p d a => le32 (packQ 0x0C ⟨r ++ p, 4, 0, a, d⟩)
  | .fmac r p d a b => le32 (packQ 0x0C ⟨r ++ p, 5, b, a, d⟩)
  | .fmin r p d a b => le32 (packQ 0x0C ⟨r ++ p, 6, b, a, d⟩)
  | .fmax r p d a b => le32 (packQ 0x0C ⟨r ++ p, 7, b, a, d⟩)
  | .feq r p d a b => le32 (packQ 0x0C ⟨r ++ p, 8, b, a, d⟩)
  | .flt r p d a b => le32 (packQ 0x0C ⟨r ++ p, 9, b, a, d⟩)
  | .fle r p d a b => le32 (packQ 0x0C ⟨r ++ p, 10, b, a, d⟩)
  | .fcls r p d a => le32 (packQ 0x0C ⟨r ++ p, 11, 0, a, d⟩)
  | .fcvti r p d a => le32 (packQ 0x0C ⟨r ++ p, 12, 0, a, d⟩)
  | .fcvtf r p d a => le32 (packQ 0x0C ⟨r ++ p, 13, 0, a, d⟩)
  | .fcvtp r p d a => le32 (packQ 0x0C ⟨r ++ p, 14, 0, a, d⟩)
  | .fsgnj r p d a b => le32 (packQ 0x0C ⟨r ++ p, 15, b, a, d⟩)
  | .beq a b o => le32 (packB 0x0E ⟨o.extractLsb' 5 10, b, a, o.extractLsb' 0 5⟩)
  | .bne a b o => le32 (packB 0x0F ⟨o.extractLsb' 5 10, b, a, o.extractLsb' 0 5⟩)
  | .blt a b o => le32 (packB 0x10 ⟨o.extractLsb' 5 10, b, a, o.extractLsb' 0 5⟩)
  | .bge a b o => le32 (packB 0x11 ⟨o.extractLsb' 5 10, b, a, o.extractLsb' 0 5⟩)
  | .bltu a b o => le32 (packB 0x12 ⟨o.extractLsb' 5 10, b, a, o.extractLsb' 0 5⟩)
  | .bgeu a b o => le32 (packB 0x13 ⟨o.extractLsb' 5 10, b, a, o.extractLsb' 0 5⟩)
  | .jal d i => le32 (packJ 0x14 ⟨i, d⟩)
  | .jalr d a i => le32 (packI 0x15 ⟨i, a, d⟩)
  | .amoswap s rel acq wide d a b => le32 (packQ 0x16 ⟨s ++ bitOf rel ++ bitOf acq, bitOf wide ++ 0#4, b, a, d⟩)
  | .amoadd s rel acq wide d a b => le32 (packQ 0x16 ⟨s ++ bitOf rel ++ bitOf acq, bitOf wide ++ 1#4, b, a, d⟩)
  | .amoand s rel acq wide d a b => le32 (packQ 0x16 ⟨s ++ bitOf rel ++ bitOf acq, bitOf wide ++ 2#4, b, a, d⟩)
  | .amoor s rel acq wide d a b => le32 (packQ 0x16 ⟨s ++ bitOf rel ++ bitOf acq, bitOf wide ++ 3#4, b, a, d⟩)
  | .amoxor s rel acq wide d a b => le32 (packQ 0x16 ⟨s ++ bitOf rel ++ bitOf acq, bitOf wide ++ 4#4, b, a, d⟩)
  | .amomin s rel acq wide d a b => le32 (packQ 0x16 ⟨s ++ bitOf rel ++ bitOf acq, bitOf wide ++ 5#4, b, a, d⟩)
  | .amomax s rel acq wide d a b => le32 (packQ 0x16 ⟨s ++ bitOf rel ++ bitOf acq, bitOf wide ++ 6#4, b, a, d⟩)
  | .amominu s rel acq wide d a b => le32 (packQ 0x16 ⟨s ++ bitOf rel ++ bitOf acq, bitOf wide ++ 7#4, b, a, d⟩)
  | .amomaxu s rel acq wide d a b => le32 (packQ 0x16 ⟨s ++ bitOf rel ++ bitOf acq, bitOf wide ++ 8#4, b, a, d⟩)
  | .amocas s rel acq wide d a b => le32 (packQ 0x16 ⟨s ++ bitOf rel ++ bitOf acq, bitOf wide ++ 9#4, b, a, d⟩)
  | .fence s succ pred => le32 (packQ 0x17 ⟨0#2 ++ s, 0, 0, 0#3 ++ succ, 0#3 ++ pred⟩)
  | .ldacq s w d a => le32 (packQ 0x17 ⟨0#2 ++ s, 1, 0#2 ++ w, a, d⟩)
  | .strel s w a b => le32 (packQ 0x17 ⟨0#2 ++ s, 2, b, a, 0#3 ++ w⟩)
  | .mwatch a b => le32 (packQ 0x17 ⟨0, 3, b, a, 0⟩)
  | .mwait s d => le32 (packQ 0x17 ⟨0#2 ++ s, 4, 0, 0, d⟩)
  | .cwr c d => le32 (packCW 0x18 ⟨0, c, 0, d⟩)
  | .cww c d a => le32 (packCW 0x18 ⟨1, c, a, d⟩)
  | .cwset c d a => le32 (packCW 0x18 ⟨2, c, a, d⟩)
  | .cwclr c d a => le32 (packCW 0x18 ⟨3, c, a, d⟩)
  | .svc k => le32 (packQ 0x19 ⟨k, 0, 0, 0, 0⟩)
  | .brk k => le32 (packQ 0x19 ⟨k, 1, 0, 0, 0⟩)
  | .hint k => le32 (packQ 0x19 ⟨k, 3, 0, 0, 0⟩)
  | .tspawn d a => le32 (packQ 0x19 ⟨0, 4, 0, a, d⟩)
  | .hbar n => le32 (packQ 0x19 ⟨0#1 ++ n, 6, 0, 0, 0⟩)
  | .verflip v => le32 (packQ 0x19 ⟨0#2 ++ v, 7, 0, 0, 0⟩)
  | .pgate a => le32 (packQ 0x19 ⟨0, 10, 0, a, 0⟩)
  | .hstart a b => le32 (packQ 0x19 ⟨0, 11, b, a, 0⟩)
  | .hstop a => le32 (packQ 0x19 ⟨0, 12, 0, a, 0⟩)
  | .tlbinv s a b => le32 (packQ 0x19 ⟨0#2 ++ s, 13, b, a, 0⟩)
  | .vqsave a => le32 (packQ 0x19 ⟨0, 14, 0, a, 0⟩)
  | .vqload a => le32 (packQ 0x19 ⟨0, 15, 0, a, 0⟩)
  | .chsave a => le32 (packQ 0x19 ⟨0, 16, 0, a, 0⟩)
  | .chload a => le32 (packQ 0x19 ⟨0, 17, 0, a, 0⟩)
  | .ramoadd wide d a b => le32 (packQ 0x1A ⟨0, bitOf wide ++ 0#4, b, a, d⟩)
  | .ramoswap wide d a b => le32 (packQ 0x1A ⟨0, bitOf wide ++ 1#4, b, a, d⟩)
  | .ramocas wide d a b => le32 (packQ 0x1A ⟨0, bitOf wide ++ 2#4, b, a, d⟩)
  | .ramoor wide d a b => le32 (packQ 0x1A ⟨0, bitOf wide ++ 3#4, b, a, d⟩)
  | .ramomin wide d a b => le32 (packQ 0x1A ⟨0, bitOf wide ++ 4#4, b, a, d⟩)
  | .ramomax wide d a b => le32 (packQ 0x1A ⟨0, bitOf wide ++ 5#4, b, a, d⟩)
  | .vsetl g ew n d a => le32 (packQ 0x20 ⟨bitOf g ++ ew ++ n, 0, 0, a, d⟩)
  | .vgrant d => le32 (packQ 0x20 ⟨0, 1, 0, 0, d⟩)
  | .vfadd m fw d a b => le32 (packV 0x21 ⟨0, m, fw, b, a, d⟩)
  | .vfsub m fw d a b => le32 (packV 0x21 ⟨1, m, fw, b, a, d⟩)
  | .vfmul m fw d a b => le32 (packV 0x21 ⟨2, m, fw, b, a, d⟩)
  | .vfma m fw d a b => le32 (packV 0x21 ⟨3, m, fw, b, a, d⟩)
  | .vfnma m fw d a b => le32 (packV 0x21 ⟨4, m, fw, b, a, d⟩)
  | .vfmin m fw d a b => le32 (packV 0x21 ⟨5, m, fw, b, a, d⟩)
  | .vfmax m fw d a b => le32 (packV 0x21 ⟨6, m, fw, b, a, d⟩)
  | .vfdiv m fw d a b => le32 (packV 0x21 ⟨7, m, fw, b, a, d⟩)
  | .vfsqrt m fw d a => le32 (packV 0x21 ⟨8, m, fw, 0, a, d⟩)
  | .vfrsq m fw d a => le32 (packV 0x21 ⟨9, m, fw, 0, a, d⟩)
  | .vfuq m fw d a b => le32 (packV 0x21 ⟨10, m, fw, b, a, d⟩)
  | .vfabs m fw d a => le32 (packV 0x21 ⟨11, m, fw, 0, a, d⟩)
  | .vfneg m fw d a => le32 (packV 0x21 ⟨12, m, fw, 0, a, d⟩)
  | .vfsgn m fw d a b => le32 (packV 0x21 ⟨13, m, fw, b, a, d⟩)
  | .vfscale m fw d a b => le32 (packV 0x21 ⟨14, m, fw, b, a, d⟩)
  | .vfeq m fw d a b => le32 (packV 0x22 ⟨0, m, fw, b, a, 0#2 ++ d⟩)
  | .vflt m fw d a b => le32 (packV 0x22 ⟨1, m, fw, b, a, 0#2 ++ d⟩)
  | .vfle m fw d a b => le32 (packV 0x22 ⟨2, m, fw, b, a, 0#2 ++ d⟩)
  | .vfcls m fw d a => le32 (packV 0x22 ⟨3, m, fw, 0, a, d⟩)
  | .vfcvt m fw d a => le32 (packV 0x22 ⟨4, m, fw, 0, a, d⟩)
  | .vfcvti m fw d a => le32 (packV 0x22 ⟨5, m, fw, 0, a, d⟩)
  | .vficvt m fw d a => le32 (packV 0x22 ⟨6, m, fw, 0, a, d⟩)
  | .vsig m fw d a => le32 (packV 0x22 ⟨7, m, fw, 0, a, d⟩)
  | .vrand m fw d => le32 (packV 0x22 ⟨8, m, fw, 0, 0, d⟩)
  | .vadd m fw d a b => le32 (packV 0x23 ⟨0, m, fw, b, a, d⟩)
  | .vsub m fw d a b => le32 (packV 0x23 ⟨1, m, fw, b, a, d⟩)
  | .vmul m fw d a b => le32 (packV 0x23 ⟨2, m, fw, b, a, d⟩)
  | .vmulh m fw d a b => le32 (packV 0x23 ⟨3, m, fw, b, a, d⟩)
  | .vmin m fw d a b => le32 (packV 0x23 ⟨4, m, fw, b, a, d⟩)
  | .vmax m fw d a b => le32 (packV 0x23 ⟨5, m, fw, b, a, d⟩)
  | .vand m fw d a b => le32 (packV 0x23 ⟨6, m, fw, b, a, d⟩)
  | .vor m fw d a b => le32 (packV 0x23 ⟨7, m, fw, b, a, d⟩)
  | .vxor m fw d a b => le32 (packV 0x23 ⟨8, m, fw, b, a, d⟩)
  | .vsll m fw d a b => le32 (packV 0x23 ⟨9, m, fw, b, a, d⟩)
  | .vsrl m fw d a b => le32 (packV 0x23 ⟨10, m, fw, b, a, d⟩)
  | .vsra m fw d a b => le32 (packV 0x23 ⟨11, m, fw, b, a, d⟩)
  | .vadds m fw d a b => le32 (packV 0x23 ⟨12, m, fw, b, a, d⟩)
  | .vsubs m fw d a b => le32 (packV 0x23 ⟨13, m, fw, b, a, d⟩)
  | .vabsd m fw d a b => le32 (packV 0x23 ⟨14, m, fw, b, a, d⟩)
  | .vseq m fw d a b => le32 (packV 0x24 ⟨0, m, fw, b, a, 0#2 ++ d⟩)
  | .vsne m fw d a b => le32 (packV 0x24 ⟨1, m, fw, b, a, 0#2 ++ d⟩)
  | .vslt m fw d a b => le32 (packV 0x24 ⟨2, m, fw, b, a, 0#2 ++ d⟩)
  | .vsltu m fw d a b => le32 (packV 0x24 ⟨3, m, fw, b, a, 0#2 ++ d⟩)
  | .vsel m fw d a b => le32 (packV 0x24 ⟨4, m, fw, b, a, d⟩)
  | .vmv m fw d a => le32 (packV 0x24 ⟨5, m, fw, 0, a, d⟩)
  | .vbcast m fw d a => le32 (packV 0x24 ⟨6, m, fw, 0, a, d⟩)
  | .vidx m fw d => le32 (packV 0x24 ⟨7, m, fw, 0, 0, d⟩)
  | .vwma m fw d a b => le32 (packV 0x25 ⟨0, m, fw, b, a, d⟩)
  | .vwmul m fw d a b => le32 (packV 0x25 ⟨1, m, fw, b, a, d⟩)
  | .vwadd m fw d a b => le32 (packV 0x25 ⟨2, m, fw, b, a, d⟩)
  | .vdot4 m fw d a b => le32 (packV 0x25 ⟨3, m, fw, b, a, d⟩)
  | .vred m fw o d a => le32 (packV 0x26 ⟨0, m, fw, 0#3 ++ o, a, d⟩)
  | .vperm m fw d a b => le32 (packV 0x26 ⟨1, m, fw, b, a, d⟩)
  | .vslup m fw d a b => le32 (packV 0x26 ⟨2, m, fw, b, a, d⟩)
  | .vsldn m fw d a b => le32 (packV 0x26 ⟨3, m, fw, b, a, d⟩)
  | .vcompress m fw d a => le32 (packV 0x26 ⟨4, m, fw, 0, a, d⟩)
  | .vexpand m fw d a => le32 (packV 0x26 ⟨5, m, fw, 0, a, d⟩)
  | .vxpose8 m fw d => le32 (packV 0x26 ⟨6, m, fw, 0, 0, d⟩)
  | .vscan m fw o d a => le32 (packV 0x26 ⟨7, m, fw, 0#3 ++ o, a, d⟩)
  | .mand d a b => le32 (packV 0x27 ⟨0, 0, 0, 0#2 ++ b, 0#2 ++ a, 0#2 ++ d⟩)
  | .mor d a b => le32 (packV 0x27 ⟨1, 0, 0, 0#2 ++ b, 0#2 ++ a, 0#2 ++ d⟩)
  | .mxor d a b => le32 (packV 0x27 ⟨2, 0, 0, 0#2 ++ b, 0#2 ++ a, 0#2 ++ d⟩)
  | .mnot d a => le32 (packV 0x27 ⟨3, 0, 0, 0, 0#2 ++ a, 0#2 ++ d⟩)
  | .mpop m d a => le32 (packV 0x27 ⟨4, m, 0, 0, 0#2 ++ a, d⟩)
  | .mffs m d a => le32 (packV 0x27 ⟨5, m, 0, 0, 0#2 ++ a, d⟩)
  | .mfromvl d => le32 (packV 0x27 ⟨6, 0, 0, 0, 0, 0#2 ++ d⟩)
  | .mmvx d a b => le32 (packV 0x27 ⟨7, 0, 0, b, 0#2 ++ a, d⟩)
  | .vld e q m d a => le32 (packVM 0x28 ⟨0#1 ++ e, bitOf q ++ 0#1, 0#2, m, 0, a, d⟩)
  | .vlds e q m d a b => le32 (packVM 0x28 ⟨0#1 ++ e, bitOf q ++ 0#1, 1#2, m, b, a, d⟩)
  | .vldx e q m d a b => le32 (packVM 0x28 ⟨0#1 ++ e, bitOf q ++ 0#1, 2#2, m, b, a, d⟩)
  | .vldxO e q m d a b => le32 (packVM 0x28 ⟨0#1 ++ e, bitOf q ++ 0#1, 3#2, m, b, a, d⟩)
  | .vldFf e m d a => le32 (packVM 0x28 ⟨0#1 ++ e, 0#1 ++ 1#1, 0#2, m, 0, a, d⟩)
  | .vst e m d a => le32 (packVM 0x29 ⟨0#1 ++ e, 0#1 ++ 0#1, 0#2, m, 0, a, d⟩)
  | .vsts e m d a b => le32 (packVM 0x29 ⟨0#1 ++ e, 0#1 ++ 0#1, 1#2, m, b, a, d⟩)
  | .vstx e m d a b => le32 (packVM 0x29 ⟨0#1 ++ e, 0#1 ++ 0#1, 2#2, m, b, a, d⟩)
  | .vstxO e m d a b => le32 (packVM 0x29 ⟨0#1 ++ e, 0#1 ++ 0#1, 3#2, m, b, a, d⟩)
  | .vstN e m d a => le32 (packVM 0x29 ⟨0#1 ++ e, 0#1 ++ 1#1, 0#2, m, 0, a, d⟩)
  | .vamoadd e m d a b => le32 (packVM 0x2A ⟨0#1 ++ e, 0#2, 0#2, m, b, a, d⟩)
  | .vamomin e m d a b => le32 (packVM 0x2A ⟨0#1 ++ e, 0#2, 1#2, m, b, a, d⟩)
  | .vamomax e m d a b => le32 (packVM 0x2A ⟨0#1 ++ e, 0#2, 2#2, m, b, a, d⟩)
  | .vamoor e m d a b => le32 (packVM 0x2A ⟨0#1 ++ e, 0#2, 3#2, m, b, a, d⟩)
  | .vamoand e m d a b => le32 (packVM 0x2A ⟨0#1 ++ e, 1#2, 0#2, m, b, a, d⟩)
  | .vamoxor e m d a b => le32 (packVM 0x2A ⟨0#1 ++ e, 1#2, 1#2, m, b, a, d⟩)
  | .vmvx d a b => le32 (packQ 0x2B ⟨0, 0, b, a, d⟩)
  | .vmvv d a b => le32 (packQ 0x2B ⟨0, 1, b, a, d⟩)
  | .cpdecl c a => le32 (packQ 0x2C ⟨0#2 ++ c, 0, 0, a, 0⟩)
  | .cpcopy o c d a b => le32 (packQ 0x2C ⟨0#1 ++ bitOf o ++ c, 1, b, a, d⟩)
  | .cpstat c d a => le32 (packQ 0x2C ⟨0#2 ++ c, 2, 0, a, d⟩)
  | .sbinit n => le32 (packQ 0x2C ⟨n, 3, 0, 0, 0⟩)
  | .sbexpect n a => le32 (packQ 0x2C ⟨n, 4, 0, a, 0⟩)
  | .sbwait n d a => le32 (packQ 0x2C ⟨n, 5, 0, a, d⟩)
  | .sbcancel n => le32 (packQ 0x2C ⟨n, 6, 0, 0, 0⟩)
  | .epush a b => le32 (packQ 0x2D ⟨0, 0, b, a, 0⟩)
  | .epop d a => le32 (packQ 0x2D ⟨0, 1, 0, a, d⟩)
  | .eprobe d a => le32 (packQ 0x2D ⟨0, 2, 0, a, d⟩)
  | .gunite m d a b => le32 (packQ 0x2E ⟨0#2 ++ m, 1, b, a, d⟩)
  | .gfind m d a => le32 (packQ 0x2E ⟨0#2 ++ m, 2, 0, a, d⟩)
  | .grelabel fs wb m d a b => le32 (packQ 0x2E ⟨bitOf fs ++ bitOf wb ++ m, 3, b, a, d⟩)
  | .gsize d a => le32 (packQ 0x2E ⟨0, 4, 0, a, d⟩)
  | .gsnap d => le32 (packQ 0x2E ⟨0, 5, 0, 0, d⟩)
  | .chain a => le32 (packQ 0x2F ⟨0, 0, 0, a, 0⟩)
  | .chstat s d => le32 (packQ 0x2F ⟨s, 2, 0, 0, d⟩)
  | .lsupd d a => le32 (packQ 0x30 ⟨0, 0, 0, a, d⟩)
  | .lsacc a => le32 (packQ 0x30 ⟨0, 1, 0, a, 0⟩)
  | .cbload t a => le32 (packQ 0x30 ⟨0, 2, 0, a, 0#1 ++ t⟩)
  | .cAddi i d => le16 (i ++ d ++ 0#4 ++ 1#2)
  | .cLi i d => le16 (i ++ d ++ 1#4 ++ 1#2)
  | .cMv a d => le16 (0#4 ++ a ++ d ++ 2#4 ++ 1#2)
  | .cAdd b d => le16 (0#4 ++ b ++ d ++ 3#4 ++ 1#2)
  | .cSub b d => le16 (0#4 ++ b ++ d ++ 4#4 ++ 1#2)
  | .cLd o a d => le16 (o ++ a ++ d ++ 5#4 ++ 1#2)
  | .cSt o a b => le16 (o ++ a ++ b ++ 6#4 ++ 1#2)
  | .cBeqz o a => le16 (o ++ a ++ 7#4 ++ 1#2)
  | .cBnez o a => le16 (o ++ a ++ 8#4 ++ 1#2)
  | .cJ o => le16 (o ++ 9#4 ++ 1#2)
  | .cJr a => le16 (0#5 ++ a ++ 10#4 ++ 1#2)
  | .mshape d a => le64 ⟨0, a, d, 0, 0, 0, 0, 0, 0, 0, 0, 0, 0⟩
  | .mldb bank fw a b => le64 ⟨0, b, a, fw, bank, 0, 1, 0, 0, 0, 0, 0, 0⟩
  | .mldbx bank fw a b c => le64 ⟨c, b, a, fw, bank, 0, 2, 0, 0, 0, 0, 0, 0⟩
  | .mmulO acc bank fw asrc oa ob m => le64 ⟨0, ob, oa, fw, bank, acc, 3, 0, 0, 0, 0#1 ++ bitOf asrc, 1, m⟩
  | .mmulF acc bank fw asrc oa ob m => le64 ⟨0, ob, oa, fw, bank, acc, 3, 0, 0, 0, 0#1 ++ bitOf asrc, 0, m⟩
  | .mzero acc cnt => le64 ⟨0, 0, 0, 0, 0, acc, 4, 0, cnt, 0, 0, 0, 0⟩
  | .mrd acc fw oa ob m => le64 ⟨0, ob, oa, fw, 0, acc, 5, 0, 0, 0, 0, 0, m⟩
  | .mwr acc fw oa ob m => le64 ⟨0, ob, oa, fw, 0, acc, 6, 0, 0, 0, 0, 0, m⟩
  | .mst acc fw oa ob m => le64 ⟨0, ob, oa, fw, 0, acc, 7, 0, 0, 0, 0, 0, m⟩
  | .msig acc d => le64 ⟨0, 0, d, 0, 0, acc, 8, 0, 0, 0, 0, 0, 0⟩
  | .mscl acc oa m => le64 ⟨0, 0, oa, 0, 0, acc, 9, 0, 0, 0, 0, 0, m⟩
  | .uiret => le32 (packQ 0x19 ⟨0, 2, 0, 0, 0⟩)
  | .tyield => le32 (packQ 0x19 ⟨0, 5, 0, 0, 0⟩)
  | .sret => le32 (packQ 0x19 ⟨0, 8, 0, 0, 0⟩)
  | .wfi => le32 (packQ 0x19 ⟨0, 9, 0, 0, 0⟩)
  | .scommit => le32 (packQ 0x2B ⟨0, 2, 0, 0, 0⟩)
  | .ginit => le32 (packQ 0x2E ⟨0, 0, 0, 0, 0⟩)
  | .gundo => le32 (packQ 0x2E ⟨0, 6, 0, 0, 0⟩)
  | .gdrop => le32 (packQ 0x2E ⟨0, 7, 0, 0, 0⟩)
  | .chret => le32 (packQ 0x2F ⟨0, 1, 0, 0, 0⟩)
  | .chabort => le32 (packQ 0x2F ⟨0, 3, 0, 0, 0⟩)
  | .cNop => le16 0x002D
  | .vectorDispatch => []
  | .groupCommit => []
  | .matrixExecute => []
  | .trapEntry => []
  | .arbiterRun => []
  | .yieldWindowExpiry => []
  | .hartStart => []
  | .preemptedResume => []
  | .uiDelivery => []
  | .mwaitWake => []
  | .hbarExit => []
  | .sbwaitTimeout => []
  | .wfiWake => []
  | .tyieldResolve => []
  | .copyLanding => []
  | .copyComplete => []
  | .collatorCommandStart => []
  | .bucketStart => []
  | .collatorCompletion => []
  | .resultEntryPost => []
  | .snap => []
  | .restore => []
  | .advance => []
  | .adjoint => []
  | .doorbellEnqueue => []
  | .dependenceRead => []
  | .dependenceTimer => []
  | .dispatchBind => []
  | .queueEnable => []
  | .queueDisable => []
  | .prooferStaging => []
  | .gatingBegin => []
  | .drainComplete => []
  | .gateCommit => []
  | .wakeMessage => []
  | .wakingComplete => []
  | .tableWalk => []
  | .sverWrite => []
  | .sbarWrite => []
  | .sorphanRead => []
  | .serrlogRead => []
  | .smsaveWrite => []
  | .ramotagWrite => []
  | .gatherBaseWrite => []
  | .controlWordWrite => []
  | .partitionApply => []
  | .partitionDissolve => []
  | .partitionCommandDone => []
  | .remoteRequestArrival => []
  | .dedupEntryExpiry => []
  | .remoteResponse => []
  | .portDown => []
  | .linkDownTimeout => []
  | .pathLostTimeout => []
  | .peerSilentTimeout => []
  | .keyRevocation => []
  | .scrubRead => []
  | .supplySag => []
  | .clockRecoveryStep => []
  | .inputLoss => []
  | .holdupWriteback => []
  | .holdupWrite => []
  | .holdupOff => []
  | .storeErase => []
  | .eraseComplete => []
  | .fhsdataRead => []
  | .powerControllerPeriod => []
  | .energyCalibration => []
  | .rampStep => []
  | .dieCritical => []
  | .packageReset => []
  | .measurementExtend => []
  | .attestationRequest => []
  | .hintPauseEnd => []

/-- The instruction that the decoder reads from the table's bits `w` (bit 0 the least significant bit of the first
word), laid out as the hardware stores them (R2, R127); every bit above `nbits` is 0. -/
def decodeTableWord (nbits w : Nat) : Option Instr :=
  match decode (bytesLE 8 (w % 2 ^ nbits)) with
  | .ok (i, _) => some i
  | .error _ => none

end Sys2Proof
end

