-- ==== Sys2Proof/Machine/Map.lean ====
section
/-! DEFINITION. Maps and memories as sorted lists of key and value pairs: the plain data that State is made of. -/

namespace Sys2Proof.Machine

/-- A map from numbers, as a list of pairs with rising keys. -/
abbrev KMap (α : Type) := List (Nat × α)

/-- The value at a key, or `d` where the map lists none. -/
def kget {α : Type} (d : α) : KMap α → Nat → α
  | [], _ => d
  | (k', v) :: r, k => if k' = k then v else kget d r k

/-- The map with `v` at `k`. -/
def kput {α : Type} : KMap α → Nat → α → KMap α
  | [], k, v => [(k, v)]
  | (k', v') :: r, k, v =>
    if k < k' then (k, v) :: (k', v') :: r else if k' = k then (k, v) :: r else (k', v') :: kput r k v

/-- Byte memory: the bytes that are not 0 (log 2, DESIGN CHOICE). -/
abbrev Memory := List (Nat × Byte)

/-- What an address that the memory does not list reads as (log 2, DESIGN CHOICE; R350 zeroes the memory a partition gets). -/
def unlisted : Byte := 0

/-- One byte of memory. -/
def Memory.read (m : Memory) (a : Nat) : Byte := kget unlisted m a

/-- Memory with one byte written; the canonical form lists no byte equal to `unlisted`. -/
def Memory.write : Memory → Nat → Byte → Memory
  | [], a, b => if b = unlisted then [] else [(a, b)]
  | (a', b') :: r, a, b =>
    if a < a' then (if b = unlisted then (a', b') :: r else (a, b) :: (a', b') :: r)
    else if a' = a then (if b = unlisted then r else (a, b) :: r)
    else (a', b') :: Memory.write r a b

/-- Every listed address lies at or above `lo`, the addresses rise, and no listed byte is `unlisted`. -/
def Memory.wfFrom : Nat → Memory → Bool
  | _, [] => true
  | lo, (a, b) :: r => lo ≤ a && b != unlisted && Memory.wfFrom (a + 1) r

/-- The canonical form: addresses strictly rising, no entry equal to what an unlisted address reads as. -/
def Memory.wf (m : Memory) : Bool := Memory.wfFrom 0 m

/-- `n` bytes from address `a`, lowest first. -/
def Memory.bytes (m : Memory) (a : Nat) : Nat → List Byte
  | 0 => []
  | n + 1 => m.read a :: Memory.bytes m (a + 1) n

/-- Memory with a list of bytes written from address `a`. -/
def Memory.writeBytes (m : Memory) (a : Nat) : List Byte → Memory
  | [] => m
  | b :: r => Memory.writeBytes (m.write a b) (a + 1) r

/-- The number of a little-endian list of bytes (R2). -/
def ofLE : List Byte → Nat
  | [] => 0
  | b :: r => b.toNat + 256 * ofLE r

/-- `n` little-endian bytes of a number (R2). -/
def toLE : Nat → Nat → List Byte
  | 0, _ => []
  | n + 1, w => BitVec.ofNat 8 w :: toLE n (w / 256)

/-- A list with an element inserted before the first that does not precede it. -/
def insertBy {α : Type} (le : α → α → Bool) (x : α) : List α → List α
  | [] => [x]
  | y :: r => if le x y then x :: y :: r else y :: insertBy le x r

/-- A list sorted by an order; equals keep their order. -/
def sortBy {α : Type} (le : α → α → Bool) (l : List α) : List α := l.foldr (insertBy le) []

/-- A list with one place changed; out of range changes nothing. -/
def setAt {α : Type} (l : List α) (i : Nat) (x : α) : List α := l.set i x

/-- The bit field [hi:lo] of a word as a number (R2). -/
def fld (w : W64) (hi lo : Nat) : Nat := (w.toNat >>> lo) % 2 ^ (hi + 1 - lo)

/-- A number placed at bit `lo` of a word. -/
def at64 (lo n : Nat) : W64 := BitVec.ofNat 64 (n <<< lo)

/-- A flag placed at a bit of a word. -/
def bitAt (i : Nat) (b : Bool) : W64 := if b then at64 i 1 else 0

end Sys2Proof.Machine
end

