-- ==== Sys2Proof/Machine/State.lean ====
section
/-! DEFINITION. The state of the part: everything the spec gives the machine (INVENTORY.md, State), as plain data, the
reasons a step can stop, and `State.reset`. -/

namespace Sys2Proof.Machine

/-- Why the machine stops with a fault. -/
inductive Fault where
  /-- Raised by the step after HOLDUP_OFF (R372): the package has no power and nothing is scheduled. Safe. -/
  | poweredDown
deriving DecidableEq, Repr

/-- Why the model refuses a step. -/
inductive Refusal where
  /-- Raised by an arm of `exec` for an instruction without a meaning yet. Safe. -/
  | notModelled (mnemonic : String)
  /-- Raised by the step for a scheduled event whose operands name an agent that does not exist (R8 to R12). Safe. -/
  | noSuchAgent
deriving DecidableEq, Repr

/-- R292: the privilege levels. -/
inductive Priv where
  | user | sup | fw
deriving DecidableEq, Repr

/-- Where one byte of an access lies after translation: memory, a scratchpad, or a fabric window (R352, R353). -/
inductive Loc where
  | mem (pa : Nat)
  | spad (core off : Nat)
  /-- `pa`: the window address; `node`, `addr`: where the request goes -/
  | fabric (pa : Nat) (node : BitVec 16) (addr : Nat)
deriving DecidableEq, Repr

/-- Whose copies an access sees: the segments', a die cache's, or a core's L1 before its die's (R79). -/
inductive View where
  | home
  | die (d : Nat)
  | core (c : Nat)
deriving DecidableEq, Repr

/-- An error log entry (R364, R365). -/
structure ErrEntry where
  kind : Nat
  addr : Nat
  store : Nat
  core : Nat
  hart : Nat
  unit : Nat
  act : Nat
deriving DecidableEq, Repr

/-- What a trap records (R298) and where it is reported. -/
structure TrapInfo where
  cause : BitVec 5
  val : W64 := 0
  code : BitVec 8 := 0
  idx : Nat := 0
  seq : W64 := 0
  cf : Bool := false
  sp : Bool := false
  vf : Bool := false
  /-- the log entry of a consumed error (R365) -/
  err : Option ErrEntry := none
  /-- an error that is never rolled back (R339, R363, R366) -/
  hard : Bool := false
deriving DecidableEq, Repr

/-- The address space of an access and the version bits it uses (R336, R343). -/
structure Space where
  priv : Priv := .user
  asid : BitVec 16 := 0
  slot : Option Nat := none
  ver : BitVec 8 := 0
deriving DecidableEq, Repr

/-- One entry of a vector or matrix queue with its captured operands (R25, R39, R221, R302). -/
structure QEntry where
  instr : Instr
  addr : W64
  /-- the model's program-order number, which orders the vector queue against the matrix queue (R222, R296) -/
  seq : Nat
  o1 : W64 := 0
  o2 : W64 := 0
  o3 : W64 := 0
  fw : W64 := 0
  vl : Nat := 0
  g : BitVec 2 := 0
  ew : BitVec 2 := 0
  stoch : Bool := false
  srctr : W64 := 0
  hid : Nat := 0
  /-- progress or restart index: elements or rows committed (R36 to R38, R237) -/
  k : Nat := 0
  dispatched : Bool := false
  space : Space := {}
  /-- shape captured by a matrix instruction (R221) -/
  sm : Nat := 0
  sn : Nat := 0
  sk : Nat := 0
  /-- the companion element of `vfuq`, captured at dispatch (R67) -/
  eps : W64 := 0
  /-- the load queue an operand binds: register number 28 + n stands for qn (R207) -/
  qa : Option Nat := none
  qb : Option Nat := none
  /-- a fault of this entry that no trap has reported yet (R38) -/
  fault : Option TrapInfo := none
  /-- elements of the group in progress that have been performed ahead, with the values that wait in the group-result buffer
  (R37, R202, R291) -/
  done : List (Nat × Nat) := []
  /-- `cw.slip` when the entry was queued (R34) -/
  slip : Nat := 16
  /-- the requests that its elements or rows have made to the fabric, by element and request (R199, R357) -/
  asked : KMap Nat := []
deriving DecidableEq, Repr

/-- A word of a hart's storage that poison can mark, besides the vector registers (R361, R362). -/
inductive Sram where
  | x (r : Nat)
  /-- elements 64 w to 64 w + 63 of mask k -/
  | mask (k w : Nat)
  | queue (n e : Nat)
  /-- entries 4 w to 4 w + 3 of codebook table t -/
  | cbook (t w : Nat)
  /-- the operands of the queue entry with this number -/
  | entry (seq : Nat)
  | checkpoint
deriving DecidableEq, Repr

/-- A load queue (R207 to R210, R301). -/
structure LoadQueue where
  elems : KMap W64 := []
  w : BitVec 2 := 0
  bound : Bool := false
  consumer : Bool := false
  progress : Nat := 0
  released : Nat := 0
deriving DecidableEq, Repr

/-- The watch of a hart (R157). -/
structure Watch where
  a : W64 := 0
  c : W64 := 0
  armed : Bool := false
  event : Bool := false
  /-- where the watched word lies -/
  loc : Option Loc := none
deriving DecidableEq, Repr

/-- A store held in the strip store buffer (R47, R102). -/
structure Held where
  loc : Loc
  bytes : List Byte
  scope : Nat
  /-- the address of the access, for a later fault report -/
  va : W64
  dev : Bool := false
  /-- an atomic add of this many positions to the 8-byte word at `loc` (R212) -/
  add : Option Nat := none
  /-- where its bytes begin in the strip store buffer (R46; log 13, DEDUCED) -/
  off : Nat := 0
  /-- how the store is performed at the commit (R79) -/
  view : View := .home
deriving DecidableEq, Repr

/-- The checkpoint of a guarded strip (R47, R249, R301). -/
structure Checkpoint where
  xs : List W64
  restart : W64
  srctr : W64
  guard : W64
  vcarry : W64
  carries : List (Nat × VWord)
  streams : List (Nat × Nat × Nat)
  /-- R366: a strip commit error has made it a restart point that is not used again -/
  dead : Bool := false
deriving DecidableEq, Repr

/-- A chain descriptor as `chain` reads it (R122). -/
structure ChainDesc where
  step : W64 := 0
  adj : W64 := 0
  win : W64 := 0
  wlen : Nat := 0
  n : Nat := 0
  s : Nat := 0
  clobber : Bool := false
  sigcheck : Bool := false
  sigtrap : Bool := false
  marks : W64 := 0
  sig : W64 := 0
  arg : W64 := 0
deriving DecidableEq, Repr

/-- The phase of a chain frame (R270, R271). -/
inductive Phase where
  | idle | inAdvance | inAdjoint | snapCopy | restoreCopy
deriving DecidableEq, Repr

/-- The four actions of the Spine (R264). -/
inductive Action where
  | snap (slot : Nat)
  | restore (slot : Nat)
  | advance (k : Nat)
  | adjoint (k : Nat)
deriving DecidableEq, Repr

/-- What is left of the recursion Reverse (R265); R272 regenerates it. -/
inductive Todo where
  | rev (a m c : Nat)
  | need (a : Nat)
  /-- `n` ADVANCE calls from state a -/
  | advs (a n : Nat)
  | adj (k : Nat)
  | snapNext
  | free (state : Nat)
deriving DecidableEq, Repr

/-- The schedule of a frame: what is left of it, its live index, and the slots in use with their states (R265). -/
structure Sched where
  todo : List Todo := []
  live : Nat := 0
  slots : List (Nat × Nat) := []
deriving DecidableEq, Repr

/-- A chain frame (R271), with the descriptor and the rest of the action sequence, which R272 derives. -/
structure Frame where
  desc : W64
  d : ChainDesc
  phase : Phase := .idle
  lvalid : Bool := true
  act : Nat := 0
  mism : BitVec 32 := 0
  live : Nat := 0
  cvstart : Nat := 0
  cont : W64 := 0
  reps : BitVec 32 := 0
  sx2 : W64 := 0
  sx4 : W64 := 0
  /-- validity and state of each slot -/
  slots : List (Bool × Nat) := List.replicate 64 (false, 0)
  sched : Sched := {}
  /-- the repairs in progress, the innermost first: target slot and index (R267) -/
  repairs : List (Nat × Nat) := []
  /-- schedule advances, restores, snapshots and adjoint calls (R273) -/
  tally : List Nat := [0, 0, 0, 0]
  /-- the signature entries below this number have been written (R266) -/
  signed : Nat := 0
  /-- sequence number of the Spine copy in progress (R264) -/
  seq : W64 := 0
  /-- pieces of it that have landed above `cvstart`, as first byte and length (R97) -/
  pieces : List (Nat × Nat) := []
  /-- a trap taken at a Spine point holds the frame until its return (R270) -/
  held : Bool := false
  space : Space := {}
deriving DecidableEq, Repr

/-- A strip of a stream on its way into its slot (R248). -/
structure Strip where
  k : Nat
  lo : Nat
  count : Nat
  /-- elements landed from the first on, and the places of those that have landed above them (R97) -/
  landed : Nat := 0
  above : List Nat := []
deriving DecidableEq, Repr

/-- A stream declared on a copy channel (R246, R248). -/
structure Stream where
  src : W64
  stride : W64
  len : Nat
  buf : W64
  slot : Nat
  nslots : Nat
  ew : Nat
  sb0 : Nat
  p : Nat := 0
  k : Nat := 0
  /-- the strips not yet complete, oldest first -/
  strips : List Strip := []
  /-- the hart's `nextSeq` at each `vsetl` that began a strip, newest first (R248) -/
  starts : List Nat := []
  fault : Option TrapInfo := none
  space : Space := {}
  ctx : BitVec 32 := 0
  /-- the requests for its elements, by element and request (R357) -/
  asked : KMap Nat := []
deriving DecidableEq, Repr

/-- One queued copy (R239, R250). -/
structure Copy where
  dst : W64
  src : W64
  ctl : W64
  stamp : W64
  seq : W64
  ord : Bool
  vstart : Nat := 0
  fault : Option TrapInfo := none
  space : Space := {}
  ctx : BitVec 32 := 0
  /-- bytes of the source that the copy has overwritten, as they were before it (R241) -/
  saved : KMap Byte := []
  /-- pieces that have landed above vstart, as first byte and length (R97, R250) -/
  pieces : List (Nat × Nat) := []
  /-- the requests for its pieces and its stamp, by number and request (R357) -/
  asked : KMap Nat := []
deriving DecidableEq, Repr

/-- A copy channel of a hart (R238). -/
structure Channel where
  seq : W64 := 0
  copies : List Copy := []
  stream : Option Stream := none
  lastFailed : Bool := false
  stopped : Bool := false
deriving DecidableEq, Repr

/-- The held request of a remote atomic (R218, R301). -/
structure HeldRamo where
  addr : W64 := 0
  b : W64 := 0
  d : W64 := 0
  op : AmoOp := .add
  wide : Bool := false
  held : Bool := false
deriving DecidableEq, Repr

/-- A must-save declaration (R122). -/
structure MsDecl where
  vreg : Bool := false
  mask : Bool := false
  acc : Bool := false
  cbook : Bool := false
  prio : Nat := 0
  ranges : List (W64 × Nat) := []
deriving DecidableEq, Repr

/-- A task descriptor (R122). -/
structure TaskDesc where
  entry : W64 := 0
  args : W64 := 0
  nws : Nat := 0
  ndep : Nat := 0
  prio : Nat := 0
  pref : Nat := 0
  min : Nat := 0
  gang : Nat := 0
  queue : Nat := 0
  asid : BitVec 16 := 0
  part : BitVec 16 := 0
  deps : List (W64 × W64) := []
  wstab : W64 := 0
  msdecl : W64 := 0
deriving DecidableEq, Repr

/-- A Free hart that the dispatcher or `hstart` has reserved (R307, R319, R321). -/
structure Reservation where
  /-- the context area of an `hstart`; none for a task -/
  ctx : Option W64 := none
  resume : W64 := 0
  prot : Bool := false
  task : TaskDesc := {}
  /-- the queue that the task was on (R314) -/
  queue : Nat := 0
  rank : Nat := 0
  gid : Nat := 0
  tag : BitVec 32 := 0
  prio : Nat := 0
  min : Nat := 1
  pref : Nat := 1
  /-- when it was reserved -/
  order : Nat := 0
  /-- slices given so far -/
  got : BitVec 8 := 0
  decl : Option MsDecl := none
  /-- bytes of each tier-1 range staged so far, and the space that staging uses (R324, R343) -/
  staged : List Nat := []
  space : Option Space := none
  /-- what staging has written into the share, as offset and length (R327) -/
  wrote : List (Nat × Nat) := []
  /-- bytes prefetched into memory-side segments while the task was unbound (R324) -/
  lines : Nat := 0
deriving DecidableEq, Repr

/-- Why a hart waits (R21). The instruction's address is the hart's pc. -/
inductive Wait where
  | mwait (d : Reg) (s : BitVec 3)
  | sbwait (d : Reg) (n : BitVec 5) (forever : Bool)
  | hbar (n : BitVec 4)
  | wfi
  | pgate (depth : Nat)
  | tyield
  | tspawn (q : Nat)
  /-- a `vsetl.g` held for a raised minimum (R321), with its fields -/
  | lease (ew n : BitVec 2) (d a : Reg)
deriving DecidableEq, Repr

/-- The states of a hart (R21). The context of a pre-empted hart lies in memory and the hart is Free; `hstart` reserves a
hart for it (R307, R312). -/
inductive Mode where
  | free
  | running
  /-- `handler`: the wait began in a handler -/
  | waiting (w : Wait) (handler : Bool)
  | trapped
deriving DecidableEq, Repr

/-- The eight trap words of a level (R294) and its image buffer (R297). -/
structure TrapLevel where
  tvec : W64 := 0
  cause : W64 := 0
  val : W64 := 0
  pc : W64 := 0
  stat : W64 := 0
  elem : W64 := 0
  seq : W64 := 0
  scratch : W64 := 0
  image : List QEntry := []
  /-- the trap interrupted a handler (R21) -/
  nested : Bool := false
deriving DecidableEq, Repr

/-- The user control words that are stored (R162), each a whole word. -/
structure UserWords where
  gang : W64 := 0
  vl : W64 := 0
  vgrp : W64 := 0
  lease : W64 := 0
  grant : W64 := 0
  slip : W64 := 4
  guard : W64 := 0
  vcarry : W64 := 0
  prog : W64 := 0
  fflags : W64 := 0
  seed : W64 := 0
  srctr : W64 := 0
  lscale : W64 := 0x3F800000
  lgrow : W64 := 0
  lint : W64 := 1000
  lsticky : W64 := 0
  gforest : W64 := 0
  gcount : W64 := 0
  glog : W64 := 0
  glogend : W64 := 0
  gseq : W64 := 0
  gclasses : W64 := 0
  uivec : W64 := 0
  uicause : W64 := 0
  uimask : W64 := 0
  ramotag : W64 := 0
  ramostat : W64 := 0
  energy : W64 := 0
  colarb : W64 := 4
  mshape : W64 := 0
  tl : W64 := 0
deriving DecidableEq, Repr

/-- The supervisor and firmware words of one hart (R294, R295, R313, R335, R364, R371). -/
structure SysWords where
  syield : W64 := 65536
  sctx : W64 := 0
  sswz : W64 := 0
  sbarNum : W64 := 0
  sorphtag : W64 := 0
  sasid : W64 := 0
  skasid : W64 := 0
  sdefct : W64 := 0
  smsave : W64 := 0
  serrinfo : W64 := 0
  /-- R295: all ones but the bit of cause 0x11 -/
  fdeleg : W64 := 0x1DFFFF
deriving DecidableEq, Repr

/-- A remote access that the front end has issued and not yet completed (R151, R357). -/
structure RemoteWait where
  id : Nat
  /-- the request is that of an instruction's parcel (R127) -/
  fetch : Bool := false
  result : Option RemoteResult := none
deriving DecidableEq, Repr

/-- One hart (R12, R21). -/
structure Hart where
  mode : Mode := .free
  pc : W64 := 0
  priv : Priv := .user
  x : Vector W64 32 := Vector.replicate 32 0
  v : Vector VWord 32 := Vector.replicate 32 0
  m : Vector VWord 8 := Vector.replicate 8 0
  q : Vector LoadQueue 4 := Vector.replicate 4 {}
  /-- entry c of table n at 16 n + c (R57) -/
  cb : KMap (BitVec 16) := []
  /-- poisoned 8-byte words of the vector registers: 256 r + 4 lane + word, and the kind of R361 (R362) -/
  vpoison : KMap Nat := []
  /-- poisoned words of the hart's other storage, with the kind of R361 (R362) -/
  sram : List (Sram × Nat) := []
  vq : List QEntry := []
  mq : List QEntry := []
  nextSeq : Nat := 0
  /-- matrix ownership that the hart's context holds is the core's `owner` -/
  uw : UserWords := {}
  sw : SysWords := {}
  sup : TrapLevel := {}
  fwl : TrapLevel := {}
  watch : Watch := {}
  /-- x1 and x5 to x9 (R170) -/
  shadow : List W64 := [0, 0, 0, 0, 0, 0]
  /-- pending user interrupts by the bit numbers of R301, and their details -/
  uipend : BitVec 60 := 0
  uidetail : KMap W64 := []
  frames : List Frame := []
  ended : List W64 := [0, 0, 0, 0, 0, 0]
  /-- a signature mismatch that traps at the next Spine point (R266), or an error of slot 0 (R267) -/
  spineTrap : Option TrapInfo := none
  marks : List Nat := []
  ramo : HeldRamo := {}
  remote : Option RemoteWait := none
  /-- parcels of the current instruction fetched through a fabric window, by address (R127) -/
  fetched : KMap (BitVec 16) := []
  /-- failed remote stores not yet trapped, with the privilege of the context that made them (R359) -/
  storeFaults : List (Priv × TrapInfo) := []
  ch : Vector Channel 7 := Vector.replicate 7 {}
  /-- a pre-emption or `vqsave` has stopped the channels (R252) -/
  chStopped : Bool := false
  gs : Bool := false
  buf : List Held := []
  ckpt : Option Checkpoint := none
  rollbacks : Nat := 0
  /-- a rollback has happened, and the instruction at its restart point has not completed (R49) -/
  replay : Bool := false
  /-- a strip commit is under way: some of the held stores have been performed (R102) -/
  committing : Bool := false
  /-- the widest scope of the stores that the commit under way has performed (R102) -/
  widest : Nat := 0
  /-- slices asked for (R289), and whether all of them are (R322) -/
  yreq : Nat := 0
  yall : Bool := false
  /-- the waiting hart the request serves (R322) -/
  yfor : Nat := 0
  /-- the codes of pending pre-emptions (R298), oldest first -/
  preempt : List Nat := []
  resv : Option Reservation := none
  decl : Option MsDecl := none
  charge : Nat := 0
  paused : Bool := false
  /-- the context was started by PREEMPTED_RESUME, and its watch has a resumption event to see (R157) -/
  resumed : Bool := false
  /-- the context has been saved by `vqsave` since it last ran (R50, R308) -/
  saved : Bool := false
  /-- the descriptor of the task that runs on the hart (R349) -/
  task : Option TaskDesc := none
  /-- the task's priority (R122), and the lease in force since the last grant point (R26) -/
  prio : Nat := 0
  leaseMin : Nat := 1
  leasePref : Nat := 1
  /-- when the hart was bound or reserved for the context that runs on it (R321) -/
  order : Nat := 0
  /-- how many causes of R296 the hart has taken, by a trap or a rollback: the model's own count -/
  taken : Nat := 0
deriving DecidableEq, Repr

/-- The state of a stage barrier (R242). -/
inductive BarState where
  | idle | armed | complete | broken
deriving DecidableEq, Repr

/-- A stage barrier (R242). -/
structure Barrier where
  count : BitVec 32 := 0
  p : Bool := false
  st : BarState := .idle
deriving DecidableEq, Repr

/-- A platen bank (R72, R301): integer of row k, column n at 256 k + n; scale and mark of column n, K-block b at
8 n + b. -/
structure Bank where
  q : KMap (BitVec 16) := []
  scale : KMap (BitVec 9) := []
  bad : List Nat := []
  /-- columns with a parity error (R361 kind 4) -/
  parity : List Nat := []
deriving DecidableEq, Repr

/-- The gating state of a core (R329). -/
inductive Gate where
  | active | draining | commit | gated | waking
deriving DecidableEq, Repr

/-- An entry of a translation cache (R338). -/
structure Tlb where
  va : Nat
  /-- log2 of the leaf size: 16, 29 or 42 -/
  bits : Nat
  frame : Nat
  r : Bool
  w : Bool
  x : Bool
  g : Bool
  dev : Bool
  slot : Option Nat
  asid : BitVec 16
  /-- for a twin page: the version ranges of the record, as (enabled, first page, last page), and the version that the entry was
  made under (R338, R342) -/
  twin : Option (List (Bool × Nat × Nat) × Bool)
deriving DecidableEq, Repr

/-- A copy of a line in a scalar L1 (R79), where `gen` plays no part, or of a non-home line in a die cache (R81). -/
structure Line where
  la : Nat
  gen : BitVec 16
  data : List Byte
  dirty : BitVec 64
  /-- the kind of R361 where the copy is poisoned (R362) -/
  poison : Option Nat := none
deriving DecidableEq, Repr

/-- One core (R12). -/
structure Core where
  spad : Memory := []
  spadPoison : KMap Nat := []
  /-- FP32 of tile t, row r, column n at (64 t + r) 256 + n -/
  tiles : KMap (BitVec 32) := []
  /-- poisoned 8-byte words of the tiles (R362) -/
  accPoison : KMap Nat := []
  banks : Vector Bank 2 := Vector.replicate 2 {}
  owner : Option Nat := none
  lastOwner : Option Nat := none
  bars : Vector Barrier 32 := Vector.replicate 32 {}
  gate : Gate := .active
  gateDepth : Nat := 0
  /-- the arbiter has an event to run for (R320) -/
  arb : Bool := false
  /-- sixteenths of issue (R386) -/
  ramp : Nat := 1
  tlb : List Tlb := []
  /-- the lines of the scalar L1 data cache (R79, R80) -/
  l1 : List Line := []
  /-- cycles that passed while the core was gated (R328) -/
  lost : W64 := 0
  /-- owner (part, asid) of each hart's share (R351) -/
  shares : KMap (BitVec 16 × BitVec 16) := []
deriving DecidableEq, Repr

/-- A Collator command as pushed (R255, R256). -/
structure ColCmd where
  addr : W64
  raw : List Byte
  hart : Nat
  ctx : BitVec 32
  weight : W64
  space : Space
  /-- the requests for its tables, members and stamp, by number and request (R357) -/
  asked : KMap Nat := []
deriving DecidableEq, Repr

/-- A running Collator command (R256, R257). -/
structure ColRun where
  cmd : ColCmd
  ring : List (W64 × W64)
  /-- offset, length, format, operation -/
  buckets : List (W64 × Nat × Nat × Nat)
  done : List Nat := []
  failed : Option Nat := none
  rejected : Bool := false
  /-- the buckets whose elements have been read, with the values that their members get (R257) -/
  values : KMap (List Nat) := []
  /-- the buckets whose elements have been written; their ready words are still to be (R257) -/
  reduced : List Nat := []
deriving DecidableEq, Repr

/-- A Collator FIFO (R254, R257). -/
structure Fifo where
  cmds : List ColCmd := []
  run : Option ColRun := none
  results : List W64 := []
  /-- results waiting for room (R257) -/
  waiting : List (W64 × Option (Nat × BitVec 32 × W64)) := []
  count : W64 := 0
deriving DecidableEq, Repr

/-- One compute die (R8). -/
structure Die where
  gen : BitVec 16 := 0
  lines : List Line := []
  tlb : List Tlb := []
  fifos : Vector Fifo 16 := Vector.replicate 16 {}
deriving DecidableEq, Repr

/-- A task in the on-chip part of a queue (R315, R318). -/
structure QTask where
  desc : TaskDesc
  ready : Bool := false
  /-- bytes prefetched into memory-side segments (R324) -/
  lines : Nat := 0
deriving DecidableEq, Repr

/-- A task queue (R314 to R316). -/
structure TaskQueue where
  home : Nat := 0
  cap : Nat := 0
  ovf : W64 := 0
  ovn : Nat := 0
  cset : BitVec 768 := 0
  chip : List QTask := []
  /-- head and length of the overflow ring -/
  ohead : Nat := 0
  olen : Nat := 0
  /-- the supervisor address space of the overflow area -/
  kasid : BitVec 16 := 0
  /-- hart and gang of each `tspawn` that met a spill (R316) -/
  spills : List (Nat × Nat) := []
  /-- hart and address of each `tspawn` that waits behind a spill, in order -/
  waiters : List (Nat × W64) := []
  blk : Bool := false
deriving DecidableEq, Repr

/-- A partition record as applied (R348). -/
structure PartRec where
  id : BitVec 16 := 0
  key : BitVec 32 := 0
  segs : BitVec 48 := 0
  hold : Nat := 0
  pshare : Nat := 2
  pmsc : Nat := 0
  pspad : Nat := 0
  qent : W64 := 0
  asdir : W64 := 0
  kasid : BitVec 16 := 0
  wtab : W64 := 0
  cores : BitVec 768 := 0
  fifos : BitVec 96 := 0
deriving DecidableEq, Repr

/-- An event that found no context (R310). -/
structure Orphan where
  cause : Nat
  unit : Nat
  detail : W64
  tag : BitVec 32
deriving DecidableEq, Repr

/-- What `vqsave` and `chsave` keep of a context where R302 and R271 give it no place in memory (log 30, DESIGN CHOICE): the image,
channels and frames as they were, with the operands, spaces and versions that they captured (R63, R67, R336, R343) and the fills of
the streams' slots (R252), and whether the checkpoint is used again (R366). -/
structure Kept where
  img : List QEntry := []
  ch : Vector Channel 7 := Vector.replicate 7 {}
  frames : List Frame := []
  dead : Bool := false
  /-- the task of the context, until it ends (R349) -/
  task : Option TaskDesc := none
deriving DecidableEq, Repr

/-- A partition slot (R346) with the words and queues of its partition. -/
structure Part where
  record : PartRec := {}
  sasdir : W64 := 0
  /-- version bits of each asid (R335) -/
  ver : KMap (BitVec 8) := []
  sqtab : W64 := 0
  sqctl : W64 := 0
  queues : KMap TaskQueue := []
  orphans : List Orphan := []
  orphOvf : Bool := false
  errs : List ErrEntry := []
  errOvf : Bool := false
  serrcnt : W64 := 0
  total : Nat := 0
  nextTag : BitVec 32 := 1
  nextGid : Nat := 0
  /-- entries into gang barriers (R50): gang g, rank r, barrier b at (4096 g + r) 16 + b -/
  gangIn : KMap Nat := []
  /-- the same barriers' completed exits -/
  gangDone : KMap Nat := []
  /-- gang and rank of the harts that have exited (R50) -/
  gangOut : List (Nat × Nat) := []
  /-- what the saved contexts keep beside their blocks, by context tag (log 30, DESIGN CHOICE) -/
  kept : KMap Kept := []
deriving DecidableEq, Repr

/-- The package-wide firmware words (R347, R385, R388, R391, R379). -/
structure FwWords where
  fptab : W64 := 0
  fpSlot : Nat := 0
  fpOp : Nat := 0
  fpStatus : Nat := 0
  fpBusy : Bool := false
  /-- the key of the applied record, which takes effect when busy clears (R349) -/
  fpKey : BitVec 32 := 0
  ffence : W64 := 3
  fnode : W64 := 0
  fe2e : W64 := 0
  fplim : W64 := 2400
  framp : W64 := 0x00C807D0
  fthermal : W64 := 0x06E005F0
  ftempSel : Nat := 0
  fmSel : W64 := 0
  fmext : W64 := 0
  fhsptr : W64 := 0
deriving DecidableEq, Repr

/-- Clock, throttle and power (R382 to R387). -/
structure Power where
  sagClock : Nat := 16
  limClock : Nat := 16
  step : Nat := 0
  mw : BitVec 32 := 0
  /-- R387: the scale factor of each activity class, set each millisecond -/
  calibration : KMap Nat := []
deriving DecidableEq, Repr

/-- The stages of boot (R389). -/
inductive BootStage where
  | rom | noFirmware | started
deriving DecidableEq, Repr

/-- The boot block (R389, R391, R392). -/
structure Boot where
  stage : BootStage := .rom
  /-- eight measurement registers of 64 bytes -/
  meas : List (List Byte) := List.replicate 8 (List.replicate 64 0)
  lock : BitVec 8 := 0
  svn : W64 := 0
deriving DecidableEq, Repr

/-- The phase of the hold-up sequence (R372). -/
inductive HoldPhase where
  | none | stopped | writtenBack | written | off
deriving DecidableEq, Repr

/-- The hold-up store and its sequence (R372, R375, R379). -/
structure HoldUp where
  store : Memory := []
  gen : BitVec 32 := 0
  erasing : Bool := false
  phase : HoldPhase := .none
  /-- poisoned words of the hold-up buffers: the item and its 8-byte word that they hold (R361, R362) -/
  spoiled : List (Nat × Nat) := []
deriving DecidableEq, Repr

/-- A message that the package sends to the fabric (R353, R355, R392). -/
inductive Message where
  | load (id : Nat) (node : BitVec 16) (addr width : Nat) (key : BitVec 32)
  | store (id : Nat) (node : BitVec 16) (addr : Nat) (data : List Byte) (key : BitVec 32)
  | atomic (id : Nat) (node : BitVec 16) (addr : Nat) (key : BitVec 32) (hart : Nat) (tag : W64) (retry : Bool)
      (op : AmoOp) (wide : Bool) (b d : W64)
  /-- the answer to a request that arrived; the poison mark goes with it (R360) -/
  | answer (r : RemoteResult) (poison : Bool)
  | noFirmware
  | report (bytes : List Byte)
deriving DecidableEq, Repr

/-- An outstanding remote request (R357, R358). -/
structure Request where
  id : Nat
  hart : Nat
  node : BitVec 16
  addr : Nat
  key : BitVec 32
  port : Nat
  /-- a posted store reports to `storeFaults`; a load or atomic to its hart's `remote` -/
  store : Bool
  /-- it goes to a device-ordered page (R341) -/
  dev : Bool
  /-- the privilege of the context that made it (R296, R359) -/
  priv : Priv
  va : W64
  msg : Message
  /-- the last answer was BUSY, and the request has been sent again (R219) -/
  busy : Bool := false
  /-- a vector element or an engine made it, and its result waits in `answers` (R359) -/
  engine : Bool := false
deriving DecidableEq, Repr

/-- An entry of the deduplication table (R219, R358). -/
structure Dedup where
  key : BitVec 32
  source : Nat
  hart : Nat
  tag : BitVec 16
  seq : BitVec 32
  /-- none is a tombstone, which answers "expired" -/
  result : Option W64
deriving DecidableEq, Repr

/-- Ports, requests and keys (R356 to R358). -/
structure Fabric where
  down : BitVec 32 := 0
  nextId : Nat := 0
  requests : List Request := []
  /-- requests whose own port went down (R358) -/
  orphaned : List Nat := []
  /-- what has come back to the requests of vector elements and engines, by request (R357, R359) -/
  answers : KMap RemoteResult := []
  outbox : List Message := []
  dedup : List Dedup := []
  revoked : List (BitVec 32) := []
deriving DecidableEq, Repr

/-- What moves next (log 1, DESIGN CHOICE). -/
inductive Move where
  /-- a hart's front end -/
  | hart (h : Nat)
  /-- an event of the table -/
  | event (i : Instr) (a : EventInput)
  /-- a hart's front end; a strip commit that it is at performs the held store at place `n` in this step (R102) -/
  | commit (h n : Nat)
  /-- a non-home line leaves a die cache (R82) -/
  | evict (die line : Nat)
  /-- a line leaves a core's L1 (R80) -/
  | evictL1 (core line : Nat)
  /-- a copy of a line does not agree with its CRC-32C where it is verified (R360); `consumed`: by the access that consumes it -/
  | mismatch (g : Granule) (consumed : Bool)
  /-- an uncorrectable error, of a module where `module` says so, that the access which consumes it is the first to find (R365) -/
  | latent (g : Granule) (module : Bool)
deriving DecidableEq, Repr

/-- The whole part. -/
structure State where
  /-- the hart whose front end moves when nothing is scheduled (log 1, DESIGN CHOICE) -/
  cur : Nat := 0
  schedule : List Move := []
  /-- the operands of the event that moves -/
  input : EventInput := {}
  /-- how many free values have been drawn (log 9, DESIGN CHOICE) -/
  ticks : Nat := 0
  /-- of the stores held by the hart that moves, the one that its strip commit performs in this step; none for all (R102; log 1,
  DESIGN CHOICE) -/
  pick : Option Nat := none
  cycle : W64 := 0
  harts : KMap Hart := []
  cores : KMap Core := []
  dies : KMap Die := []
  mem : Memory := []
  /-- poisoned 64-byte lines of memory, by line number (R362) -/
  poison : KMap Nat := []
  parts : KMap Part := []
  fw : FwWords := {}
  power : Power := {}
  boot : Boot := {}
  hold : HoldUp := {}
  fab : Fabric := {}
  /-- firmware's error log, for resources that no partition owns (R365) -/
  errs : List ErrEntry := []
  errOvf : Bool := false
  serrcnt : W64 := 0
  /-- the order in which harts are reserved (R321) -/
  nextOrder : Nat := 0
deriving DecidableEq, Repr

/-- The machine right after package reset: every hart Free, nothing in memory, the boot ROM about to run (R389). -/
def State.reset : State := {}

end Sys2Proof.Machine
end

