-- ==== Sys2Proof/Machine/Ops.lean ====
section
/-! DEFINITION. The named operations over the state: places and accessors, scalar registers, the grant, taking a trap and
returning from one, error reports, watches, user-interrupt events and the rollback of a guarded strip. -/

namespace Sys2Proof.Machine

/-- What one step answers. -/
abbrev Out := Host.Outcome State Fault Refusal

/-! ## Places (R9, R10) -/

/-- R9: the core of a hart. -/
def coreOf (h : Nat) : Nat := h / 4
/-- R9: the index of a hart within its core. -/
def hartIx (h : Nat) : Nat := h % 4
/-- R9: the die of a core. -/
def dieOfCore (c : Nat) : Nat := c / 128
/-- R9: the die of a hart. -/
def dieOf (h : Nat) : Nat := dieOfCore (coreOf h)
/-- R9: the harts of a core. -/
def hartsOf (c : Nat) : List Nat := [4 * c, 4 * c + 1, 4 * c + 2, 4 * c + 3]

def State.hart (s : State) (h : Nat) : Hart := kget {} s.harts h
def State.core (s : State) (c : Nat) : Core := kget {} s.cores c
def State.die (s : State) (d : Nat) : Die := kget {} s.dies d
def State.part (s : State) (p : Nat) : Part := kget {} s.parts p

def State.setHart (s : State) (h : Nat) (x : Hart) : State := { s with harts := kput s.harts h x }
def State.setCore (s : State) (c : Nat) (x : Core) : State := { s with cores := kput s.cores c x }
def State.setDie (s : State) (d : Nat) (x : Die) : State := { s with dies := kput s.dies d x }
def State.setPart (s : State) (p : Nat) (x : Part) : State := { s with parts := kput s.parts p x }

/-- The hart whose front end moves. -/
def State.me (s : State) : Hart := s.hart s.cur
def State.setMe (s : State) (x : Hart) : State := s.setHart s.cur x

/-- R346: whether a partition slot's record owns a core. -/
def PartRec.ownsCore (r : PartRec) (c : Nat) : Bool := r.id != 0 && r.cores.getLsbD c

/-- R346: the slot of the partition that owns a core. -/
def slotOfCore (s : State) (c : Nat) : Option Nat := (s.parts.find? fun p => p.2.record.ownsCore c).map (·.1)
/-- R346: the slot of the partition that owns a segment. -/
def slotOfSegment (s : State) (g : Nat) : Option Nat :=
  (s.parts.find? fun p => p.2.record.id != 0 && p.2.record.segs.getLsbD g).map (·.1)
/-- The slot of a hart's partition. -/
def slotOfHart (s : State) (h : Nat) : Option Nat := slotOfCore s (coreOf h)
/-- The partition of a slot; for no slot, an empty one. -/
def State.partOf (s : State) : Option Nat → Part
  | none => {}
  | some p => s.part p
/-- A partition changed; for no slot, nothing. -/
def State.modPart (s : State) (p : Option Nat) (f : Part → Part) : State :=
  match p with
  | none => s
  | some n => s.setPart n (f (s.part n))

/-! ## Scalar registers (R130: x0 reads zero and ignores writes) -/

def Hart.getX (h : Hart) (r : Reg) : W64 := if r = 0 then 0 else h.x[r.toNat]
/-- A register written; the whole word clears its poison (R362). -/
def Hart.setX (h : Hart) (r : Reg) (v : W64) : Hart :=
  if r = 0 then h else { h with x := h.x.set r.toNat v, sram := h.sram.filter fun m => m.1 != .x r.toNat }

/-- The program counter moved past an instruction of `n` bytes. -/
def Hart.advance (h : Hart) (n : Nat) : Hart := { h with pc := h.pc + BitVec.ofNat 64 n }

/-- x[r] of the moving hart. -/
def State.rx (s : State) (r : Reg) : W64 := s.me.getX r

/-- An instruction of `n` bytes that writes nothing but the program counter. -/
def State.pass (s : State) (n : Nat := 4) : State := s.setMe (s.me.advance n)

/-- An instruction of `n` bytes that writes x[d]. -/
def State.write (s : State) (d : Reg) (v : W64) (n : Nat := 4) : State := s.setMe ((s.me.setX d v).advance n)

/-! ## The grant (R27 to R29, R44) -/

/-- The number of set bits of a slice bitmap. -/
def popc8 (b : BitVec 8) : Nat := (List.range 8).countP fun i => b.getLsbD i

/-- R27: the slices of a grant. -/
def Hart.slices (h : Hart) : BitVec 8 := BitVec.ofNat 8 h.uw.grant.toNat
/-- R27: protected mode in force. -/
def Hart.prot (h : Hart) : Bool := h.uw.grant.getLsbD 16
/-- R27: a yield request is pending. -/
def Hart.yreqBit (h : Hart) : Bool := h.uw.grant.getLsbD 17
/-- R28: the leased lanes. -/
def Hart.lanes (h : Hart) : Nat := 8 * popc8 h.slices
/-- R29: the lanes that hold element data. -/
def Hart.leff (h : Hart) : Nat := if h.prot then h.lanes / 2 else h.lanes

/-- R27: a grant word. -/
def grantWord (sl : BitVec 8) (prot yreq : Bool) : W64 :=
  at64 0 sl.toNat ||| at64 8 (8 * popc8 sl) ||| bitAt 16 prot ||| bitAt 17 yreq

def Hart.setGrant (h : Hart) (sl : BitVec 8) (prot : Bool) : Hart :=
  { h with uw := { h.uw with grant := grantWord sl prot h.yreqBit } }
def Hart.setYreq (h : Hart) (y : Bool) : Hart :=
  { h with uw := { h.uw with grant := grantWord h.slices h.prot y } }

/-- R24: the group and element-width codes of the last `vsetl`. -/
def Hart.gcode (h : Hart) : BitVec 2 := BitVec.ofNat 2 h.uw.vgrp.toNat
def Hart.ewcode (h : Hart) : BitVec 2 := BitVec.ofNat 2 (fld h.uw.vgrp 3 2)

/-- R45, R292: guarded strips act on a hart, at user privilege. -/
def Hart.guarded (h : Hart) : Bool := h.gs && h.priv == .user

/-! ## Queues -/

/-- Whether a queue entry is of the matrix queue: a tile instruction of 64 bits (R25, R221). -/
def isMatrix : Instr → Bool
  | .mldb .. | .mldbx .. | .mmulO .. | .mmulF .. | .mzero .. | .mrd .. | .mwr .. | .mst .. | .msig .. | .mscl .. => true
  | _ => false

/-- R22, R30, R160: every earlier vector and matrix instruction of the hart has completed. -/
def Hart.drained (h : Hart) : Bool := h.vq.isEmpty && h.mq.isEmpty

/-- R24, R39: the vector instructions of a hart that have not completed, oldest first: those of the images that its levels
hold, then those queued. -/
def Hart.pendingVec (h : Hart) : List QEntry :=
  (((if h.sup.stat.getLsbD 5 then h.sup.image else []) ++ (if h.fwl.stat.getLsbD 5 then h.fwl.image else [])).filter
    fun e => !isMatrix e.instr) ++ h.vq

/-- R24: the vector commit pointer. With no vector instruction pending it is the hart's pc, so a `cwr` of `cw.vcp` reads its own
address (log 77, DEDUCED). -/
def Hart.vcp (h : Hart) : W64 := match h.pendingVec with
  | [] => h.pc
  | e :: _ => e.addr

/-! ## Error reports (R361 to R365) -/

/-- A 16-bit field at bit `lo` of a counter word, one higher, saturating (R364). -/
def bump16 (w : W64) (lo : Nat) : W64 :=
  if fld w (lo + 15) lo == 0xFFFF then w else w + at64 lo 1

/-- R364: one error counted in a partition's `cw.serrcnt`, or in firmware's (R365). -/
def countError (s : State) (slot : Option Nat) (lo : Nat) : State :=
  match slot with
  | none => { s with serrcnt := bump16 s.serrcnt lo }
  | some p => s.setPart p { s.part p with serrcnt := bump16 (s.part p).serrcnt lo }

/-- R365: an entry of a partition's error log, or of firmware's; a full log drops it. -/
def logError (s : State) (slot : Option Nat) (e : ErrEntry) : State :=
  match slot with
  | none => if s.errs.length < 64 then { s with errs := s.errs ++ [e] } else { s with errOvf := true }
  | some p =>
    let q := s.part p
    s.setPart p (if q.errs.length < 64 then { q with errs := q.errs ++ [e] } else { q with errOvf := true })

/-- R365, R366, R367: what taking a trap or a rollback for an error reports. An error of kind 6 is counted here; every other, and the
one that becomes kind 8 when a strip's commit consumes it, was counted when it was found (log 11, DEDUCED). -/
def reportError (s : State) (h : Nat) (t : TrapInfo) (act : Nat) : State :=
  match t.err with
  | none => s
  | some e =>
    let slot := slotOfHart s h
    let s := if e.kind == 6 then countError s slot 48 else s
    logError s slot { e with hart := h, act := act }

/-! ## Taking a trap and returning from one (R293 to R299) -/

/-- R293: the level a trap goes to. -/
def trapTo (h : Hart) (c : BitVec 5) : Priv :=
  if h.priv == .user && h.sw.fdeleg.getLsbD c.toNat then .sup else .fw

/-- The trap words of a level; user privilege has none and shows the supervisor's. -/
def Hart.level (h : Hart) : Priv → TrapLevel
  | .fw => h.fwl
  | _ => h.sup
def Hart.setLevel (h : Hart) (p : Priv) (w : TrapLevel) : Hart := match p with
  | .fw => { h with fwl := w }
  | _ => { h with sup := w }

/-- R292: the code of a privilege level. -/
def Priv.code : Priv → Nat
  | .user => 0
  | .sup => 1
  | .fw => 2
def Priv.ofCode (n : Nat) : Priv := if n = 0 then .user else if n = 1 then .sup else .fw

/-- R294: bit `qi` of a level. -/
def TrapLevel.qi (w : TrapLevel) : Bool := w.stat.getLsbD 5

/-- R39, R221: an entry as the queue image holds it. -/
def QEntry.stopped (e : QEntry) : QEntry := { e with fault := none, done := [], asked := [] }

/-- R127: an address that becomes the pc: bit 0 of an instruction address is clear. -/
def evenAddr (a : W64) : W64 := a &&& ~~~1

/-- R298: the status word of a trap. -/
def trapStat (t : TrapInfo) (qi : Bool) (p : Priv) : W64 :=
  at64 8 t.code.toNat ||| bitAt 7 t.cf ||| bitAt 6 t.sp ||| bitAt 5 qi ||| bitAt 4 t.vf ||| at64 0 p.code

/-- The innermost chain frame changed (R268). -/
def Hart.modFrame (h : Hart) (f : Frame → Frame) : Hart :=
  { h with frames := match h.frames.getLast? with
      | none => []
      | some x => h.frames.dropLast ++ [f x] }

/-- R297, R298: trap entry of a hart. The scalar trap point is the hart's pc; at a Spine point the recorded pc is the
continuation of the innermost frame. -/
def Hart.trap (h : Hart) (t : TrapInfo) : Hart :=
  let L := trapTo h t.cause
  let w := h.level L
  let img := (h.vq ++ h.mq).map QEntry.stopped
  let w' : TrapLevel :=
    { w with
      cause := t.cause.setWidth 64
      val := t.val
      pc := if t.sp then (h.frames.getLast?.map Frame.cont).getD 0 else h.pc
      stat := trapStat t (!img.isEmpty || w.qi) h.priv
      elem := at64 0 (t.idx % 2 ^ 40)
      seq := t.seq
      image := if img.isEmpty then w.image else img
      nested := match h.mode with
        | .trapped | .waiting _ true => true
        | _ => false }
  let h' := if t.sp then h.modFrame fun f => { f with held := true } else h
  { (h'.setLevel L w') with
    mode := .trapped, priv := L, pc := w.tvec, vq := [], mq := [], remote := none, fetched := [],
    paused := false, taken := h.taken + 1 }

/-- Trap entry of hart `i` (R297), with the report of a consumed error (R365). -/
def trapEnter (s : State) (i : Nat) (t : TrapInfo) : State :=
  let s := reportError s i t 3
  s.setHart i ((s.hart i).trap t)

/-- R250, R299: the return from a copy or stream fault lets the channel go on from its vstart. -/
def resumeChannel (ch : Vector Channel 7) (c : Nat) : Vector Channel 7 :=
  match ch[c]? with
  | none => ch
  | some x => ch.setIfInBounds c
      { x with copies := x.copies.map fun y => { y with fault := none }
               stream := x.stream.map fun y => { y with fault := none } }

/-- R299: what `sret` does to the hart. A Spine point (R270) resumes the innermost frame in its phase. -/
def Hart.sret (h : Hart) : Hart :=
  let L := h.priv
  let w := h.level L
  let h1 := if w.qi then
      { (h.setLevel L { w with stat := w.stat &&& ~~~(bitAt 5 true), image := [] }) with
        vq := w.image.filter fun e => !isMatrix e.instr
        mq := w.image.filter fun e => isMatrix e.instr }
    else h
  let h2 := if w.stat.getLsbD 6 then h1.modFrame fun f => { f with held := false } else { h1 with pc := evenAddr w.pc }
  { h2 with
    ch := if w.stat.getLsbD 7 then resumeChannel h2.ch (fld w.stat 11 8) else h2.ch
    chStopped := false
    priv := Priv.ofCode (fld w.stat 1 0)
    saved := false
    mode := if w.nested then .trapped else .running }

/-! ## Gating and wake messages (R329, R330) -/

/-- A hart in Waiting completes its instruction: it writes x[d] and goes on behind it. -/
def Hart.finish (h : Hart) (d : Reg) (v : W64) : Hart :=
  { ((h.setX d v).advance 4) with mode := match h.mode with
      | .waiting _ true | .trapped => .trapped
      | _ => .running }

/-- R330: the core is active again, and its `pgate` instructions complete. -/
def activate (s : State) (c : Nat) : State :=
  (hartsOf c).foldl (init := s.setCore c { s.core c with gate := .active }) fun t i =>
    match (t.hart i).mode with
    | .waiting (.pgate _) _ => t.setHart i ((t.hart i).finish 0 0)
    | _ => t

/-- R330: a wake message reaches a core. -/
def wakeCore (s : State) (c : Nat) : State :=
  match (s.core c).gate with
  | .draining | .commit => activate s c
  | .gated => s.setCore c { s.core c with gate := .waking }
  | .active | .waking => s

/-! ## Watches (R157) -/

/-- Whether a watch names the 64-byte line of a place. -/
def Watch.sees (w : Watch) : Loc → Bool
  | .mem pa => match w.loc with
    | some (.mem a) => a / 64 == pa / 64
    | _ => false
  | .spad c o => match w.loc with
    | some (.spad c' o') => c' == c && o' / 64 == o / 64
    | _ => false
  | .fabric .. => false

/-- R157: a write at a place sets the event bit of the armed watches on its line, among the harts that `who` admits; it
wakes the cores concerned (R329). -/
def watchEvents (s : State) (who : Nat → Bool) (l : Loc) : State :=
  s.harts.foldl (init := s) fun t p =>
    if who p.1 && p.2.watch.armed && p.2.watch.sees l then
      wakeCore (t.setHart p.1 { t.hart p.1 with watch := { p.2.watch with event := true } }) (coreOf p.1)
    else t

/-! ## User-interrupt events (R168, R169, R310) -/

/-- R301: the pending bit of a cause and unit. -/
def uiBit (cause unit : Nat) : Nat :=
  if cause = 1 then unit else if cause = 2 then 7 + unit else if cause = 3 then 39 + unit
  else if cause = 4 then 54 + unit else 59

/-- R310: an event that reaches no context with its tag enters the partition's orphan queue of 16. -/
def orphan (s : State) (i : Nat) (tag : BitVec 32) (cause unit : Nat) (detail : W64) : State :=
  s.modPart (slotOfHart s i) fun p =>
    if p.orphans.length < 16 then { p with orphans := p.orphans ++ [⟨cause, unit, detail, tag⟩] }
    else { p with orphOvf := true }

/-- R169, R310: an event for hart `i` whose engine command captured `tag`. -/
def uiEvent (s : State) (i : Nat) (tag : BitVec 32) (cause unit : Nat) (detail : W64) : State :=
  let h := s.hart i
  if BitVec.ofNat 32 h.sw.sctx.toNat == tag then
    let b := uiBit cause unit
    wakeCore (s.setHart i
      { h with uipend := h.uipend ||| BitVec.ofNat 60 (1 <<< b), uidetail := kput h.uidetail b detail }) (coreOf i)
  else orphan s i tag cause unit detail

/-- The context tag of a hart (R310). -/
def Hart.tag (h : Hart) : BitVec 32 := BitVec.ofNat 32 h.sw.sctx.toNat

/-! ## Stage barriers (R242 to R245) -/

/-- R93: the non-home lines of die `d` that hold dirty bytes, there or in an L1. -/
def dirtyLines (s : State) (d : Nat) : List Line :=
  (s.die d).lines.filter fun l => l.dirty != 0
    || s.cores.any fun p => dieOfCore p.1 == d && p.2.l1.any fun c => c.la == l.la && c.dirty != 0

/-- R93: the generation of a die wraps: its clean non-home lines are invalidated with their L1 copies, and the dirty ones stay, as
lines of an older generation. -/
def wrapGeneration (s : State) (d : Nat) : State :=
  let x := s.die d
  let keep := dirtyLines s d
  let gone := fun la => x.lines.any (fun l => l.la == la) && !keep.any fun l => l.la == la
  let cores := s.cores.map fun p =>
    if dieOfCore p.1 = d then (p.1, { p.2 with l1 := p.2.l1.filter fun l => !gone l.la }) else p
  State.setDie { s with cores := cores } d { x with gen := 0, lines := keep.map fun l => { l with gen := 0xFFFF } }

/-- R93: an acquire at package or system scope steps the generation of its die, which wraps at 16 bits. -/
def stepGeneration (s : State) (d : Nat) : State :=
  let x := s.die d
  if x.gen = 0xFFFF then wrapGeneration s d else s.setDie d { x with gen := x.gen + 1 }

/-- R89, R93: an acquire by a hart at a scope (R85). -/
def acquire (s : State) (i : Nat) (scope : Nat) : State := if 3 ≤ scope then stepGeneration s (dieOf i) else s

/-- R243 to R245: the harts of a core that wait in `sbwait` on a barrier are released with a status; status 0 is an
acquire at package scope. -/
def releaseWaiters (s : State) (c b st : Nat) : State :=
  (hartsOf c).foldl (init := s) fun t i =>
    match (t.hart i).mode with
    | .waiting (.sbwait d n _) _ =>
      if n.toNat = b then
        let t := wakeCore (t.setHart i ((t.hart i).finish d (BitVec.ofNat 64 st))) c
        if st = 0 then acquire t i 3 else t
      else t
    | _ => t

/-- A barrier of a core. -/
def State.bar (s : State) (c : Nat) (b : BitVec 5) : Barrier := (s.core c).bars[b.toNat]
def State.setBar (s : State) (c : Nat) (b : BitVec 5) (x : Barrier) : State :=
  s.setCore c { s.core c with bars := (s.core c).bars.set b.toNat x }

/-- R244: a landing of `n` bytes of hart `i`'s copy or stream, issued under `tag`. -/
def landOn (s : State) (i : Nat) (tag : BitVec 32) (b : BitVec 5) (n : Nat) : State :=
  let c := coreOf i
  let x := s.bar c b
  let k := x.count - BitVec.ofNat 32 n
  if n = 0 then s
  else if x.st = .broken then s.setBar c b { x with count := k }
  else if x.count.toInt - n < 0 then
    uiEvent (releaseWaiters (s.setBar c b { x with count := k, st := .broken }) c b.toNat 2) i tag 2 b.toNat 0
  else if x.st = .armed && k = 0 then
    releaseWaiters (s.setBar c b { count := 0, p := !x.p, st := .complete }) c b.toNat 0
  else s.setBar c b { x with count := k }

/-- R243: an armed barrier is abandoned. -/
def cancelBar (s : State) (c : Nat) (b : BitVec 5) : State :=
  let x := s.bar c b
  if x.st = .armed then releaseWaiters (s.setBar c b { x with count := 0, st := .idle }) c b.toNat 2 else s

/-- R248: a barrier that a strip of a stream arms with `k` bytes still to land. -/
def armBar (s : State) (c : Nat) (b : BitVec 5) (k : Nat) : State :=
  let x := s.bar c b
  if k = 0 then releaseWaiters (s.setBar c b { count := 0, p := !x.p, st := .complete }) c b.toNat 0
  else s.setBar c b { x with count := BitVec.ofNat 32 k, st := .armed }

/-- R248, R310: a strip that does not fit its slot breaks the barrier of a stream declared under `tag`. -/
def breakBar (s : State) (i : Nat) (tag : BitVec 32) (b : BitVec 5) : State :=
  let c := coreOf i
  uiEvent (releaseWaiters (s.setBar c b { s.bar c b with st := .broken }) c b.toNat 2) i tag 2 b.toNat 0

/-! ## Guarded strips: the checkpoint and the rollback (R47, R49, R366) -/

/-- R45: the valid carry-set registers. -/
def carrySet (w : W64) : List Nat :=
  [0, 1, 2, 3].filterMap fun i => if w.getLsbD (8 * i + 7) then some (fld w (8 * i + 4) (8 * i)) else none

/-- R249: the channels' stream positions. -/
def streamMarks (h : Hart) : List (Nat × Nat × Nat) :=
  (List.range 7).filterMap fun c => match h.ch[c]? with
    | some x => x.stream.map fun t => (c, t.p, t.k)
    | none => none

/-- R45: `cw.guard` and `cw.vcarry` as they took effect at the last `vsetl`; at a `vsetl` (`fresh`), as written. -/
def Hart.guardWords (h : Hart) (fresh : Bool) : W64 × W64 :=
  match h.ckpt with
  | some c => if fresh then (h.uw.guard, h.uw.vcarry) else (c.guard, c.vcarry)
  | none => (h.uw.guard, h.uw.vcarry)

/-- R49: the instruction at the pc is the restart point that a rollback has gone back to, not yet completed, which commits an empty
strip again; such a commit does not end the row of rollbacks (log 55, DEDUCED). -/
def Hart.recommits (h : Hart) (restart : W64) : Bool :=
  h.replay && restart == h.pc && (match h.ckpt with
    | some c => c.restart == h.pc
    | none => false)

/-- R45, R47, R301: a checkpoint with a restart point, at a `vsetl` (`fresh`) or at another commit. -/
def Hart.checkpoint (h : Hart) (restart : W64) (fresh : Bool) : Hart :=
  let g := h.guardWords fresh
  { h with
    rollbacks := if h.recommits restart then h.rollbacks else 0
    replay := h.recommits restart, committing := false
    sram := h.sram.filter fun m => m.1 != .checkpoint
    ckpt := some
      { xs := h.x.toList, restart := restart, srctr := h.uw.srctr, guard := g.1, vcarry := g.2
        carries := (carrySet g.2).map fun r => (r, h.v[r]?.getD 0)
        streams := streamMarks h } }

/-- R249: the channels with their streams back at the checkpoint. -/
def restoreStreams (ch : Vector Channel 7) (l : List (Nat × Nat × Nat)) : Vector Channel 7 :=
  l.foldl (init := ch) fun v m =>
    match v[m.1]? with
    | none => v
    | some x => v.setIfInBounds m.1 { x with stream := x.stream.map fun t => { t with
      p := m.2.1, k := m.2.2, fault := none, strips := t.strips.filter fun y => y.k < m.2.2
      starts := t.starts.drop (t.k - m.2.2) } }

/-- R49, R366: the state that a rollback restores; the queues are empty afterwards. -/
def Hart.rollback (h : Hart) (c : Checkpoint) : Hart :=
  { h with
    buf := []
    x := Vector.ofFn fun i : Fin 32 => if i.val ≠ 0 && c.guard.getLsbD (32 + i.val) then c.xs.getD i.val 0 else h.x[i]
    v := c.carries.foldl (init := h.v) fun v p => v.setIfInBounds p.1 p.2
    uw := { h.uw with srctr := c.srctr }
    ch := restoreStreams h.ch c.streams
    vq := [], mq := [], q := h.q.map fun x => { x with bound := false, consumer := false }
    remote := none, fetched := []
    pc := evenAddr c.restart
    mode := .running
    rollbacks := h.rollbacks + 1, taken := h.taken + 1, replay := true, committing := false
    sram := h.sram.filter fun m => match m.1 with
      | .x r => !(r != 0 && c.guard.getLsbD (32 + r))
      | _ => true
    vpoison := h.vpoison.filter fun m => !c.carries.any fun p => p.1 = m.1 / 256 }

/-- R298: the record of a cause with a value. -/
def cause (c : BitVec 5) (v : W64 := 0) : TrapInfo := { cause := c, val := v }

end Sys2Proof.Machine
end

