-- ==== Sys2Proof/Machine/Flags.lean ====
section
/-! DEFINITION. Number formats, exact values, rounding, overflow and the flags (R52 to R57, R61 to R67), the generator of
R63 and CRC-64 (R183). -/

namespace Sys2Proof.Machine

/-! ## Formats (R52, R53, R56) -/

/-- R52: the element formats. -/
inductive Fmt where
  | fp32 | bf16 | fp16 | e4m3 | e5m2 | e2m1 | c4 | s8 | z8 | s16 | s32 | s64 | fp64 | z16 | z32
deriving DecidableEq, Repr

/-- R52: the format of a code; 15 names none. -/
def Fmt.ofCode (c : Nat) : Option Fmt :=
  [Fmt.fp32, .bf16, .fp16, .e4m3, .e5m2, .e2m1, .c4, .s8, .z8, .s16, .s32, .s64, .fp64, .z16, .z32][c]?

/-- R52: the width in bits. -/
def Fmt.width : Fmt → Nat
  | .e2m1 | .c4 => 4
  | .e4m3 | .e5m2 | .s8 | .z8 => 8
  | .bf16 | .fp16 | .s16 | .z16 => 16
  | .fp32 | .s32 | .z32 => 32
  | .fp64 | .s64 => 64

/-- R175: class I. -/
def Fmt.isInt : Fmt → Bool
  | .s8 | .z8 | .s16 | .s32 | .s64 | .z16 | .z32 => true
  | _ => false
/-- R175: class F. -/
def Fmt.isFloat (f : Fmt) : Bool := !f.isInt
def Fmt.isSigned : Fmt → Bool
  | .z8 | .z16 | .z32 => false
  | _ => true

/-- R53: exponent bits, fraction bits and bias. -/
def Fmt.layout : Fmt → Nat × Nat × Nat
  | .fp64 => (11, 52, 1023)
  | .fp32 => (8, 23, 127)
  | .bf16 | .c4 => (8, 7, 127)
  | .fp16 => (5, 10, 15)
  | .e4m3 => (4, 3, 7)
  | .e5m2 => (5, 2, 15)
  | .e2m1 => (2, 1, 1)
  | _ => (8, 23, 127)

/-- R53: a format with infinities at the all-ones exponent. -/
def Fmt.hasInf : Fmt → Bool
  | .fp64 | .fp32 | .bf16 | .fp16 | .e5m2 => true
  | _ => false

/-- R53: the code of the largest finite magnitude. -/
def Fmt.maxCode : Fmt → Nat
  | .fp64 => 0x7FEFFFFFFFFFFFFF
  | .fp32 => 0x7F7FFFFF
  | .bf16 | .c4 => 0x7F7F
  | .fp16 => 0x7BFF
  | .e4m3 => 0x7E
  | .e5m2 => 0x7B
  | .e2m1 => 0x7
  | _ => 0x7F7FFFFF

/-- R53: the canonical NaN; E2M1 has none and reads +0 (R64). -/
def Fmt.nanCode : Fmt → Nat
  | .fp64 => 0x7FF8000000000000
  | .fp32 => 0x7FC00000
  | .bf16 => 0x7FC0
  | .fp16 => 0x7E00
  | .e4m3 => 0x7F
  | .e5m2 => 0x7E
  | _ => 0

/-- R56: the range of an integer format. -/
def Fmt.intMin (f : Fmt) : Int := if f.isSigned then -(2 ^ (f.width - 1) : Nat) else 0
def Fmt.intMax (f : Fmt) : Int := if f.isSigned then (2 ^ (f.width - 1) : Nat) - 1 else (2 ^ f.width : Nat) - 1

/-! ## Exact values (R55, R61) -/

/-- An exact result: (m + δ) × 2^e with a sign, where 0 < δ < 1 when `sticky` holds and δ = 0 otherwise. A sticky value
has at least 128 significant bits in m, more than any rounding reads. -/
inductive Exact where
  | nan
  | inf (neg : Bool)
  | fin (neg : Bool) (m : Nat) (e : Int) (sticky : Bool)
deriving DecidableEq, Repr

def Exact.zero (neg : Bool := false) : Exact := .fin neg 0 0 false
def Exact.ofInt (n : Int) : Exact := .fin (n < 0) n.natAbs 0 false
def Exact.isZero : Exact → Bool
  | .fin _ 0 _ false => true
  | _ => false
def Exact.isNaN : Exact → Bool
  | .nan => true
  | _ => false
def Exact.isNeg : Exact → Bool
  | .nan => false
  | .inf s => s
  | .fin s _ _ _ => s
def Exact.withSign (x : Exact) (neg : Bool) : Exact := match x with
  | .nan => .nan
  | .inf _ => .inf neg
  | .fin _ m e t => .fin neg m e t
def Exact.negate (x : Exact) : Exact := x.withSign (!x.isNeg)

/-- A magnitude m × 2^e as an integer at exponent `q` at or below e. -/
def scaleTo (m : Nat) (e q : Int) : Nat := m <<< (e - q).toNat

/-- R55: the sign of an exact zero sum of addends that are not zeros of one sign. -/
def Exact.add (rdn : Bool) : Exact → Exact → Exact
  | .nan, _ | _, .nan => .nan
  | .inf s, .inf t => if s = t then .inf s else .nan
  | .inf s, _ | _, .inf s => .inf s
  | .fin s m e t, .fin s' m' e' t' =>
    if m = 0 && m' = 0 && !t && !t' then (if s = s' then .zero s else .zero rdn) else
    let q := min e e'
    let a : Int := scaleTo m e q
    let b : Int := scaleTo m' e' q
    let r := (if s then -a else a) + (if s' then -b else b)
    if r = 0 then .zero rdn else .fin (r < 0) r.natAbs q (t || t')

/-- R55: a sum raises NV for infinities of opposite sign. -/
def addInvalid : Exact → Exact → Bool
  | .inf s, .inf t => s != t
  | _, _ => false

def Exact.mul : Exact → Exact → Exact
  | .nan, _ | _, .nan => .nan
  | .inf s, .inf t => .inf (s != t)
  | .inf s, .fin t m e k | .fin t m e k, .inf s => if (Exact.fin t m e k).isZero then .nan else .inf (s != t)
  | .fin s m e _, .fin t m' e' _ => .fin (s != t) (m * m') (e + e') false

/-- R55: 0 × ∞ raises NV. -/
def mulInvalid : Exact → Exact → Bool
  | .inf _, y => y.isZero
  | x, .inf _ => x.isZero
  | _, _ => false

/-- R55, R179: a quotient, with NV for 0/0 and ∞/∞ and DZ for a finite nonzero value over zero. -/
def Exact.div : Exact → Exact → Exact × Nat
  | .nan, _ | _, .nan => (.nan, 0)
  | .inf _, .inf _ => (.nan, 16)
  | .inf s, .fin t _ _ _ => (.inf (s != t), 0)
  | .fin s _ _ _, .inf t => (.zero (s != t), 0)
  | .fin s m e k, .fin t m' e' k' =>
    if (Exact.fin t m' e' k').isZero then (if (Exact.fin s m e k).isZero then (.nan, 16) else (.inf (s != t), 8))
    else if m = 0 then (.zero (s != t), 0)
    else
      let sh := 130 + m'.log2
      (.fin (s != t) ((m <<< sh) / m') (e - e' - sh) ((m <<< sh) % m' != 0), 0)

/-- The integer square root, one bit of the root at a time from bit `k − 1` down. -/
def isqrtFrom (n r : Nat) : Nat → Nat
  | 0 => r
  | k + 1 => let c := r + 2 ^ k; if c * c ≤ n then isqrtFrom n c k else isqrtFrom n r k
def isqrt (n : Nat) : Nat := isqrtFrom n 0 (n.log2 / 2 + 1)

/-- R55: a square root; below −0 it is invalid. -/
def Exact.sqrt : Exact → Exact × Nat
  | .nan => (.nan, 0)
  | .inf s => if s then (.nan, 16) else (.inf false, 0)
  | .fin s m e k =>
    if m = 0 then (.zero s, 0) else if s then (.nan, 16) else
    let odd : Nat := (e % 2).toNat
    let a := m <<< (260 + odd)
    let r := isqrt a
    (.fin false r ((e - 260 - odd) / 2) (r * r != a || k), 0)

/-- R55, R179: a reciprocal square root; ±0 gives ±∞ with DZ and +∞ gives +0. -/
def Exact.rsqrt : Exact → Exact × Nat
  | .nan => (.nan, 0)
  | .inf s => if s then (.nan, 16) else (.zero, 0)
  | .fin s m e _ =>
    if m = 0 then (.inf s, 8) else if s then (.nan, 16) else
    -- 1/√(m 2^e) = √(2^(2k) / m) 2^(−k) / 2^(e/2), with e made even
    let odd : Nat := (e % 2).toNat
    let m' := m <<< odd
    let k := 132 + m'.log2
    let a := 2 ^ (2 * k) / m'
    let r := isqrt a
    (.fin false r (-k - (e - odd) / 2) (r * r * m' != 2 ^ (2 * k)), 0)

/-- The exact order of two values that are not NaN: −1, 0 or 1. -/
def Exact.cmp : Exact → Exact → Int
  | .nan, _ | _, .nan => 0
  | .inf s, .inf t => if s = t then 0 else if s then -1 else 1
  | .inf s, _ => if s then -1 else 1
  | _, .inf t => if t then 1 else -1
  | .fin s m e _, .fin t m' e' _ =>
    let q := min e e'
    let a : Int := scaleTo m e q
    let b : Int := scaleTo m' e' q
    let d := (if s then -a else a) - (if t then -b else b)
    if d < 0 then -1 else if d = 0 then 0 else 1

/-- R152: the lesser of two values, with −0 < +0; one NaN gives the other operand. -/
def Exact.minimum (a b : Exact) : Exact :=
  if a.isNaN then b else if b.isNaN then a
  else match Exact.cmp a b with
    | -1 => a
    | 0 => if b.isNeg then b else a
    | _ => b
/-- R152: the greater of two values. -/
def Exact.maximum (a b : Exact) : Exact :=
  if a.isNaN then b else if b.isNaN then a
  else match Exact.cmp a b with
    | -1 => b
    | 0 => if a.isNeg then b else a
    | _ => a

/-- R152, R182: comparisons; a NaN compares false. -/
def Exact.eqv (a b : Exact) : Bool := !a.isNaN && !b.isNaN && Exact.cmp a b == 0
def Exact.lt (a b : Exact) : Bool := !a.isNaN && !b.isNaN && Exact.cmp a b == -1
def Exact.le (a b : Exact) : Bool := !a.isNaN && !b.isNaN && decide (Exact.cmp a b ≤ 0)

/-- The integer nearest below a finite value's magnitude; 0 for the others. -/
def Exact.toInt : Exact → Int
  | .fin s m e _ => let n : Int := if 0 ≤ e then m <<< e.toNat else m >>> (-e).toNat; if s then -n else n
  | _ => 0

/-! ## Decoding (R53, R57) -/

/-- R53: the value of a floating-point code. -/
def decodeFloat (f : Fmt) (x : Nat) : Exact :=
  let (eb, fb, bias) := f.layout
  let neg := x.testBit (eb + fb)
  let ex := x / 2 ^ fb % 2 ^ eb
  let fr := x % 2 ^ fb
  if f.hasInf && ex + 1 = 2 ^ eb then (if fr = 0 then .inf neg else .nan)
  else if f = .e4m3 && x % 128 = 127 then .nan
  else if ex = 0 then .fin neg fr (1 - (bias : Int) - fb) false
  else .fin neg (2 ^ fb + fr) (ex - (bias : Int) - fb) false

/-- R53, R56, R57: the value of an element's stored bits; `cb` is the codebook table. -/
def decodeNum (f : Fmt) (cb : Nat → BitVec 16) (x : Nat) : Exact :=
  if f = .c4 then decodeFloat .bf16 (cb (x % 16)).toNat
  else if f.isInt then
    .ofInt (if f.isSigned then (BitVec.ofNat f.width x).toInt else (x % 2 ^ f.width : Nat))
  else decodeFloat f x

/-! ## Rounding (R61, R62) -/

/-- R58: the rounding modes. -/
inductive Rnd where
  | rne | rtz | rdn | rup | rna | sr | srs
deriving DecidableEq, Repr

def Rnd.ofCode (c : Nat) : Rnd := [Rnd.rne, .rtz, .rdn, .rup, .rna, .sr].getD c .srs
def Rnd.stochastic : Rnd → Bool
  | .sr | .srs => true
  | _ => false

/-- R61, R62: the magnitude (m + δ) 2^e rounded to a multiple of 2^q, in units of 2^q, and whether it is inexact; `u` is the
draw of R63. -/
def roundMag (md : Rnd) (u : Nat) (neg : Bool) (m : Nat) (e : Int) (sticky : Bool) (q : Int) : Nat × Bool :=
  let k := (q - e).toNat
  let t := if q ≤ e then m <<< (e - q).toNat else m >>> k
  let r := if q ≤ e then 0 else m % 2 ^ k
  let inexact := r != 0 || sticky
  let half := if q ≤ e then 1 else 2 ^ k
  let above := decide (half < 2 * r) || (decide (half = 2 * r) && sticky)
  let tie := decide (half = 2 * r) && !sticky
  let w := if q ≤ e then 0 else r * 2 ^ 16 / 2 ^ k
  let tail := sticky || (q > e && r * 2 ^ 16 % 2 ^ k != 0)
  let up := inexact && match md with
    | .rne => above || (tie && t % 2 == 1)
    | .rtz => false
    | .rdn => neg
    | .rup => !neg
    | .rna => above || tie
    | .sr => decide (2 ^ 16 ≤ w + u)
    | .srs => decide (2 ^ 16 ≤ (if tail then w ||| 1 else w) + u)
  (if up then t + 1 else t, inexact)

/-! ## Results (R64 to R66) -/

/-- An element's result: its stored bits, its m0 bit, its flags (bits of `cw.fflags`), and whether it is non-finite or
saturated (R65). -/
structure Res where
  bits : Nat
  m0 : Bool := false
  fl : Nat := 0
  bad : Bool := false
deriving DecidableEq, Repr

def Res.flag (r : Res) (n : Nat) : Res := { r with fl := r.fl ||| n }
def Res.mark (r : Res) (b : Bool) : Res := { r with m0 := r.m0 || b }

/-- R53: a signed code of a float format. -/
def signCode (f : Fmt) (neg : Bool) (c : Nat) : Nat := (if neg then 2 ^ (f.width - 1) else 0) + c

/-- R64: the largest finite value of a sign. -/
def largest (f : Fmt) (neg : Bool) : Nat := signCode f neg f.maxCode
/-- R53: the infinity of a sign. -/
def infCode (f : Fmt) (neg : Bool) : Nat := let (eb, fb, _) := f.layout; signCode f neg ((2 ^ eb - 1) * 2 ^ fb)

/-- R64: an overflow of a floating-point destination that raised `fl`. -/
def overflow (f : Fmt) (md : Rnd) (nanMode neg : Bool) (fl : Nat) : Res :=
  if f = .e2m1 || !nanMode then ⟨largest f neg, true, fl ||| 1, true⟩
  else if f = .e4m3 then ⟨f.nanCode, true, fl, true⟩
  else if md = .rtz || (md = .rdn && !neg) || (md = .rup && neg) then ⟨largest f neg, true, fl ||| 1, true⟩
  else ⟨infCode f neg, true, fl, true⟩

/-- R61, R64, R66: a value rounded into a floating-point format. -/
def encodeFloat (f : Fmt) (md : Rnd) (nanMode : Bool) (u : Nat) : Exact → Res
  | .nan => ⟨f.nanCode, f = .e2m1, 0, true⟩
  | .inf neg =>
    if nanMode && f.hasInf then ⟨infCode f neg, true, 0, true⟩ else (overflow f md nanMode neg 0).flag 1
  | .fin neg m e sticky =>
    if m = 0 then ⟨signCode f neg 0, false, 0, false⟩ else
    let (_, fb, bias) := f.layout
    let emin : Int := 1 - (bias : Int)
    let big : Int := m.log2 + e
    let q := max big emin - fb
    let (n, inexact) := roundMag md u neg m e sticky q
    let code := (q - (emin - fb)).toNat * 2 ^ fb + n
    if f.maxCode < code then overflow f md nanMode neg 5 else
    let (n', _) := roundMag md u neg m e sticky (big - fb)
    let tiny := decide (big < emin) && decide ((n'.log2 : Int) + (big - fb) < emin)
    ⟨signCode f neg code, false, (if inexact then 1 else 0) ||| (if inexact && tiny then 2 else 0), false⟩

/-- R61, R64, R66, R153: a value rounded into an integer format; `conv` marks a conversion from a floating value, whose
invalid cases raise NV only. -/
def encodeInt (f : Fmt) (md : Rnd) (conv : Bool) (u : Nat) : Exact → Res
  | .nan => ⟨0, true, 16, true⟩
  | .inf neg =>
    ⟨(BitVec.ofInt f.width (if neg then f.intMin else f.intMax)).toNat, true, if conv then 16 else 1, true⟩
  | .fin neg m e sticky =>
    let (n, inexact) := roundMag md u neg m e sticky 0
    let v : Int := if neg then -(n : Int) else n
    if v < f.intMin then ⟨(BitVec.ofInt f.width f.intMin).toNat, true, if conv then 16 else 1, true⟩
    else if f.intMax < v then ⟨(BitVec.ofInt f.width f.intMax).toNat, true, if conv then 16 else 1, true⟩
    else ⟨(BitVec.ofInt f.width v).toNat, false, if inexact then 1 else 0, false⟩

/-- R57: the exact distance of a finite value from a finite codebook entry, as a sticky magnitude. -/
def distance (x y : Exact) : Exact := (Exact.add false x y.negate).withSign false

/-- R57: whether one exact distance is below another. -/
def nearer : Exact → Exact → Bool
  | .fin _ m e t, .fin _ m' e' t' =>
    let q := min e e'
    let a := scaleTo m e q
    let b := scaleTo m' e' q
    decide (a < b) || (decide (a = b) && !t && t')
  | .fin .., _ => true
  | _, _ => false

/-- R57: encoding into a codebook. -/
def encodeC4 (cb : Nat → BitVec 16) : Exact → Res
  | .nan => ⟨15, true, 0, true⟩
  | x =>
    let ent := fun c => decodeFloat .bf16 (cb c).toNat
    let codes := List.range 16
    match x, codes.find? fun c => ent c == x with
    | .inf _, some c => ⟨c, false, 0, true⟩
    | _, _ =>
      let (y, out) := match x with
        | .inf neg => (decodeFloat .bf16 (largest .bf16 neg), true)
        | _ => (x, false)
      let best := codes.foldl (init := (none : Option (Nat × Exact))) fun b c =>
        let d := match ent c with
          | .nan => Exact.nan
          | .inf _ => .inf false
          | v => distance y v
        if d.isNaN then b else match b with
          | none => some (c, d)
          | some (_, d') => if nearer d d' then some (c, d) else b
      match best with
      | none => ⟨15, out, 1, true⟩
      | some (c, d) => ⟨c, out, if out || !d.isZero then 1 else 0, out || ent c == .inf false || ent c == .inf true⟩

/-- R61 to R66: a value rounded into a format, under a rounding mode, an overflow mode, a draw and a codebook table. -/
def encodeNum (f : Fmt) (md : Rnd) (nanMode conv : Bool) (u : Nat) (cb : Nat → BitVec 16) (x : Exact) : Res :=
  if f = .c4 then encodeC4 cb x
  else if f.isInt then encodeInt f md conv u x
  else encodeFloat f md nanMode u x

/-! ## The class mask (R153) -/

/-- R53: whether a finite nonzero value is subnormal in a format. -/
def subnormalIn (f : Fmt) (m : Nat) (e : Int) : Bool := decide ((m.log2 : Int) + e < 1 - (f.layout.2.2 : Int))

def classMask (f : Fmt) : Exact → Nat
  | .nan => 256
  | .inf true => 1
  | .inf false => 128
  | .fin neg m e _ =>
    if m = 0 then (if neg then 8 else 16)
    else if subnormalIn f m e then (if neg then 4 else 32)
    else (if neg then 2 else 64)

/-! ## The update quotient (R67) -/

/-- R67: m / (√v + ε) for a finite m and a positive v whose root is irrational: the quotient is m (√v − ε) / (v − ε²), whose
floor at a power of two needs only an integer square root. -/
def uqIrrational (mn : Bool) (mm : Nat) (me : Int) (vm : Nat) (ve : Int) (en : Bool) (em : Nat) (ee : Int) : Exact :=
  if mm = 0 then .zero (mn != (en && decide ((Exact.cmp (.fin false vm ve false) (.fin false (em * em) (2 * ee) false)) < 0)))
  else
  let t : Nat := max (max (-me).toNat (-ee).toNat) ((-ve).toNat / 2 + 1)
  let V := vm <<< (ve + 2 * t).toNat
  let E := em <<< (ee + t).toNat
  let M := mm <<< (me + t).toNat
  let denNeg := en && decide (V < E * E)
  let k := 132 + (isqrt V + E + 1).log2
  let A := isqrt (M * M * V * 2 ^ (2 * k))
  let B := E * M * 2 ^ k
  let D := if E * E < V then V - E * E else E * E - V
  -- |√v − ε| with its root taken down or up
  let q := if en then (A + B) / D
    else if E * E < V then (A - B) / D
    else (B - (A + 1)) / D
  .fin (mn != denNeg) q (-(k : Int)) true

/-- R179: an infinite quotient of a division by zero in fmt_d, an overflow of R64; in C4, which has no row there, the entry that R57
picks for the infinity (log 68, DEDUCED). -/
def divideByZero (f : Fmt) (md : Rnd) (nanMode neg : Bool) (cb : Nat → BitVec 16) : Res :=
  (if f = .c4 then encodeC4 cb (.inf neg) else overflow f md nanMode neg 5).flag 8

/-- R67: the update quotient with its case table. Where the table replaces an invalid operation, the root of a v below −0 or 0
over an exactly zero denominator, NV is not raised; the largest finite value of C4 is the entry nearest to BF16's (log 69,
DEDUCED). -/
def updateQuotient (f : Fmt) (md : Rnd) (nanMode : Bool) (u : Nat) (cb : Nat → BitVec 16) (m v eps : Exact) : Res :=
  let out := fun (x : Exact) => encodeNum f md nanMode true u cb x
  if m.isNaN || v.isNaN || eps.isNaN then (out .nan).mark true else
  let below := v.isNeg && !v.isZero
  let v := if below then .zero else v
  match v, m, eps with
  | .inf _, .inf _, _ => ((out .nan).mark true).flag 16
  | .inf _, _, _ => out (.zero m.isNeg)
  | _, _, _ =>
    let r := (Exact.sqrt (v.withSign false)).1
    let irrational := match r with
      | .fin _ _ _ t => t
      | _ => false
    match v, m, eps, irrational with
    | .fin _ vm ve _, .fin mn mm me _, .fin en em ee _, true =>
      (out (uqIrrational mn mm me vm ve en em ee)).mark below
    | _, _, _, _ =>
      let den := if v.isZero then eps else Exact.add false r eps
      if den.isZero && !irrational then
        let fl := match m with
          | .fin .. => 9
          | _ => 1
        if m.isZero then (out .zero).mark true
        else if f = .c4 then ((encodeC4 cb (decodeFloat .bf16 (largest .bf16 m.isNeg))).mark true).flag fl
        else ⟨largest f m.isNeg, true, fl, true⟩
      else
        let q := Exact.div m den
        ((out q.1).flag q.2).mark below

/-! ## The generator (R63) and CRC-64 (R183) -/

/-- One round of Philox-4x32. -/
def philoxRound (c : Nat × Nat × Nat × Nat) (k0 k1 : Nat) : Nat × Nat × Nat × Nat :=
  let (c0, c1, c2, c3) := c
  let p0 := 0xD2511F53 * c0
  let p1 := 0xCD9E8D57 * c2
  ((p1 / 2 ^ 32) ^^^ c1 ^^^ k0, p1 % 2 ^ 32, (p0 / 2 ^ 32) ^^^ c3 ^^^ k1, p0 % 2 ^ 32)

def philoxRounds (c : Nat × Nat × Nat × Nat) (k0 k1 : Nat) : Nat → Nat × Nat × Nat × Nat
  | 0 => c
  | n + 1 => philoxRounds (philoxRound c k0 k1) ((k0 + 0x9E3779B9) % 2 ^ 32) ((k1 + 0xBB67AE85) % 2 ^ 32) n

/-- R63: Philox-4x32-10. -/
def philox (k0 k1 c0 c1 c2 c3 : Nat) : Nat × Nat × Nat × Nat := philoxRounds (c0, c1, c2, c3) k0 k1 10

/-- R183: one byte into CRC-64/ECMA-182, not reflected. -/
def crc64Byte (c : W64) (b : Byte) : W64 :=
  (List.range 8).foldl (init := c ^^^ (b.setWidth 64 <<< 56)) fun c _ =>
    if c.msb then (c <<< 1) ^^^ 0x42F0E1EBA9EA3693 else c <<< 1

def crc64 (bs : List Byte) : W64 := bs.foldl crc64Byte 0

/-- R360: one byte of CRC-32C, the reflected polynomial 0x82F63B78. -/
def crc32Byte (c : BitVec 32) (b : Byte) : BitVec 32 :=
  (List.range 8).foldl (init := c ^^^ b.setWidth 32) fun c _ =>
    if c.getLsbD 0 then (c >>> 1) ^^^ 0x82F63B78 else c >>> 1

/-- R360: CRC-32C with initial value and final XOR of all ones. -/
def crc32 (bs : List Byte) : BitVec 32 := bs.foldl crc32Byte 0xFFFFFFFF ^^^ 0xFFFFFFFF

end Sys2Proof.Machine
end

