-- ==== Sys2Proof/Machine/Memory.lean ====
section
/-! DEFINITION. Memory below translation: local memory and its home segments, the copies in L1 and die caches,
scratchpads and poison (R10, R78 to R84, R93, R352, R360, R362). Every multi-byte value is little-endian (R2). -/

namespace Sys2Proof.Machine

/-! ## Physical memory (R10, R11, R352) -/

/-- R352: the segment of a physical address. -/
def segmentOf (pa : Nat) : Nat := pa / 2 ^ 38
/-- R10: the die whose segments hold a physical address as home lines. -/
def homeDie (pa : Nat) : Nat := segmentOf pa / 8
/-- R11, R352: a physical address that local memory holds: the lower half of a module's range, or all of it where the
modules hold 256 GiB. -/
def localMem (pa : Nat) : Bool := segmentOf pa < 48 && (pa % 2 ^ 38 < 2 ^ 37 || Config.bigModules)

/-- The lowest address of a line. -/
def lineBase (pa : Nat) : Nat := pa / 64 * 64

/-! ## Copies of lines: scalar L1 caches and die caches (R79 to R82, R84, R93) -/

def findLine (ls : List Line) (la : Nat) : Option Line := ls.find? fun l => l.la = la
def dropLine (ls : List Line) (la : Nat) : List Line := ls.filter fun l => l.la ≠ la

/-- R362: the mark of a line in its segment. -/
def segPoison (s : State) (la : Nat) : Option Nat := (s.poison.find? fun e => e.1 = la).map (·.2)

/-- R362: poison of some keys cleared. -/
def clearKeys (m : KMap Nat) (p : Nat → Bool) : KMap Nat := m.filter fun e => !p e.1

/-- R362: a poison mark of a key. -/
def setMark (m : KMap Nat) (k : Nat) : Option Nat → KMap Nat
  | some p => kput m k p
  | none => clearKeys m (· = k)

/-- R81, R362: the mark of a copy after the dirty bytes of a line have been written into it: the line's own mark goes along,
and a line that replaces every byte clears the copy's. -/
def mergeMark (l : Line) (old : Option Nat) : Option Nat :=
  match l.poison with
  | some k => some k
  | none => if l.dirty = BitVec.allOnes 64 then none else old

/-- R81: the dirty bytes of a line written into memory. -/
def flushBytes (m : Memory) (l : Line) : Memory :=
  (List.range 64).foldl (init := m) fun m j =>
    if l.dirty.getLsbD j then m.write (64 * l.la + j) (l.data.getD j 0) else m

/-- R81: a dirty line reaches its segment, which every watch on it sees (R157). -/
def flushHome (s : State) (l : Line) : State :=
  if l.dirty = 0 then s else
  watchEvents { s with mem := flushBytes s.mem l, poison := setMark s.poison l.la (mergeMark l (segPoison s l.la)) }
    (fun _ => true) (.mem (64 * l.la))

/-- The dirty bytes of a line written into a copy of it. -/
def Line.merge (x l : Line) : Line :=
  { x with
    data := (List.range 64).map fun j => if l.dirty.getLsbD j then l.data.getD j 0 else x.data.getD j 0
    dirty := x.dirty ||| l.dirty
    poison := mergeMark l x.poison }

/-- A line as its segment holds it, fetched under a die generation. -/
def fetchLine (s : State) (la : Nat) (g : BitVec 16) : Line :=
  ⟨la, g, s.mem.bytes (64 * la) 64, 0, segPoison s la⟩

/-- R93, R362: a line fetched again from its segment, with the segment's mark; its own dirty bytes stay, with its own mark. A line with
dirty bytes of an older generation is fetched again and merged too, which R91 needs and R93 says of clean lines only (log 64,
DEDUCED). -/
def refetch (s : State) (l : Line) (g : BitVec 16) : Line :=
  if l.dirty = 0 then fetchLine s l.la g else (fetchLine s l.la g).merge l

/-- The dirty bytes of core `c`'s copy of a line written back to its die cache (R80); `keep` leaves the copy, clean. -/
def cleanL1 (s : State) (c : Nat) (keep : Bool) (la : Nat) : State :=
  match findLine (s.core c).l1 la with
  | none => s
  | some l =>
    let t := s.setCore c { s.core c with
      l1 := if keep then { l with dirty := 0 } :: dropLine (s.core c).l1 la else dropLine (s.core c).l1 la }
    let d := dieOfCore c
    if l.dirty = 0 then t
    else if homeDie (64 * la) = d then flushHome t l
    else
      let x := t.die d
      let m := ((findLine x.lines la).getD (fetchLine t la x.gen)).merge l
      t.setDie d { x with lines := m :: dropLine x.lines la }

/-- R80: the cores of die `d`, other than `not`, whose L1 holds a line. -/
def l1Holders (s : State) (d : Nat) (not : Option Nat) (la : Nat) : List Nat :=
  (s.cores.map (·.1)).filter fun c => dieOfCore c = d && some c != not && (findLine (s.core c).l1 la).isSome

/-- R80: every L1 copy of a line on die `d`, but that of core `not`, is evicted: a dirty one is written back first. -/
def recallL1 (s : State) (d : Nat) (not : Option Nat) (la : Nat) : State :=
  (l1Holders s d not la).foldl (fun s c => cleanL1 s c false la) s

/-- R81, R93: a non-home line that die `d` does not hold, or holds stale, is fetched; a stale line's L1 copies go (R93). -/
def touch (s : State) (d pa : Nat) : State :=
  if homeDie pa = d then s else
  match findLine (s.die d).lines (pa / 64) with
  | none =>
    let x := s.die d
    s.setDie d { x with lines := fetchLine s (pa / 64) x.gen :: x.lines }
  | some l =>
    if l.gen = (s.die d).gen then s else
    let t := recallL1 s d none l.la
    let x := t.die d
    t.setDie d { x with lines := refetch t ((findLine x.lines l.la).getD l) x.gen :: dropLine x.lines l.la }

/-- R80: die `d` made ready for a vector, atomic or engine access to a line. -/
def touchDie (s : State) (d pa : Nat) : State := touch (recallL1 s d none (pa / 64)) d pa

/-- One byte as the cache of die `d` holds it. -/
def dieByte (s : State) (d pa : Nat) : Byte :=
  if homeDie pa = d then s.mem.read pa else
  match findLine (s.die d).lines (pa / 64) with
  | some l => l.data.getD (pa % 64) 0
  | none => s.mem.read pa

def dieBytes (s : State) (d pa : Nat) : Nat → List Byte
  | 0 => []
  | n + 1 => dieByte s d pa :: dieBytes s d (pa + 1) n

/-- R362: the mark of a line as the cache of die `d` holds it. -/
def diePoison (s : State) (d la : Nat) : Option Nat :=
  if homeDie (64 * la) = d then segPoison s la else
  match findLine (s.die d).lines la with
  | some l => l.poison
  | none => segPoison s la

/-- R79: core `c` made ready for a scalar access: no other L1 of the die holds the line, and its own does. -/
def touchCore (s : State) (c pa : Nat) : State :=
  let d := dieOfCore c
  let t := touch (recallL1 s d (some c) (pa / 64)) d pa
  if (findLine (t.core c).l1 (pa / 64)).isSome then t else
  t.setCore c { t.core c with
    l1 := ⟨pa / 64, 0, dieBytes t d (lineBase pa) 64, 0, diePoison t d (pa / 64)⟩ :: (t.core c).l1 }

/-- One byte as the harts of core `c` read it. -/
def coreByte (s : State) (c pa : Nat) : Byte :=
  match findLine (s.core c).l1 (pa / 64) with
  | some l => l.data.getD (pa % 64) 0
  | none => dieByte s (dieOfCore c) pa

def coreBytes (s : State) (c pa : Nat) : Nat → List Byte
  | 0 => []
  | n + 1 => coreByte s c pa :: coreBytes s c (pa + 1) n

/-- A line with one byte written and marked dirty (R81). -/
def Line.put (l : Line) (j : Nat) (b : Byte) : Line :=
  { l with data := l.data.set j b, dirty := l.dirty ||| BitVec.ofNat 64 (1 <<< j) }

/-- A line with bytes written from byte `j` on; a write of all 64 clears its poison (R362). -/
def Line.puts (l : Line) (j : Nat) (bs : List Byte) : Line :=
  let m := bs.zipIdx.foldl (fun l b => l.put (j + b.2) b.1) l
  if 64 ≤ bs.length then { m with poison := none } else m

/-- R362: a write of `n` bytes that covers every byte of a line in its segment clears its poison. -/
def clearLines (s : State) (pa n : Nat) : State :=
  if n < 64 then s else { s with poison := clearKeys s.poison fun l => pa ≤ 64 * l && 64 * l + 64 ≤ pa + n }

/-- Bytes of one line written by die `d`: into memory for a home line, else into the die's copy. -/
def dieWrites (s : State) (d pa : Nat) (bs : List Byte) : State :=
  let home := clearLines { s with mem := s.mem.writeBytes pa bs } pa bs.length
  if homeDie pa = d then home else
  let x := s.die d
  match findLine x.lines (pa / 64) with
  | some l => s.setDie d { x with lines := l.puts (pa % 64) bs :: dropLine x.lines l.la }
  | none => home

/-- R79, R81: bytes of one line written into core `c`'s copy of it. -/
def coreWrites (s : State) (c pa : Nat) (bs : List Byte) : State :=
  match findLine (s.core c).l1 (pa / 64) with
  | some l => s.setCore c { s.core c with l1 := l.puts (pa % 64) bs :: dropLine (s.core c).l1 l.la }
  | none => dieWrites s (dieOfCore c) pa bs

/-- R81: the dirty bytes of another die's line reach the segment; the copies in the L1 caches of the home die go first. -/
def flushFar (s : State) (l : Line) : State :=
  if l.dirty = 0 then s else flushHome (recallL1 s (homeDie (64 * l.la)) none l.la) l

/-- R81, R82: a non-home line leaves die `d`, its L1 copies first; its dirty bytes reach the segment. -/
def evictLine (s : State) (d la : Nat) : State :=
  let s := recallL1 s d none la
  let x := s.die d
  match findLine x.lines la with
  | none => s
  | some l => flushFar (s.setDie d { x with lines := dropLine x.lines la }) l

/-- R93: every dirty L1 line of core `c` is written back to the die cache; the L1 keeps the lines clean. -/
def cleanCore (s : State) (c : Nat) : State :=
  ((s.core c).l1.filter fun l => l.dirty != 0).foldl (fun s l => cleanL1 s c true l.la) s

/-- R93: every dirty non-home line of die `d` is written back; the die keeps the lines clean. -/
def writeBack (s : State) (d : Nat) : State :=
  let x := s.die d
  (x.lines.filter fun l => l.dirty != 0).foldl flushFar
    (s.setDie d { x with lines := x.lines.map fun l => { l with dirty := 0 } })

/-- R89, R93: a release by a hart at a scope (R85). -/
def release (s : State) (i : Nat) (scope : Nat) : State :=
  if 3 ≤ scope then writeBack (cleanCore s (coreOf i)) (dieOf i) else s

/-! ## Poison (R362, R363) -/

/-- R362: a write that covers every byte of an 8-byte word of a scratchpad clears its poison. -/
def clearWords (x : Core) (off n : Nat) : Core :=
  { x with spadPoison := clearKeys x.spadPoison fun w => off ≤ 8 * w && 8 * w + 8 ≤ off + n }

/-- R362: the mark of a line in the copy that a view reads. -/
def linePoison (s : State) (v : View) (la : Nat) : Option Nat :=
  match v with
  | .home => segPoison s la
  | .die d => diePoison s d la
  | .core c => match findLine (s.core c).l1 la with
    | some l => l.poison
    | none => diePoison s (dieOfCore c) la

/-- The lines that `n` bytes at `pa` touch. -/
def linesOf (pa n : Nat) : List Nat := if n = 0 then [] else (List.range ((pa + n - 1) / 64 + 1 - pa / 64)).map (pa / 64 + ·)

/-- R363, R365: the log entry of the poison that `n` bytes at a place hold, in the copies that a view reads. -/
def poisonAt (s : State) (v : View) (l : Loc) (n : Nat) : Option ErrEntry :=
  match l with
  | .mem pa => (linesOf pa n).findSome? fun la => (linePoison s v la).map fun k => ⟨k, 64 * la, 0, 0, 0xFFF, 0, 0⟩
  | .spad c o => ((s.core c).spadPoison.find? fun e => e.1 * 8 < o + n && o < e.1 * 8 + 8).map fun e =>
      ⟨e.2, 8 * e.1, 1, c, 0xFFF, 0, 0⟩
  | .fabric .. => none

/-- R363: the trap of a consumed error at an address. -/
def poisonTrap (v : W64) (e : ErrEntry) : TrapInfo := { cause := 0x09, val := v, err := some e }

/-! ## Accesses at a resolved place -/

/-- The bytes at a place in the copies that a view reads. A fabric window has no bytes here. -/
def bytesAt (s : State) (v : View) (l : Loc) (n : Nat) : List Byte :=
  match l with
  | .mem pa => match v with
    | .home => s.mem.bytes pa n
    | .die d => dieBytes s d pa n
    | .core c => coreBytes s c pa n
  | .spad c o => (s.core c).spad.bytes o n
  | .fabric .. => List.replicate n 0

/-- R80, R81, R93: the place made ready for an access through a view. -/
def touchAt (s : State) (v : View) (l : Loc) : State :=
  match l, v with
  | .mem pa, .die d => touchDie s d pa
  | .mem pa, .core c => touchCore s c pa
  | _, _ => s

/-- R83: bytes written into a scratchpad. -/
def spadWrite (s : State) (c o : Nat) (bs : List Byte) : State :=
  s.setCore c (clearWords { s.core c with spad := (s.core c).spad.writeBytes o bs } o bs.length)

/-- R81: bytes of one line written at its home; the home die's L1 copies go before the write. -/
def writeHome (s : State) (l : Loc) (bs : List Byte) : State :=
  match l with
  | .mem pa =>
    let s := recallL1 s (homeDie pa) none (pa / 64)
    watchEvents (clearLines { s with mem := s.mem.writeBytes pa bs } pa bs.length) (fun _ => true) l
  | .spad c o => watchEvents (spadWrite s c o bs) (fun _ => true) l
  | .fabric .. => s

/-- R79, R157: bytes of one line written through a view. The watches of the die see a write in its caches; a write of the
die cache to a home line is performed at its segment and every watch sees it. -/
def writeAt (s : State) (v : View) (l : Loc) (bs : List Byte) : State :=
  match l, v with
  | .mem pa, .die d =>
    watchEvents (dieWrites (touchDie s d pa) d pa bs) (fun h => homeDie pa = d || dieOf h = d) l
  | .mem pa, .core c =>
    watchEvents (coreWrites (touchCore s c pa) c pa bs) (fun h => dieOf h = dieOfCore c) l
  | _, _ => writeHome s l bs

/-- R95, R97, R341: before an access of die `d` that is performed at the home segment, the die's own copies of the line are
written back and dropped, and so are those in the L1 caches of the home die (R81). -/
def toHome (s : State) (d : Nat) (l : Loc) : State :=
  match l with
  | .mem pa => recallL1 (evictLine s d (pa / 64)) (homeDie pa) none (pa / 64)
  | _ => s

/-- Bytes at a place as its home holds them. -/
def homeBytes (s : State) (l : Loc) (n : Nat) : List Byte := bytesAt s .home l n

end Sys2Proof.Machine
end

