-- ==== Sys2Proof/Machine/Translate.lean ====
section
/-! DEFINITION. Address windows, table walks and translation caches (R75, R76, R331 to R343, R352, R353, R393). An access
translates without changing the caches; TABLE_WALK fills them (log 6, DESIGN CHOICE). -/

namespace Sys2Proof.Machine

/-! ## Regions (R75, R393) -/

inductive Region where
  | ordinary
  | window
  | aperture (core : Nat)
  | reserved
deriving DecidableEq, Repr

/-- R75: the base of the local scratchpad window. -/
def windowBase : Nat := 0xF000000000
/-- R75: the base of the global scratch aperture. -/
def apertureBase : Nat := 0xF100000000
/-- R75: bytes of one scratchpad. -/
def spadBytes : Nat := 0x400000

/-- R75, R393: the region of an address. -/
def regionOf (a : Nat) : Region :=
  if a < windowBase || 0xF200000000 ≤ a then .ordinary
  else if a < windowBase + spadBytes then .window
  else if apertureBase ≤ a && a < apertureBase + 768 * spadBytes then .aperture ((a - apertureBase) / spadBytes)
  else .reserved

/-- R393: the first address behind the region of `a`. -/
def regionEnd (a : Nat) : Nat :=
  match regionOf a with
  | .ordinary => if a < windowBase then windowBase else 2 ^ 64
  | .window => windowBase + spadBytes
  | .aperture c => apertureBase + (c + 1) * spadBytes
  | .reserved => if a < apertureBase then apertureBase else 0xF200000000

/-- R393: the first byte of a range that lies outside the region of its lowest byte. -/
def leavesRegion (a : W64) (n : Nat) : Option W64 :=
  if regionEnd a.toNat < a.toNat + n then some (BitVec.ofNat 64 (regionEnd a.toNat)) else none

/-! ## Kinds of access (R339) -/

inductive Acc where
  | load | store | rmw | fetch
deriving DecidableEq, Repr

/-- R339: the cause of a translation fault. -/
def Acc.cause : Acc → BitVec 5
  | .load => 0x03
  | .store | .rmw => 0x04
  | .fetch => 0x05
/-- R76, R127, R339: the cause where an access leaves what it may reach. -/
def Acc.accessCause : Acc → BitVec 5
  | .fetch => 0x05
  | _ => 0x06

/-- Where an access lands, and whether its page is device-ordered (R341). -/
structure Place where
  loc : Loc
  dev : Bool := false
deriving DecidableEq, Repr

/-! ## Table walks (R331 to R334, R337, R342) -/

/-- How a walk can fail. -/
inductive WalkErr where
  | fault
  | outside
  | poison (e : ErrEntry)
deriving DecidableEq, Repr

/-- R346, R352: whether a partition reaches a physical address of local memory. -/
def ownsPa (s : State) (slot : Option Nat) (pa : Nat) : Bool :=
  localMem pa && slot.isSome && slotOfSegment s (segmentOf pa) == slot

/-- R337: an 8-byte table read, performed at the home segment. -/
def tableWord (s : State) (slot : Option Nat) (pa : Nat) : Except WalkErr W64 :=
  if ¬ ownsPa s slot pa then .error .outside else
  match poisonAt s .home (.mem pa) 8 with
  | some e => .error (.poison e)
  | none => .ok (BitVec.ofNat 64 (ofLE (s.mem.bytes pa 8)))

def tableWords (s : State) (slot : Option Nat) (pa : Nat) : Nat → Except WalkErr (List W64)
  | 0 => .ok []
  | n + 1 => do
    let w ← tableWord s slot pa
    let r ← tableWords s slot (pa + 8) n
    return w :: r

/-- R334: version range `i` of a record as (enabled, first page, last page). -/
def recordRange (r : List W64) (i : Nat) : Bool × Nat × Nat :=
  let a := r.getD (8 + 2 * i) 0
  (a.getLsbD 0, fld a 54 16, fld (r.getD (9 + 2 * i) 0) 54 16)

/-- R334: a record with en = 1 and no reserved field nonzero. -/
def recordOk (r : List W64) : Bool :=
  let z := fun i => r.getD i 0
  fld (z 0) 63 52 == 0 && fld (z 0) 15 0 == 0 && z 1 == 1
  && (List.range 6).all (fun i => z (2 + i) == 0)
  && (List.range 8).all (fun i =>
      fld (z (8 + 2 * i)) 63 55 == 0 && fld (z (8 + 2 * i)) 15 1 == 0
      && fld (z (9 + 2 * i)) 63 55 == 0 && fld (z (9 + 2 * i)) 15 0 == 0)
  && (List.range 8).all (fun i => z (24 + i) == 0)

/-- R334: the version ranges of a record. -/
def rangesOf (r : List W64) : List (Bool × Nat × Nat) := (List.range 8).map (recordRange r)

/-- R342: the version of the page of an address: that of the lowest-numbered enabled range that covers it, 0 where none does. -/
def versionAt (v : BitVec 8) (ranges : List (Bool × Nat × Nat)) (va : Nat) : Bool :=
  let page := va / 2 ^ 16 % 2 ^ 39
  match ranges.findIdx? fun r => r.1 && r.2.1 ≤ page && page ≤ r.2.2 with
  | none => false
  | some i => v.getLsbD i

/-- R331: bits of a leaf's region at each level. -/
def levelBits (level : Nat) : Nat := 16 + 13 * level

/-- R333: an entry that ends the walk with a fault. -/
def malformed (level : Nat) (e : W64) : Bool :=
  let leaf := e.getLsbD 1
  let frame := fld e 51 16 <<< 16
  let bits := levelBits level
  !e.getLsbD 0 || fld e 63 52 != 0 || fld e 15 12 != 0
  || (!leaf && level == 0)
  || (leaf && frame % 2 ^ bits != 0)
  || (leaf && e.getLsbD 6 && frame % 2 ^ (bits + 1) != 0)
  || (leaf && e.getLsbD 3 && !e.getLsbD 2)

/-- R331, R332: the levels of a walk from the top one down. -/
def walkFrom (s : State) (sp : Space) (ranges : List (Bool × Nat × Nat)) (va table : Nat) : List Nat → Except WalkErr Tlb
  | [] => .error .fault
  | level :: rest => do
    let bits := levelBits level
    let e ← tableWord s sp.slot (table + 8 * (va / 2 ^ bits % 8192))
    if malformed level e then .error .fault
    else if e.getLsbD 1 then
      .ok { va := va / 2 ^ bits * 2 ^ bits, bits := bits, frame := fld e 51 16 <<< 16
            r := e.getLsbD 2, w := e.getLsbD 3, x := e.getLsbD 4, g := e.getLsbD 5, dev := e.getLsbD 7
            slot := sp.slot, asid := sp.asid
            twin := if e.getLsbD 6 then some (ranges, versionAt sp.ver ranges va) else none }
    else walkFrom s sp ranges va (fld e 51 16 <<< 16) rest

/-- R331 to R334: the walk for a virtual address of a space. -/
def walk (s : State) (sp : Space) (va : Nat) : Except WalkErr Tlb := do
  let r ← tableWords s sp.slot (fld (s.partOf sp.slot).sasdir 51 24 <<< 24 ||| 256 * sp.asid.toNat) 32
  if !recordOk r then .error .fault
  else walkFrom s sp (rangesOf r) (va % 2 ^ 55) (fld (r.getD 0 0) 51 16 <<< 16) [2, 1, 0]

/-! ## Translation caches (R338) -/

/-- R338, R342: an entry serves an address of a space, a global one of every space of the partition; one for a twin page only under
the version of the page accessed, by the ranges of the record that it was made from (log 85, DEDUCED). -/
def Tlb.serves (e : Tlb) (sp : Space) (va : Nat) : Bool :=
  e.slot == sp.slot && va % 2 ^ 55 / 2 ^ e.bits * 2 ^ e.bits == e.va
  && (e.g || e.asid == sp.asid)
  && match e.twin with
    | none => true
    | some (ranges, v) => v == versionAt sp.ver ranges va

/-- R342: the physical address that an entry gives. -/
def Tlb.pa (e : Tlb) (va : Nat) : Nat :=
  e.frame + (match e.twin with
    | some (_, true) => 2 ^ e.bits
    | _ => 0) + va % 2 ^ e.bits

/-- R337, R338: the entry for an address: from the core's cache, the die's, or a walk. -/
def lookup (s : State) (c : Nat) (sp : Space) (va : Nat) : Except WalkErr Tlb :=
  match (s.core c).tlb.find? fun e => e.serves sp va with
  | some e => .ok e
  | none =>
    match (s.die (dieOfCore c)).tlb.find? fun e => e.serves sp va with
    | some e => .ok e
    | none => walk s sp va

/-- R339: the permissions that an access needs. -/
def Tlb.permits (e : Tlb) : Acc → Bool
  | .load => e.r
  | .store => e.w
  | .rmw => e.r && e.w
  | .fetch => e.x

/-! ## Physical places and fabric windows (R352, R353) -/

/-- R353: the destination of a fabric window address; none where the window leads nowhere, an error met in its entry of the table
otherwise (R363). -/
def fabricPlace (s : State) (slot : Option Nat) (pa : Nat) : Except (Option ErrEntry) Loc :=
  let e := (fld (s.partOf slot).record.wtab 51 11 <<< 11) + 16 * (pa / 2 ^ 44 % 128)
  let a := BitVec.ofNat 64 (ofLE (s.mem.bytes e 8))
  let b := BitVec.ofNat 64 (ofLE (s.mem.bytes (e + 8) 8))
  let node := BitVec.ofNat 16 a.toNat
  if slot.isNone then .error none else
  match poisonAt s .home (.mem e) 16 with
  | some q => .error (some q)
  | none =>
    if fld a 63 17 != 0 || !a.getLsbD 16 || fld b 63 52 != 0 || fld s.fw.fnode 15 0 == node.toNat then .error none
    else .ok (.fabric pa node ((b.toNat + pa % 2 ^ 44) % 2 ^ 52))

/-- R346, R352: what a physical address reaches: firmware reaches all of local memory, a partition its own segments. -/
def physPlace (s : State) (fw : Bool) (slot : Option Nat) (pa : Nat) : Except (Option ErrEntry) Loc :=
  if 2 ^ 52 ≤ pa then .error none
  else if 2 ^ 51 ≤ pa then fabricPlace s slot pa
  else if (fw && localMem pa) || ownsPa s slot pa then .ok (.mem pa) else .error none

/-- R339, R363: the access at what a physical address reaches; an error met in the window table is one of a table walk (log 72,
DEDUCED). -/
def placed (r : Except (Option ErrEntry) Loc) (dev : Bool) (acc : Acc) (va : W64) : Except TrapInfo Place :=
  match r with
  | .ok l => .ok ⟨l, dev⟩
  | .error none => .error (cause acc.accessCause va)
  | .error (some e) => .error { poisonTrap va e with hard := true }

/-! ## Locating one access -/

/-- R336: the address space of a hart's accesses, with the version bits in force. -/
def spaceOf (s : State) (i : Nat) : Space :=
  let h := s.hart i
  let slot := slotOfHart s i
  let asid := BitVec.ofNat 16 (if h.priv = .user then h.sw.sasid else h.sw.skasid).toNat
  { priv := h.priv, asid := asid, slot := slot, ver := kget 0 (s.partOf slot).ver asid.toNat }

/-- R311: the offset of a local window address in the core's scratchpad. -/
def windowOffset (h : Hart) (a : Nat) : Nat := (a - windowBase) ^^^ (fld h.sw.sswz 1 0 <<< 20)

/-- R278: whether an address of a space leads into the fabric windows, whatever its page and its window admit. -/
def leadsToFabric (s : State) (c : Nat) (sp : Space) (va : W64) : Bool :=
  let inWindow := fun (pa : Nat) => decide (2 ^ 51 ≤ pa) && decide (pa < 2 ^ 52)
  if sp.priv = .fw then inWindow va.toNat
  else match regionOf va.toNat, lookup s c sp va.toNat with
    | .ordinary, .ok e => (fld va 63 54 == 0 || fld va 63 54 == 0x3FF) && inWindow (e.pa va.toNat)
    | _, _ => false

/-- R331, R339: translation of an address outside the scratch windows. -/
def translate (s : State) (c : Nat) (sp : Space) (acc : Acc) (va : W64) : Except TrapInfo Place :=
  let hi := fld va 63 54
  if hi != 0 && hi != 0x3FF then .error (cause acc.cause va) else
  match lookup s c sp va.toNat with
  | .error .fault => .error (cause acc.cause va)
  | .error .outside => .error (cause acc.accessCause va)
  | .error (.poison e) => .error { poisonTrap va e with hard := true }
  | .ok e =>
    if !e.permits acc then .error (cause acc.cause va) else
    placed (physPlace s false sp.slot (e.pa va.toNat)) e.dev acc va

/-- R75, R76, R311, R336: where an access of hart `i`, or of an engine command that it issued, lands. Firmware's addresses
are physical (log 7, DEDUCED). -/
def locate (s : State) (i : Nat) (sp : Space) (engine : Bool) (acc : Acc) (va : W64) : Except TrapInfo Place :=
  if sp.priv = .fw then placed (physPlace s true sp.slot va.toNat) false acc va
  else
    match regionOf va.toNat with
    | .window => .ok ⟨.spad (coreOf i) (windowOffset (s.hart i) va.toNat), false⟩
    | .aperture c =>
      if engine && sp.slot.isSome && slotOfCore s c == sp.slot then .ok ⟨.spad c ((va.toNat - apertureBase) % spadBytes), false⟩
      else .error (cause acc.accessCause va)
    | .reserved => .error (cause acc.accessCause va)
    | .ordinary => translate s (coreOf i) sp acc va

end Sys2Proof.Machine
end

