-- ==== Sys2Proof/Machine/Access.lean ====
section
/-! DEFINITION. Accesses of a hart: loads and stores at a resolved place, the strip store buffer and its commit, remote
requests, and what holds an access back (R23, R46 to R48, R90, R94, R102, R151, R357 to R359). -/

namespace Sys2Proof.Machine

/-- A place `j` bytes further on. -/
def Loc.plus (l : Loc) (j : Nat) : Loc :=
  match l with
  | .mem pa => .mem (pa + j)
  | .spad c o => .spad c (o + j)
  | .fabric pa n a => .fabric (pa + j) n (a + j)

/-! ## Remote requests (R356 to R359) -/

/-- R357: the key of a hart's partition. -/
def keyOf (s : State) (i : Nat) : BitVec 32 := (s.partOf (slotOfHart s i)).record.key

/-- R356: the port that a hart's requests to a node take: the first port that is up, counted from one that the pair
fixes (log 12, DESIGN CHOICE). -/
def portFor (s : State) (i : Nat) (node : BitVec 16) : Nat :=
  let first := (i + node.toNat) % 32
  ((List.range 32).find? fun k => !s.fab.down.getLsbD ((first + k) % 32)).map (fun k => (first + k) % 32) |>.getD first

/-- R347: a message sent through a port; node 0 disables every port. -/
def post (s : State) (m : Message) : State :=
  if fld s.fw.fnode 15 0 = 0 then s else { s with fab := { s.fab with outbox := s.fab.outbox ++ [m] } }

/-- A request recorded and its message sent; `store` and `dev` say whether it is a posted store, and one to a device-ordered
page, `engine` whether a vector element or an engine makes it. -/
def sendRequest (s : State) (i : Nat) (node : BitVec 16) (addr : Nat) (store dev : Bool) (va : W64)
    (m : Nat → Message) (engine : Bool := false) : State :=
  let id := s.fab.nextId
  post { s with fab := { s.fab with
    nextId := id + 1
    requests := s.fab.requests ++ [⟨id, i, node, addr, keyOf s i, portFor s i node, store, dev, (s.hart i).priv, va, m id,
      false, engine⟩] } } (m id)

/-- R359, R360: the trap of a failed remote access at an address of a window; a poisoned line that answers a load is consumed. -/
def remoteTrap (v : W64) : RemoteResult → TrapInfo
  | .poisoned k => poisonTrap v ⟨k, lineBase v.toNat, 0, 0, 0xFFF, 0, 0⟩
  | .keyRevoked => { cause := 0x0F, val := v, code := 4 }
  | .named f => { cause := if f = 4 then 0x0F else 0x0B, val := v, code := f }
  | _ => { cause := 0x0B, val := v }

/-- R12: whether the core of a hart has a free one of its 3,072 slots for outstanding requests. -/
def slotFree (s : State) (i : Nat) : Bool := decide ((s.fab.requests.countP fun r => coreOf r.hart == coreOf i) < 3072)

/-- R12: a store of hart `i` at a place finds a request slot where it needs one. -/
def portReady (s : State) (i : Nat) (p : Place) : Bool := match p.loc with
  | .fabric .. => slotFree s i
  | _ => true

/-- A request that a vector element or an engine has to make: its number within its unit, where it goes, and its message (R353,
R357). -/
structure Ask where
  x : Nat
  node : BitVec 16
  addr : Nat
  va : W64
  msg : Nat → Message

/-- Why an element, a piece or a member cannot be handled in this step: it waits, its request is still to be sent, or it ends in a
fault. -/
inductive Halt where
  | wait
  | ask (a : Ask)
  | trap (t : TrapInfo)
  /-- the fault comes behind a write that stays -/
  | after (s : State) (t : TrapInfo)

/-- R359: the answer to the request of number `x` that a unit has made, or why it has none yet. -/
def exchange (s : State) (asked : KMap Nat) (a : Ask) : Except Halt RemoteResult :=
  match asked.find? (·.1 = a.x) with
  | none => .error (.ask a)
  | some p => match s.fab.answers.find? (·.1 = p.2) with
    | none => .error .wait
    | some q => .ok q.2

/-- R12, R356, R357: the request that a unit of hart `i` has to make, sent where a slot is free; `keep` notes its number. -/
def Halt.send (s : State) (i : Nat) (keep : State → Nat → Nat → State) : Halt → State
  | .ask a => if slotFree s i then keep (sendRequest s i a.node a.addr false false a.va a.msg true) a.x s.fab.nextId else s
  | _ => s

/-- The answers to the requests of a unit that has come to its end, or to a fault, are of no more use. -/
def forget (s : State) (asked : KMap Nat) : State :=
  if asked.isEmpty then s
  else { s with fab := { s.fab with answers := s.fab.answers.filter fun a => !asked.any fun p => p.2 == a.1 } }

/-- R94: whether posted remote stores of a hart await their acknowledgement, or their failure its trap. -/
def storesOut (s : State) (i : Nat) : Bool :=
  s.fab.requests.any (fun r => r.hart == i && r.store) || !(s.hart i).storeFaults.isEmpty

/-- R341: posted stores of a hart to device-ordered pages are on their way. -/
def devStoresOut (s : State) (i : Nat) : Bool := s.fab.requests.any fun r => r.hart == i && r.store && r.dev

/-! ## The strip store buffer (R46, R47) -/

/-- R46, R311: the share address of a hart's context. -/
def shareBase (h : Hart) (i : Nat) : Nat := windowBase + ((hartIx i ^^^ fld h.sw.sswz 1 0) <<< 20)
/-- R46: the strip store buffer. -/
def bufferBase (h : Hart) (i : Nat) : Nat := shareBase h i + 0xC0000
def bufferBytes : Nat := 0x40000

/-- R45, R292: guarded strips act on an instruction of user privilege. -/
def QEntry.guarded (h : Hart) (e : QEntry) : Bool := h.gs && e.space.priv == .user

/-- R46: an access that touches the strip store buffer while it is in use, as `g` says. -/
def touchesBuffer (g : Bool) (h : Hart) (i : Nat) (va : W64) (n : Nat) : Bool :=
  g && decide (va.toNat < bufferBase h i + bufferBytes) && decide (bufferBase h i < va.toNat + n)

/-- Which of its bytes a held store has at a place. -/
def Held.indexAt (e : Held) (l : Loc) : Option Nat :=
  let within := fun (a b : Nat) => if a ≤ b ∧ b - a < e.bytes.length then some (b - a) else none
  if e.add.isSome then none else
  match e.loc, l with
  | .mem a, .mem b => within a b
  | .spad c a, .spad c' b => if c = c' then within a b else none
  | .fabric a .., .fabric b .. => within a b
  | _, _ => none

/-- The byte of a held store at a place. -/
def Held.byteAt (e : Held) (l : Loc) : Option Byte := (e.indexAt l).bind fun j => e.bytes[j]?

/-- R47: bytes at a place, with the hart's own held stores seen; the buffer holds the newest first. -/
def overlay (h : Hart) (l : Loc) (bs : List Byte) : List Byte :=
  if h.buf.isEmpty then bs
  else bs.mapIdx fun j b => (h.buf.findSome? fun e => e.byteAt (l.plus j)).getD b

/-- Bytes held in the buffer (log 13, DEDUCED). -/
def heldBytes (h : Hart) : Nat := h.buf.foldl (fun n e => n + e.bytes.length) 0

/-! ## Loads and stores of a hart -/

/-- R79: what the scalar accesses of a hart see, and its vector accesses, which bypass the L1. -/
def scalarView (i : Nat) : View := .core (coreOf i)
def vectorView (i : Nat) : View := .die (dieOf i)

/-- R341: a device-ordered access performs at the home segment. -/
def viewOf (v : View) (p : Place) : View := if p.dev then .home else v

/-- R79, R80, R341: a place made ready for an access of hart `i` through a view. -/
def ready (s : State) (i : Nat) (v : View) (p : Place) : State :=
  if p.dev then toHome s (dieOf i) p.loc else touchAt s v p.loc

/-- R79, R341: a hart's load at a place in the package. -/
def loadAt (s : State) (i : Nat) (v : View) (p : Place) (n : Nat) : State × List Byte :=
  let t := ready s i v p
  (t, overlay (t.hart i) p.loc (bytesAt t (viewOf v p) p.loc n))

/-- R47: every one of `n` bytes at a place comes from the hart's own held stores. -/
def allHeld (h : Hart) (l : Loc) (n : Nat) : Bool :=
  (List.range n).all fun j => (h.buf.findSome? fun e => e.byteAt (l.plus j)).isSome

/-- R46, R363: the poison of the words of the strip store buffer from which a load takes its bytes. -/
def heldPoison (s : State) (i : Nat) (l : Loc) (n : Nat) : Option ErrEntry :=
  let h := s.hart i
  (List.range n).findSome? fun j =>
    (h.buf.findSome? fun e => (e.indexAt (l.plus j)).map (e.off + ·)).bind fun o =>
      poisonAt s .home (.spad (coreOf i) (windowOffset h (bufferBase h i) + o)) 1

/-- R47, R363: the poison that a load of `n` bytes at a place consumes: of the strip store buffer, and of the place unless every byte
comes from the hart's own held stores. -/
def loadPoison (s : State) (i : Nat) (v : View) (p : Place) (n : Nat) : Option ErrEntry :=
  match heldPoison s i p.loc n with
  | some e => some e
  | none => if allHeld (s.hart i) p.loc n then none else poisonAt (ready s i v p) (viewOf v p) p.loc n

/-- R47, R359, R360, R363: the bytes of a load at `va` through a fabric window, from its answer and the hart's own held stores; a
poisoned answer of which no byte is used is not consumed. -/
def answeredBytes (s : State) (i : Nat) (l : Loc) (n : Nat) (va : W64) (r : RemoteResult) : Except TrapInfo (List Byte) :=
  let h := s.hart i
  match heldPoison s i l n, r with
  | some e, _ => .error (poisonTrap va e)
  | none, .bytes b => .ok (overlay h l (b.take n))
  | none, .poisoned k => if allHeld h l n then .ok (overlay h l (List.replicate n 0)) else .error (remoteTrap va (.poisoned k))
  | none, r => .error (remoteTrap va r)

/-- A store of hart `i` performed at a place (R79, R94, R341). -/
def perform (s : State) (i : Nat) (v : View) (l : Loc) (dev : Bool) (va : W64) (bs : List Byte) : State :=
  match l with
  | .fabric _ node a => sendRequest s i node a true dev va fun id => .store id node a bs (keyOf s i)
  | _ => if dev then writeHome (toHome s (dieOf i) l) l bs else writeAt s v l bs

/-- R101, R212: an atomic add of `n` positions to a progress word: at the bank, or at package scope. -/
def addWord (s : State) (i : Nat) (l : Loc) (n : Nat) : State :=
  match l with
  | .mem _ =>
    let t := toHome (release s i 3) (dieOf i) l
    writeHome t l (toLE 8 (ofLE (homeBytes t l 8) + n))
  | _ => writeHome s l (toLE 8 (ofLE (homeBytes s l 8) + n))

/-- R46, R362: the words of the strip store buffer that `n` bytes at `off` of it replace lose their poison. -/
def fillBuffer (s : State) (i off n : Nat) : State :=
  let c := s.core (coreOf i)
  if c.spadPoison.isEmpty then s else
  let h := s.hart i
  s.setCore (coreOf i) (clearWords c (windowOffset h (bufferBase h i) + off) n)

/-- R47: a store of a hart: held while its guarded strip is open, as `g` says, else performed. -/
def storeAt (g : Bool) (s : State) (i : Nat) (v : View) (p : Place) (va : W64) (bs : List Byte) (scope : Nat) : State :=
  let h := s.hart i
  if g then
    let o := heldBytes h
    fillBuffer (s.setHart i { h with buf := ⟨p.loc, bs, scope, va, p.dev, none, o, v⟩ :: h.buf }) i o bs.length
  else perform s i v p.loc p.dev va bs

/-- R102: the scope that a plain store counts as. -/
def storeScope : Loc → Nat
  | .spad .. => 1
  | .fabric .. => 4
  | .mem _ => 3

/-! ## Strip commit (R47, R48, R102, R366) -/

/-- A held store performed. -/
def performHeld (s : State) (i : Nat) (e : Held) : State :=
  match e.add with
  | some n => addWord s i e.loc n
  | none => perform s i e.view e.loc e.dev e.va e.bytes

/-- R363: the poison that a progress add at a place consumes. -/
def addPoison (s : State) (i : Nat) (l : Loc) : Option ErrEntry := poisonAt (toHome s (dieOf i) l) .home l 8

/-- R361, R366: an error that a strip commit consumes: in the words of the strip store buffer that its held stores fill, or in a
progress word that a held add reads. -/
def bufferError (s : State) (i : Nat) : Option TrapInfo :=
  let h := s.hart i
  let o := windowOffset h (bufferBase h i)
  let trap := fun (va : W64) (e : ErrEntry) => some
    ({ cause := 0x09, val := va, err := some { e with kind := 8 }, hard := true } : TrapInfo)
  h.buf.findSome? fun x =>
    if x.add.isSome then (addPoison s i x.loc).bind (trap x.va)
    else (poisonAt s .home (.spad (coreOf i) (o + x.off)) x.bytes.length).bind fun e =>
      trap (BitVec.ofNat 64 (bufferBase h i + (e.addr - o))) e

/-- R366: a hart whose checkpoint is not used again. -/
def Hart.killCkpt (h : Hart) : Hart := { h with ckpt := h.ckpt.map fun c => { c with dead := true } }

/-- R12, R341: a held store can be performed now: a request slot is free where it needs one, and one to a device-ordered page
follows the hart's posted ones. -/
def Held.canGo (s : State) (i : Nat) (e : Held) : Bool :=
  portReady s i ⟨e.loc, e.dev⟩ && !(e.dev && devStoresOut s i)

/-- R366: after a strip commit error each held store is performed or not, which of them is open (log 9, DESIGN CHOICE), but for those
that cannot be performed now; the checkpoint stays and is not used again. -/
def performSome (s : State) (i : Nat) : State :=
  let h := s.hart i
  let t := s.setHart i { h.killCkpt with buf := [], committing := false }
  (h.buf.reverse.zipIdx).foldl (init := t) fun t e =>
    if Config.newer s.ticks e.2 && e.1.canGo t i then performHeld t i e.1 else t

/-- R49, R366: whether a cause rolls a guarded strip back in place of a trap. -/
def rollsBack (h : Hart) (t : TrapInfo) : Bool :=
  h.guarded && !t.hard && (t.cause == 0x09 || t.cause == 0x0D) && (match h.ckpt with
    | some c => !c.dead
    | none => false)

/-- R366: poison in the checkpoint, which a rollback would consume. -/
def Hart.ckptPoison (h : Hart) : Bool := h.sram.any fun m => m.1 == .checkpoint

/-- R49, R296: an error that a guarded strip consumes rolls it back; the third rollback in a row to one restart point
traps with cause 0x09, and an error in the checkpoint itself traps as a strip commit error (R366). Every other cause is
taken as a trap. -/
def raise (s : State) (i : Nat) (t : TrapInfo) : State :=
  let h := s.hart i
  match h.ckpt with
  | none => trapEnter s i t
  | some c =>
    if rollsBack h t then
      if h.ckptPoison then
        trapEnter (performSome s i) i { cause := 0x09, err := some ⟨8, 0, 3, coreOf i, 0xFFF, 0, 0⟩, hard := true }
      else if h.rollbacks < 2 then
        let s := countError (reportError s i t 2) (slotOfHart s i) 32
        s.setHart i (h.rollback c)
      else trapEnter s i { t with cause := 0x09 }
    else trapEnter s i t

/-- A trap of the moving hart at its current instruction (R39: a scalar instruction that traps has written nothing). -/
def State.trapMe (s : State) (t : TrapInfo) : Out := .next (raise s s.cur t)

/-- R151, R357: a load of `n` bytes at `va` through a fabric window by the moving hart: the request is sent, the front end
waits, and the data or the failure completes it. -/
def remoteLoad (s : State) (va : W64) (l : Loc) (n : Nat) (k : List Byte → State → Out) : Out :=
  match l with
  | .fabric _ node a =>
    match s.me.remote with
    | none =>
      if !slotFree s s.cur then .next s else
      let id := s.fab.nextId
      let t := sendRequest s s.cur node a false false va fun id => .load id node a n (keyOf s s.cur)
      .next (t.setMe { t.me with remote := some { id := id } })
    | some r =>
      match r.result with
      | none => .next s
      | some x =>
        let t := s.setMe { s.me with remote := none }
        match answeredBytes t t.cur l n va x with
        | .ok b => k b t
        | .error e => t.trapMe e
  | _ => k (List.replicate n 0) s

/-- Two held stores write a byte in common; an add (R212) writes eight. -/
def Held.meets (e o : Held) : Bool :=
  let w := fun (x : Held) => if x.add.isSome then 8 else x.bytes.length
  let near := fun (a b : Nat) => decide (a < b + w o) && decide (b < a + w e)
  match e.loc, o.loc with
  | .mem a, .mem b => near a b
  | .spad c a, .spad d b => c == d && near a b
  | .fabric a .., .fabric b .. => near a b
  | _, _ => false

/-- R102: the held store at place `n` of the buffer, newest first, may be performed before the older ones: none of them writes
one of its bytes, so that the last of the hart's writes to a byte is the one that stays (R84, R94), it is no add, which is a
release behind them all (R101, R212), and of two to device-ordered pages the older goes first (R341). -/
def Hart.mayGo (h : Hart) (n : Nat) : Bool :=
  match h.buf[n]? with
  | none => false
  | some e => (h.buf.drop (n + 1)).all fun o => e.add.isNone && !e.meets o && !(e.dev && o.dev)

/-- R47, R102: the held stores are performed, oldest first, as far as there are request slots. -/
def performAll (s : State) (i : Nat) : List Held → State
  | [] => s
  | e :: r => if e.canGo s i then
      let t := performHeld s i e
      performAll (t.setHart i { t.hart i with buf := (t.hart i).buf.dropLast }) i r
    else s

/-- R102: one step of a strip commit: all held stores, or the one that the choice among agents picks. -/
def commitStores (s : State) (i : Nat) : State :=
  let h := s.hart i
  match s.pick with
  | none => performAll s i h.buf.reverse
  | some n =>
    match h.buf[n]? with
    | some e => if h.mayGo n && e.canGo s i then performHeld (s.setHart i { h with buf := h.buf.eraseIdx n }) i e else s
    | none => s

/-- R47, R102: the scope of a strip's commit: the widest among its held stores. -/
def Hart.commitScope (h : Hart) : Nat := h.buf.foldl (fun n e => max n e.scope) h.widest

/-- R47, R48, R102: a strip commit: each step performs held stores; behind the last the commit is a release at the widest scope
and a fresh checkpoint is taken. The answer says whether the commit is complete. -/
def commitStrip (s : State) (i : Nat) (restart : W64) (fresh : Bool) : State × Bool :=
  let w := (s.hart i).commitScope
  let t := commitStores s i
  if (t.hart i).buf.isEmpty then
    let t := release t i w
    (t.setHart i { (t.hart i).checkpoint restart fresh with widest := 0 }, true)
  else (t.setHart i { t.hart i with committing := true, widest := w }, false)

/-- R298: an instruction's first 32 bits. -/
def first32 (i : Instr) : W64 := BitVec.ofNat 64 (ofLE ((encode i).take 4))

/-- R147, R298: the illegal-instruction trap of an instruction. -/
def State.illegal (s : State) (i : Instr) : Out := s.trapMe (cause 0x00 (first32 i))

/-- R140, R298: the privileged-instruction trap of an instruction. -/
def State.privileged (s : State) (i : Instr) : Out := s.trapMe (cause 0x01 (first32 i))

/-- R207: a load queue is bound and its consumer is not queued yet. -/
def Hart.openBinding (h : Hart) : Bool := h.q.toList.any fun x => x.bound && !x.consumer

/-- R209, R30, R160: an instruction of the moving hart that waits for every earlier vector and matrix instruction; with an
open queue binding it is illegal. -/
def whenDrained (i : Instr) (s : State) (k : State → Out) : Out :=
  if s.me.openBinding then s.illegal i else if s.me.drained then k s else .next s

/-- R48: what the moving hart does before an instruction that commits the strip implicitly: it waits for its queues and
for the acknowledgement of remote stores, then goes on behind a fresh checkpoint at this instruction. -/
def afterCommit (i : Instr) (s : State) (k : State → Out) : Out :=
  if !s.me.guarded then k s else
  whenDrained i s fun s =>
    match bufferError s s.cur with
    | some t => (performSome s s.cur).trapMe t
    | none =>
      let (t, done) := commitStrip s s.cur s.me.pc false
      if !done || storesOut t s.cur then .next t else k t

/-- The bytes of one element of a vector memory instruction: 1, 2, 4 or 8 (R197). -/
def memWidth (e : BitVec 2) : Nat := 2 ^ e.toNat

/-! ## Engine accesses (R97) -/

/-- R329: at depth 1 an access to a gated core's scratchpad wakes the core. -/
def scratchWake (s : State) (l : Loc) : State :=
  match l with
  | .spad c _ => if (s.core c).gateDepth = 1 then wakeCore s c else s
  | _ => s

/-- R80, R329: an engine of die `d` reaches `n` bytes at a place: the L1 copies of their lines on its die are evicted, a dirty one
written back first, and a gated core's scratchpad wakes it. -/
def engineReach (s : State) (d : Nat) (l : Loc) (n : Nat) : State :=
  match l with
  | .mem pa => (linesOf pa n).foldl (fun s la => recallL1 s d none la) s
  | _ => scratchWake s l

/-- R80, R97: what an engine of die `d` reads at package scope: the dirty bytes of the die's own copies over the home
segment's. -/
def engineByte (s : State) (d pa : Nat) : Byte :=
  let la := pa / 64
  let own := fun (ls : List Line) => match findLine ls la with
    | some x => if x.dirty.getLsbD (pa % 64) then x.data[pa % 64]? else none
    | none => none
  match (l1Holders s d none la).findSome? fun c => own (s.core c).l1 with
  | some b => b
  | none => if homeDie pa = d then s.mem.read pa else (own (s.die d).lines).getD (s.mem.read pa)

def engineBytes (s : State) (d pa : Nat) : Nat → List Byte
  | 0 => []
  | n + 1 => engineByte s d pa :: engineBytes s d (pa + 1) n

def engineRead (s : State) (d : Nat) (l : Loc) (n : Nat) : List Byte :=
  match l with
  | .mem pa => engineBytes s d pa n
  | _ => homeBytes s l n

/-- R362, R363: the poison that an engine of die `d` meets at a place: of the segment, or of a copy whose dirty bytes it takes. -/
def enginePoison (s : State) (d : Nat) (l : Loc) (n : Nat) : Option ErrEntry :=
  match l with
  | .mem pa => (linesOf pa n).findSome? fun la =>
    let own := fun (ls : List Line) => match findLine ls la with
      | some x => if x.dirty = 0 then none else x.poison
      | none => none
    (match (l1Holders s d none la).findSome? fun c => own (s.core c).l1 with
      | some k => some k
      | none => (own (s.die d).lines).orElse fun _ => segPoison s la).map fun k => ⟨k, 64 * la, 0, 0, 0xFFF, 0, 0⟩
  | _ => poisonAt s .home l n

/-- R97: an engine's write performed at package scope. -/
def engineWrite (s : State) (d : Nat) (l : Loc) (bs : List Byte) : State := writeHome (toHome s d l) l bs

/-- R341: the place of a byte of a source or destination of an engine command, which no device-ordered page may hold. -/
def commandPlace (s : State) (i : Nat) (sp : Space) (engine : Bool) (acc : Acc) (va : W64) : Except TrapInfo Place := do
  let p ← locate s i sp engine acc va
  if p.dev then .error (cause 0x06 va) else return p

/-- Bytes from an address to the end of its 64-byte line, at most `n`. -/
def lineStep (va : W64) (n : Nat) : Nat := min n (64 - va.toNat % 64)

/-- R363: the trap of poison among `n` bytes at a place that an engine of die `d` reads. -/
def consume (s : State) (d : Nat) (va : W64) (l : Loc) (n : Nat) : Except TrapInfo Unit :=
  match enginePoison s d l n with
  | some e => .error (poisonTrap va e)
  | none => .ok ()

/-- `n` bytes of a range read as an engine reads, line by line, in one space, with the errors of R363; `fuel` bounds the
number of lines. -/
def readLines (s : State) (i : Nat) (sp : Space) (engine : Bool) (va : W64) (n : Nat) :
    Nat → Except TrapInfo (List Byte)
  | 0 => .ok []
  | fuel + 1 => if n = 0 then .ok [] else do
    let p ← locate s i sp engine .load va
    match p.loc with
    | .fabric .. => .error (cause 0x06 va)
    | l =>
      let k := lineStep va n
      consume s (dieOf i) va l k
      let r ← readLines s i sp engine (va + BitVec.ofNat 64 k) (n - k) fuel
      return engineRead s (dieOf i) l k ++ r

/-- A range read line by line. -/
def readRange (s : State) (i : Nat) (sp : Space) (engine : Bool) (va : W64) (n : Nat) : Except TrapInfo (List Byte) :=
  readLines s i sp engine va n (n / 64 + 2)

/-- R84: the lines of a range that a hart reads at package scope leave its die, as an eviction may at any time, so that none of its
later loads reads an older value there. -/
def homeLines (s : State) (i : Nat) (sp : Space) (va : W64) (n : Nat) : Nat → State
  | 0 => s
  | fuel + 1 => if n = 0 then s else
    let k := lineStep va n
    let t := match locate s i sp false .load va with
      | .ok p => toHome s (dieOf i) p.loc
      | .error _ => s
    homeLines t i sp (va + BitVec.ofNat 64 k) (n - k) fuel

def homeRange (s : State) (i : Nat) (sp : Space) (va : W64) (n : Nat) : State := homeLines s i sp va n (n / 64 + 2)

/-- R80, R329: the lines of a range that an engine reads, up to the first that it cannot reach, as the engine finds them. -/
def reachLines (s : State) (i : Nat) (sp : Space) (engine : Bool) (va : W64) (n : Nat) : Nat → State
  | 0 => s
  | fuel + 1 => if n = 0 then s else
    match locate s i sp engine .load va with
    | .error _ => s
    | .ok p =>
      let k := lineStep va n
      reachLines (engineReach s (dieOf i) p.loc k) i sp engine (va + BitVec.ofNat 64 k) (n - k) fuel

def reachRange (s : State) (i : Nat) (sp : Space) (engine : Bool) (va : W64) (n : Nat) : State :=
  reachLines s i sp engine va n (n / 64 + 2)

/-- R303, R393: whether every byte of a range can be accessed, fabric windows excluded; the error is the first one's. -/
def checkLines (s : State) (i : Nat) (sp : Space) (acc : Acc) (va : W64) (n : Nat) : Nat → Except TrapInfo Unit
  | 0 => .ok ()
  | fuel + 1 => if n = 0 then .ok () else do
    let p ← locate s i sp false acc va
    match p.loc with
    | .fabric .. => .error (cause 0x06 va)
    | _ => checkLines s i sp acc (va + BitVec.ofNat 64 (lineStep va n)) (n - lineStep va n) fuel

def checkRange (s : State) (i : Nat) (sp : Space) (acc : Acc) (va : W64) (n : Nat) : Except TrapInfo Unit :=
  match leavesRegion va n with
  | some v => .error (cause 0x06 v)
  | none => checkLines s i sp acc va n (n / 64 + 2)

/-- Bytes written line by line as engine writes, in one space; a line that cannot be reached is left out. -/
def writeLines (s : State) (i : Nat) (sp : Space) (va : W64) (bs : List Byte) : Nat → State
  | 0 => s
  | fuel + 1 => if bs.isEmpty then s else
    let k := lineStep va bs.length
    let t := match locate s i sp false .store va with
      | .ok p => engineWrite s (dieOf i) p.loc (bs.take k)
      | .error _ => s
    writeLines t i sp (va + BitVec.ofNat 64 k) (bs.drop k) fuel

def writeRange (s : State) (i : Nat) (sp : Space) (va : W64) (bs : List Byte) : State :=
  writeLines s i sp va bs (bs.length / 64 + 2)

/-- 64-bit words of a list of bytes. -/
def wordsOf : Nat → List Byte → List W64
  | 0, _ => []
  | n + 1, bs => BitVec.ofNat 64 (ofLE (bs.take 8)) :: wordsOf n (bs.drop 8)

end Sys2Proof.Machine
end

