-- ==== Sys2Proof/Machine/Operands.lean ====
section
/-! DEFINITION. Operand forms of the vector and matrix instructions: the format word (R58), elements of register groups
(R28, R60), masks and load queues, what each instruction reads and writes, the ranges it accesses in memory, and the order
that this imposes (R23, R35, R36, R41, R104, R203, R207, R222). -/

namespace Sys2Proof.Machine

/-! ## The format word (R58) -/

def fwD (w : W64) : Nat := fld w 3 0
def fwA (w : W64) : Nat := fld w 7 4
def fwB (w : W64) : Nat := fld w 11 8
def fwRnd (w : W64) : Nat := fld w 14 12
def fwNan (w : W64) : Bool := w.getLsbD 15
def fwNb (w : W64) : Nat := fld w 17 16
def fwEdge (w : W64) : Nat := fld w 19 18
def fwCb (w : W64) : Nat := fld w 23 20
def fwScale (w : W64) : Nat := fld w 27 24
def fwRsv (w : W64) : Nat := fld w 31 28
def fwSalt (w : W64) : Nat := fld w 63 32

/-- The format of a code that a dispatch check has admitted. -/
def fmtOf (c : Nat) : Fmt := (Fmt.ofCode c).getD .s8
/-- R52: the width of a format code. -/
def codeWidth (c : Nat) : Nat := (fmtOf c).width
/-- R58: the rounding mode is SR or SRS. -/
def fwStoch (w : W64) : Bool := fwRnd w == 5 || fwRnd w == 6

/-! ## Elements of register groups (R28, R60) -/

/-- A field of `w` bits of a register. -/
def VWord.get (v : VWord) (i w : Nat) : Nat := (v.extractLsb' i w).toNat
/-- A register with a field of `w` bits replaced. -/
def VWord.put (v : VWord) (i w x : Nat) : VWord :=
  (v &&& ~~~(BitVec.ofNat 16384 ((2 ^ w - 1) <<< i))) ||| BitVec.ofNat 16384 ((x % 2 ^ w) <<< i)

/-- R28, R60: register and first bit of element `e` of a group with `l` lanes and elements of `w` bits. -/
def elemPlace (l base w e : Nat) : Nat × Nat := (base + e / l * w / 256, 256 * (e % l) + e / l * w % 256)

/-- R28: element `e` of a group. -/
def Hart.elem (h : Hart) (base w e : Nat) : Nat :=
  let p := elemPlace h.leff base w e
  VWord.get (h.v[p.1]?.getD 0) p.2 w

/-- R362: the poisoned word that holds an element. -/
def Hart.elemPoison (h : Hart) (base w e : Nat) : Option Nat :=
  let p := elemPlace h.leff base w e
  (h.vpoison.find? fun x => x.1 = 256 * p.1 + p.2 / 64).map (·.2)

/-- R28: element `e` of a group replaced; a whole 8-byte word clears its poison (R362). -/
def Hart.putElem (h : Hart) (base w e x : Nat) : Hart :=
  let p := elemPlace h.leff base w e
  { h with
    v := h.v.setIfInBounds p.1 (VWord.put (h.v[p.1]?.getD 0) p.2 w x)
    vpoison := if w = 64 then clearKeys h.vpoison fun k => k = 256 * p.1 + p.2 / 64 else h.vpoison }

/-- Bit `e` of a mask register. -/
def Hart.mbit (h : Hart) (k : BitVec 3) (e : Nat) : Bool := (h.m[k.toNat]).getLsbD e
/-- Bit `e` of a mask register replaced. -/
def Hart.putMbit (h : Hart) (k : BitVec 3) (e : Nat) (b : Bool) : Hart :=
  { h with m := h.m.set k.toNat (VWord.put h.m[k.toNat] e 1 b.toNat) }

/-- R199, R176: predicate m admits element `e`; m = 0 admits every element. -/
def Hart.admits (h : Hart) (m : BitVec 3) (e : Nat) : Bool := m == 0 || h.mbit m e

/-- R57: entry `c` of a codebook table. -/
def Hart.code (h : Hart) (t c : Nat) : BitVec 16 := kget 0 h.cb (16 * t + c)

/-- R208: element `e` of a load queue. -/
def Hart.qelem (h : Hart) (n e : Nat) : Nat := match h.q[n]? with
  | some x => (kget 0 x.elems e).toNat
  | none => 0

/-! ## What each vector instruction is (R141, R142, R175 to R192) -/

/-- Which format codes an operand accepts (R175, R182, R188). -/
inductive Cls where
  | unused | f | i | x
  /-- s16, z16, s32, z32, s64 (R182) -/
  | cls
  /-- s8, z8, E4M3, E5M2, E2M1, BF16, FP16 (R188) -/
  | dot
  /-- s32 and FP32 (R188) -/
  | sum
deriving DecidableEq, Repr

/-- R52, R118, R175: a code that a class admits. The field of an operand that the instruction does not have may hold any code but
the reserved code 15. -/
def Cls.admits : Cls → Nat → Bool
  | .unused, c => c != 15
  | .f, c => c < 7 || c == 12
  | .i, c => 7 ≤ c && c < 15 && c != 12
  | .x, c => c < 15
  | .cls, c => [9, 10, 11, 13, 14].contains c
  | .dot, c => [1, 2, 3, 4, 5, 7, 8].contains c
  | .sum, c => c == 0 || c == 10

/-- The width rules of R185, R186, R187 and R188. -/
inductive WidthRule where
  | free | same3 | sameAB | sameAD | wide | dot
deriving DecidableEq, Repr

/-- The shape of a vector instruction: its predicate, format word, operands and kind. -/
structure VShape where
  m : BitVec 3 := 0
  fw : Option (BitVec 3) := none
  d : Option Reg := none
  md : Option (BitVec 3) := none
  xd : Option Reg := none
  a : Option Reg := none
  b : Option Reg := none
  /-- mask registers read besides the predicate -/
  ms : List (BitVec 3) := []
  cd : Cls := .unused
  ca : Cls := .unused
  cb : Cls := .unused
  rule : WidthRule := .free
  /-- vd's old elements are read (R180, R187, R188) -/
  old : Bool := false
  nb : Bool := false
  m0 : Bool := false
  barrier : Bool := false
  /-- commits all or nothing (R42, R178) -/
  whole : Bool := false
  /-- source elements per element (R188) -/
  mult : Nat := 1
deriving DecidableEq, Repr

/-- R179: two class-F sources. -/
def vsF (m f : BitVec 3) (d a b : Reg) : VShape :=
  { m := m, fw := some f, d := some d, a := some a, b := some b, cd := .f, ca := .f, cb := .f, nb := true, m0 := true }
/-- R179: one class-F source. -/
def vsF1 (m f : BitVec 3) (d a : Reg) : VShape :=
  { m := m, fw := some f, d := some d, a := some a, cd := .f, ca := .f, nb := true, m0 := true }
/-- R182, R186: a comparison into a mask. -/
def vsC (c : Cls) (m f d : BitVec 3) (a b : Reg) : VShape :=
  { m := m, fw := some f, md := some d, a := some a, b := some b, ca := c, cb := c, nb := true }
/-- R185: an integer instruction; `m0` marks those that write m0. -/
def vsI (m0 : Bool) (m f : BitVec 3) (d a b : Reg) : VShape :=
  { m := m, fw := some f, d := some d, a := some a, b := some b, cd := .i, ca := .i, cb := .i, nb := true, m0 := m0 }
/-- R189: a cross-lane instruction over one source. -/
def vsX (m f : BitVec 3) (d a : Reg) : VShape :=
  { m := m, fw := some f, d := some d, a := some a, cd := .x, ca := .x, m0 := true, barrier := true, whole := true }

/-- The shape of a V-format or mask instruction (R176 to R192); the other instructions have none. -/
def vshape : Instr → VShape
  | .vfadd m f d a b | .vfsub m f d a b | .vfmul m f d a b | .vfmin m f d a b | .vfmax m f d a b | .vfdiv m f d a b
  | .vfsgn m f d a b | .vfuq m f d a b => vsF m f d a b
  | .vfma m f d a b | .vfnma m f d a b => { vsF m f d a b with old := true }
  | .vfsqrt m f d a | .vfrsq m f d a | .vfabs m f d a | .vfneg m f d a | .vfcvt m f d a => vsF1 m f d a
  | .vfscale m f d a b => { vsF m f d a b with cb := .i }
  | .vfeq m f d a b | .vflt m f d a b | .vfle m f d a b => vsC .f m f d a b
  | .vfcls m f d a => { vsF1 m f d a with cd := .cls }
  | .vfcvti m f d a => { vsF1 m f d a with cd := .i }
  | .vficvt m f d a => { vsF1 m f d a with ca := .i }
  | .vsig m f d a => { m := m, fw := some f, xd := some d, a := some a, ca := .x, whole := true }
  | .vrand m f d => { m := m, fw := some f, d := some d, cd := .i }
  | .vadd m f d a b | .vsub m f d a b | .vmul m f d a b => vsI false m f d a b
  | .vmulh m f d a b => { vsI false m f d a b with rule := .same3 }
  | .vmin m f d a b | .vmax m f d a b | .vadds m f d a b | .vsubs m f d a b | .vabsd m f d a b => vsI true m f d a b
  | .vand m f d a b | .vor m f d a b | .vxor m f d a b =>
    { vsI false m f d a b with cd := .x, ca := .x, cb := .x, rule := .same3 }
  | .vsll m f d a b | .vsrl m f d a b | .vsra m f d a b => { vsI false m f d a b with rule := .sameAD }
  | .vseq m f d a b | .vsne m f d a b | .vslt m f d a b => vsC .i m f d a b
  | .vsltu m f d a b => { vsC .x m f d a b with rule := .sameAB }
  | .vsel m f d a b =>
    { fw := some f, d := some d, a := some a, b := some b, ms := [m], cd := .x, ca := .x, cb := .x, nb := true, m0 := true }
  | .vmv m f d a => { vsF1 m f d a with cd := .x, ca := .x }
  | .vbcast m f d _ => { m := m, fw := some f, d := some d, cd := .x, ca := .x, m0 := true }
  | .vidx m f d => { m := m, fw := some f, d := some d, cd := .i, m0 := true }
  | .vwma m f d a b => { vsI true m f d a b with rule := .wide, old := true }
  | .vwmul m f d a b | .vwadd m f d a b => { vsI true m f d a b with rule := .wide }
  | .vdot4 m f d a b =>
    { vsI true m f d a b with cd := .sum, ca := .dot, cb := .dot, rule := .dot, old := true, nb := false, mult := 4 }
  | .vred m f _ d a | .vscan m f _ d a => vsX m f d a
  | .vperm m f d a b => { vsX m f d a with b := some b, cb := .i }
  | .vslup m f d a _ | .vsldn m f d a _ | .vcompress m f d a | .vexpand m f d a => vsX m f d a
  | .vxpose8 m f d => { m := m, fw := some f, d := some d, cd := .x, old := true, barrier := true, whole := true }
  | .mand d a b | .mor d a b | .mxor d a b => { md := some d, ms := [a, b] }
  | .mnot d a => { md := some d, ms := [a] }
  | .mpop m d a | .mffs m d a => { m := m, xd := some d, ms := [a], barrier := true, whole := true }
  | .mfromvl d => { md := some d, barrier := true, whole := true }
  | .mmvx d a _ => { xd := some d, ms := [a], barrier := true, whole := true }
  | .vld _ _ m _ _ | .vlds _ _ m _ _ _ | .vldFf _ m _ _ | .vst _ m _ _ | .vsts _ m _ _ _ | .vstN _ m _ _ => { m := m }
  | .vldx _ _ m _ _ _ | .vldxO _ _ m _ _ _ | .vstx _ m _ _ _ | .vstxO _ m _ _ _
  | .vamoadd _ m _ _ _ | .vamomin _ m _ _ _ | .vamomax _ m _ _ _ | .vamoor _ m _ _ _ | .vamoand _ m _ _ _
  | .vamoxor _ m _ _ _ | .gunite m _ _ _ | .gfind m _ _ | .grelabel _ _ m _ _ _ => { m := m, barrier := true }
  | .ginit => { barrier := true }
  | .vmvx d _ _ => { xd := some d, barrier := true, whole := true }
  | .vmvv .. => { whole := true }
  | .cbload .. => { whole := true }
  | .mrd _ _ _ _ m | .mwr _ _ _ _ m | .mst _ _ _ _ m | .mscl _ _ m | .mmulO _ _ _ _ _ _ m | .mmulF _ _ _ _ _ _ m =>
    { m := m }
  | .msig _ d => { xd := some d }
  | _ => {}

/-- R204: the ordered forms. -/
def isOrdered : Instr → Bool
  | .vldxO .. | .vstxO .. => true
  | _ => false

/-- R207: an instruction of majors 0x21 to 0x25. -/
def consumesQueue (i : Instr) : Bool :=
  let v := vshape i
  v.fw.isSome && !v.barrier

/-- R35: a lane barrier. -/
def isBarrier (i : Instr) : Bool := (vshape i).barrier

/-- R22, R178: the x register that a queued instruction writes. -/
def xDest (i : Instr) : Option Reg := (vshape i).xd

/-- The destination of a load (R197): a register, or a load queue. -/
def loadDest : Instr → Option (BitVec 2 × Bool × Reg)
  | .vld w q _ d _ | .vlds w q _ d _ _ | .vldx w q _ d _ _ | .vldxO w q _ d _ _ => some (w, q, d)
  | .vldFf w _ d _ => some (w, false, d)
  | _ => none

/-- The data operand of a vector store or atomic (R197, R213). -/
def storeSrc : Instr → Option (BitVec 2 × Reg)
  | .vst w _ d _ | .vsts w _ d _ _ | .vstx w _ d _ _ | .vstxO w _ d _ _ | .vstN w _ d _
  | .vamoadd w _ d _ _ | .vamomin w _ d _ _ | .vamomax w _ d _ _ | .vamoor w _ d _ _ | .vamoand w _ d _ _
  | .vamoxor w _ d _ _ => some (w, d)
  | _ => none

/-- The index group of an indexed form (R198). -/
def indexSrc : Instr → Option Reg
  | .vldx _ _ _ _ _ b | .vldxO _ _ _ _ _ b | .vstx _ _ _ _ b | .vstxO _ _ _ _ b
  | .vamoadd _ _ _ _ b | .vamomin _ _ _ _ b | .vamomax _ _ _ _ b | .vamoor _ _ _ _ b | .vamoand _ _ _ _ b
  | .vamoxor _ _ _ _ b => some b
  | _ => none

/-! ## Register groups (R60) -/

/-- A register group: its base, its element width, and its elements for each element of the instruction. -/
structure Grp where
  base : Nat
  w : Nat
  mult : Nat := 1
deriving DecidableEq, Repr

/-- R24: G and EW of an entry. -/
def QEntry.gval (e : QEntry) : Nat := 2 ^ e.g.toNat
def QEntry.ewval (e : QEntry) : Nat := 8 * 2 ^ e.ew.toNat

/-- R60: the registers of a group, rounded up to 1. -/
def QEntry.count (e : QEntry) (g : Grp) : Nat := max 1 (g.mult * e.gval * g.w / e.ewval)
def QEntry.regs (e : QEntry) (g : Grp) : List Nat := (List.range (e.count g)).map (g.base + ·)

/-- R60, R41, R394: G_x above 8, or a base that is not a multiple of G_x rounded up to 1. -/
def QEntry.badGroup (e : QEntry) (g : Grp) : Bool :=
  decide (8 * e.ewval < g.mult * e.gval * g.w) || g.base % e.count g != 0

/-- R67: the companion register of `vfuq`. -/
def QEntry.companion (e : QEntry) (b : Reg) : Nat := b.toNat + e.count ⟨b.toNat, codeWidth (fwB e.fw), 1⟩

/-- The vector register group of operand a, the one that R43 lets a neighbour be read from. -/
def QEntry.readsA (e : QEntry) : List Grp :=
  match (vshape e.instr).a, e.qa with
  | some r, none => [⟨r.toNat, codeWidth (fwA e.fw), (vshape e.instr).mult⟩]
  | _, _ => []

/-- The other vector register groups that an entry reads. -/
def QEntry.readsB (e : QEntry) : List Grp :=
  let v := vshape e.instr
  let b := match v.b, e.qb with
    | some r, none => [Grp.mk r.toNat (codeWidth (fwB e.fw)) (if fwScale e.fw != 0 then 0 else v.mult)]
    | _, _ => []
  match e.instr with
  | .vfuq _ _ _ _ r => b ++ (if e.dispatched then [] else [⟨e.companion r, 8, 0⟩])
  | .vxpose8 _ _ d => (List.range 8).map fun i => ⟨d.toNat + i, e.ewval, 0⟩
  | .vmvx _ a _ => [⟨a.toNat, e.ewval, 1⟩]
  | .gunite _ _ a b | .grelabel _ _ _ _ a b => [⟨a.toNat, 32, 1⟩, ⟨b.toNat, 32, 1⟩]
  | .gfind _ _ a => [⟨a.toNat, 32, 1⟩]
  | .mldbx _ _ _ b _ => [⟨b.toNat, e.ewval, 1⟩]
  | .mmulO _ _ _ asrc oa _ _ | .mmulF _ _ _ asrc oa _ _ =>
    if asrc then [] else [⟨oa.toNat, codeWidth (fwA e.fw), 1⟩]
  | .mwr _ _ oa _ _ => [⟨oa.toNat, codeWidth (fwA e.fw), 1⟩]
  | .mscl _ oa _ => [⟨oa.toNat, 32, 1⟩]
  | i =>
    b ++ (match v.d with
      | some d => if v.old then [⟨d.toNat, codeWidth (fwD e.fw), 1⟩] else []
      | none => [])
    ++ (match storeSrc i with
      | some (w, d) => [⟨d.toNat, 8 * memWidth w, 1⟩]
      | none => [])
    ++ (match indexSrc i with
      | some b => [⟨b.toNat, e.ewval, 1⟩]
      | none => [])

/-- The vector register groups that an entry reads. -/
def QEntry.reads (e : QEntry) : List Grp := e.readsA ++ e.readsB

/-- The vector register groups that an entry writes. -/
def QEntry.writes (e : QEntry) : List Grp :=
  match e.instr with
  | .vxpose8 _ _ d => (List.range 8).map fun i => ⟨d.toNat + i, e.ewval, 0⟩
  | .vmvv d _ _ => [⟨d.toNat, e.ewval, 1⟩]
  | .gunite _ d _ _ | .gfind _ d _ => [⟨d.toNat, 32, 1⟩]
  | .grelabel _ wb _ _ _ b => if wb then [⟨b.toNat, 32, 1⟩] else []
  | .mrd _ _ oa _ _ => [⟨oa.toNat, codeWidth (fwD e.fw), 1⟩]
  | i => (match (vshape i).d with
      | some d => [⟨d.toNat, codeWidth (fwD e.fw), 1⟩]
      | none => [])
    ++ (match loadDest i with
      | some (w, false, d) => [⟨d.toNat, 8 * memWidth w, 1⟩]
      | _ => [])

/-- The mask registers that an entry reads, and those that it writes. -/
def QEntry.maskReads (e : QEntry) : List Nat :=
  let v := vshape e.instr
  (if v.m = 0 then [] else [v.m.toNat]) ++ v.ms.map (·.toNat)
def QEntry.maskWrites (e : QEntry) : List Nat :=
  let v := vshape e.instr
  v.md.toList.map (·.toNat) ++ (if v.m0 then [0] else [])
  ++ (match e.instr with
    | .mrd .. | .mwr .. => [0]
    | _ => [])

/-- R207: the load queue that a load fills. -/
def QEntry.queueOut (e : QEntry) : Option Nat := match loadDest e.instr with
  | some (_, true, d) => some d.toNat
  | _ => none

/-- R57, R196: the codebook table that an entry decodes or encodes with. -/
def QEntry.table (e : QEntry) : Option Nat :=
  let v := vshape e.instr
  let used := (v.cd != .unused && fwD e.fw == 6) || (v.ca != .unused && fwA e.fw == 6)
    || (v.cb != .unused && fwB e.fw == 6)
  let mat := match e.instr with
    | .mmulO .. | .mmulF .. | .mwr .. => fwA e.fw == 6
    | .mrd .. | .mst .. => fwD e.fw == 6
    | _ => false
  if used || mat then some (fwCb e.fw) else none

/-! ## What a queued instruction accesses in memory (R23, R48, R222) -/

/-- An instruction that accesses memory. -/
def isMemory (i : Instr) : Bool :=
  (loadDest i).isSome || (storeSrc i).isSome || match i with
    | .cbload .. | .gunite .. | .gfind .. | .grelabel .. | .ginit | .mldb .. | .mldbx .. | .mst .. => true
    | .mmulO _ _ _ asrc .. | .mmulF _ _ _ asrc .. => asrc
    | _ => false

/-- R226: the bytes of `n` packed elements of `w` bits. -/
def packedBytes (w n : Nat) : Nat := (n * w + 7) / 8

/-- R37: the value that an element performed ahead of its group left in the group-result buffer. -/
def QEntry.ahead (e : QEntry) (x : Nat) : Option Nat := (e.done.find? fun p => p.1 = x).map (·.2)

/-- The entries of a hart that are queued before `e`. -/
def Hart.before (h : Hart) (e : QEntry) : List QEntry := (h.vq ++ h.mq).filter fun q => q.seq < e.seq

/-- No earlier queued instruction writes a register of a group, or a mask register. -/
def Hart.settled (h : Hart) (e : QEntry) (g : Grp) : Bool :=
  !(h.before e).any fun q => q.writes.any fun y => (e.regs g).any fun r => (q.regs y).contains r
def Hart.maskSettled (h : Hart) (e : QEntry) (m : BitVec 3) : Bool :=
  m == 0 || !(h.before e).any fun q => q.maskWrites.contains m.toNat

/-- The whole address space. -/
def spanAll : List (Int × Int) := [(0, 2 ^ 65)]

/-- The range of the accesses `lo` to `hi − 1` of `w` bytes each, `d` apart from address `a` on; an address that wraps makes it
everything. -/
def hull (a d : Int) (w lo hi : Nat) : List (Int × Int) :=
  if hi ≤ lo then [] else
  let x := a + lo * d
  let y := a + (hi - 1 : Int) * d
  if min x y < 0 ∨ 2 ^ 64 < max x y + w then spanAll else [(min x y, max x y + w)]

/-- The range from the lowest of some addresses to the highest, `w` bytes at each. -/
def hullOf (w : Nat) : List Nat → List (Int × Int)
  | [] => []
  | a :: l => [((l.foldl min a : Nat), (l.foldl max a : Nat) + (w : Int))]

/-- R198: the address of an element of an indexed form. -/
def indexedAddr (h : Hart) (e : QEntry) (b : Reg) (x : Nat) : W64 :=
  e.o1 + (BitVec.ofNat e.ewval (h.elem b.toNat e.ewval x)).signExtend 64

/-- R227: the address of a row of `mldbx`. -/
def gatheredRow (h : Hart) (e : QEntry) (b : Reg) (k : Nat) : W64 :=
  e.o1 + BitVec.ofNat 64 (h.elem b.toNat e.ewval k) * e.o3

/-- R23, R222: the byte ranges of the elements `lo` to `hi − 1` of a vector memory instruction, or of all rows of a matrix one,
each from its lowest to its highest address; masked-off elements count. While an earlier instruction is to write the indices the
range can be anything (log 56, DEDUCED). -/
def memSpans (h : Hart) (e : QEntry) (lo hi : Nat) : List (Int × Int) :=
  let a : Int := e.o1.toNat
  let unit := fun (w : BitVec 2) => hull a (memWidth w) (memWidth w) lo hi
  let indexed := fun (w : Nat) (b : Reg) (n : Nat) (f : Nat → W64) =>
    if h.settled e ⟨b.toNat, e.ewval, 1⟩ then hullOf w ((List.range n).map fun x => (f x).toNat) else spanAll
  let forest := hull h.uw.gforest.toNat 8 8 0 h.uw.gcount.toNat
  let log : List (Int × Int) := [(h.uw.glog.toNat, h.uw.glogend.toNat)]
  match e.instr with
  | .vld w .. | .vldFf w .. | .vst w .. => unit w
  | .vstN w .. => unit w ++ (if e.o2 = 0 then [] else [((e.o2.toNat : Int), (e.o2.toNat : Int) + 8)])
  | .vlds w .. | .vsts w .. => hull a e.o2.toInt (memWidth w) lo hi
  | .vldx w _ _ _ _ b | .vldxO w _ _ _ _ b | .vstx w _ _ _ b | .vstxO w _ _ _ b | .vamoadd w _ _ _ b | .vamomin w _ _ _ b
  | .vamomax w _ _ _ b | .vamoor w _ _ _ b | .vamoand w _ _ _ b | .vamoxor w _ _ _ b =>
    indexed (memWidth w) b (if lo < hi then e.vl else 0) (indexedAddr h e b)
  | .cbload .. => [(a, a + 32)]
  | .ginit | .gfind .. => forest
  | .gunite .. => forest ++ log
  | .grelabel .. => forest ++ hull a 4 4 0 h.uw.gcount.toNat
  | .mldb .. => hull a e.o2.toInt (packedBytes (codeWidth (fwB e.fw)) e.sn) 0 e.sk
  | .mldbx _ _ _ b _ => indexed (packedBytes (codeWidth (fwB e.fw)) e.sn) b e.sk (gatheredRow h e b)
  | .mmulO _ _ _ asrc .. | .mmulF _ _ _ asrc .. =>
    if asrc then hull a e.o2.toInt (packedBytes (codeWidth (fwA e.fw)) e.sk) 0 e.sm else []
  | .mst .. => hull a e.o2.toInt (packedBytes (codeWidth (fwD e.fw)) e.sn) 0 e.sm
  | _ => []

/-- R23: a scalar access waits while a queued instruction holds an overlapping range. -/
def rangeBusy (h : Hart) (va : W64) (n : Nat) : Bool :=
  (h.vq ++ h.mq).any fun e => (memSpans h e 0 e.vl).any fun r =>
    decide (r.1 < (va.toNat : Int) + n) && decide ((va.toNat : Int) < r.2)

/-- R101, R212: an entry makes progress adds. -/
def QEntry.adds (e : QEntry) : Bool := match e.instr with
  | .vstN .. => e.o2 != 0
  | _ => false

/-- R90, R104, R105: the progress adds of the hart, which are releases, are still queued: a later acquire or pop goes behind
them. -/
def addPending (h : Hart) : Bool := (h.vq ++ h.mq).any QEntry.adds

/-- R90: earlier memory accesses of the hart are still queued. -/
def memPending (h : Hart) : Bool := (h.vq ++ h.mq).any fun e => isMemory e.instr

/-- R90, R94: whether a release at a scope can be performed now. -/
def releaseReady (s : State) (i : Nat) (scope : Nat) : Bool :=
  !memPending (s.hart i) && (scope < 4 || !storesOut s i)

/-- R48: the bytes that a queued store has still to hold: those of its active elements or rows that are not yet performed;
while an earlier instruction is to write the mask, every element counts (log 13, DEDUCED). -/
def QEntry.storeBytes (h : Hart) (e : QEntry) : Nat :=
  let m := (vshape e.instr).m
  let open' := fun x => (e.ahead x).isNone && (!h.maskSettled e m || h.admits m x)
  let count := fun n => ((List.range (n - e.k)).map (e.k + ·)).countP open'
  match e.instr with
  | .vst w .. | .vsts w .. | .vstx w .. | .vstxO w .. | .vstN w .. => count e.vl * memWidth w
  | .mst .. => count e.sm * packedBytes (codeWidth (fwD e.fw)) e.sn
  | _ => 0

/-! ## Order among queued instructions (R35, R36, R203, R208, R222) -/

/-- R43: the element of operand a that element `x` reads; none reads zero. -/
def nbIndex (e : QEntry) (x : Nat) : Option Nat :=
  let edge := fun (replicate wrap : Nat) => match fwEdge e.fw with
    | 0 => none
    | 1 => some replicate
    | _ => some wrap
  match fwNb e.fw with
  | 1 => if 0 < x then some (x - 1) else edge 0 (e.vl - 1)
  | 2 => if x + 1 < e.vl then some (x + 1) else edge (e.vl - 1) 0
  | _ => some x

/-- An entry reads a neighbour of its own element. -/
def QEntry.neighbour (e : QEntry) : Bool := (vshape e.instr).nb && fwNb e.fw != 0

/-- R36, R43: the number of leading elements of operand a that the elements `lo` to `hi − 1` read. -/
def QEntry.reach (e : QEntry) (lo hi : Nat) : Nat :=
  if e.neighbour then ((List.range (hi - lo)).filterMap fun j => nbIndex e (lo + j)).foldl (fun n y => max n (y + 1)) 0 else hi

/-- R43, R203: how far an entry has come when it reads no element below `hi` of operand a any more. -/
def QEntry.readsTo (e : QEntry) (hi : Nat) : Nat :=
  if !e.neighbour then hi
  else if fwNb e.fw = 1 then hi + 1
  else if fwEdge e.fw = 2 then e.vl else hi

/-- Whether two groups that share a register hold their elements at the same places. -/
def Grp.chains (x y : Grp) : Bool := x == y && x.mult == 1

/-- An earlier entry `q` has passed the first `n` elements of its registers. -/
def QEntry.past (q : QEntry) (n : Nat) : Bool := min q.vl n ≤ q.k

/-- One of `xs` of entry `e` and one of `ys` of the earlier entry `q` share a register that `q` has not passed. -/
def groupsWait (e : QEntry) (xs : List Grp) (q : QEntry) (ys : List Grp) (n : Nat) : Bool :=
  xs.any fun x => ys.any fun y =>
    (e.regs x).any (fun r => (q.regs y).contains r) && !q.past (if x.chains y && e.g == q.g && e.ew == q.ew then n else q.vl)

def masksWait (xs ys : List Nat) (q : QEntry) (n : Nat) : Bool := xs.any (ys.contains ·) && !q.past n

/-- R23, R104: the elements of `e` below `hi` that are not committed, and those of the earlier entry `q`, overlap in memory. -/
def spansMeet (h : Hart) (e q : QEntry) (hi : Nat) : Bool :=
  (memSpans h e e.k hi).any fun x => (memSpans h q q.k q.vl).any fun y => decide (x.1 < y.2) && decide (y.1 < x.2)

/-- R196: a `cbload` of a table and an instruction that uses it. -/
def tablesMeet (e q : QEntry) : Bool :=
  let uses := fun (x y : QEntry) => match x.instr, y.table with
    | .cbload t _, some u => t.toNat == u
    | _, _ => false
  uses e q || uses q e

/-- R101, R104: the progress add of `vst.n` is a release behind every earlier access of the hart. -/
def addWaits (e q : QEntry) : Bool := isMemory q.instr && e.adds

/-- R59, R188, R207: the number of leading elements of the load queue at an operand (`b`: the second) that an entry's elements below
`hi` read: four each of `vdot4`, one of 32 where they are block scales. -/
def QEntry.queueReach (e : QEntry) (b : Bool) (hi : Nat) : Nat :=
  if b && fwScale e.fw != 0 then (hi + 31) / 32 else (vshape e.instr).mult * hi

/-- R36, R207: an entry reads elements of a load queue that the earlier entry `q` has not loaded. -/
def queueWaits (e q : QEntry) (hi : Nat) : Bool :=
  q.queueOut.isSome && ((q.queueOut == e.qa && !q.past (e.queueReach false hi)) || (q.queueOut == e.qb && !q.past (e.queueReach true hi)))

/-- R36, R104: elements of entry `e` below `hi` are not available, or their accesses not in order, while the earlier entry `q` of
its queue stands as it is. An entry chained behind a fault comes no further than the fault's element (R38). -/
def needsFrom (h : Hart) (e q : QEntry) (hi : Nat) : Bool :=
  groupsWait e e.readsA q q.writes (if q.fault.isSome then max hi (e.reach e.k hi) else e.reach e.k hi)
  || groupsWait e e.readsB q q.writes hi
  || masksWait e.maskReads q.maskWrites q hi
  || queueWaits e q hi
  || tablesMeet e q || spansMeet h e q hi || addWaits e q

/-- R36, R203: elements of entry `e` below `hi` would be written before the earlier entry `q` of its queue has read or written
them. -/
def writesOver (e q : QEntry) (hi : Nat) : Bool :=
  groupsWait e e.writes q q.writes hi
  || groupsWait e e.writes q q.readsA (q.readsTo hi)
  || groupsWait e e.writes q q.readsB hi
  || masksWait e.maskWrites q.maskReads q hi
  || masksWait e.maskWrites q.maskWrites q hi
  || (e.queueOut.isSome && (e.queueOut == q.queueOut || e.queueOut == q.qa || e.queueOut == q.qb))
  || (match e.instr, q.instr with
    | .cbload t _, .cbload u _ => t == u
    | _, _ => false)

/-- R36, R203: entry `e` cannot commit its elements below `hi` while the earlier entry `q` of its queue stands as it is. -/
def waitsFor (h : Hart) (e q : QEntry) (hi : Nat) : Bool :=
  let hi := if (vshape e.instr).whole then e.vl else hi
  needsFrom h e q hi || writesOver e q hi

/-- R104, R222, R196: an entry waits for the earlier entry `q` of the other queue. -/
def crossWaits (h : Hart) (e q : QEntry) : Bool :=
  let all := fun (x : QEntry) (gs : List Grp) => gs.flatMap fun g => x.regs g
  let meet := fun (xs ys : List Nat) => xs.any (ys.contains ·)
  meet (all e e.reads) (all q q.writes) || meet (all e e.writes) (all q q.writes) || meet (all e e.writes) (all q q.reads)
  || meet e.maskReads q.maskWrites || meet e.maskWrites q.maskWrites || meet e.maskWrites q.maskReads
  || tablesMeet e q || spansMeet h e q e.vl || addWaits e q

end Sys2Proof.Machine
end

