-- ==== Sys2Proof/Machine/Lanes.lean ====
section
/-! DEFINITION. What the lanes compute: the elements of the element-wise instructions (R176 to R188, R192) and the
results of the cross-lane and scalar-writing instructions (R68 to R70, R183, R189 to R192, R215). -/

namespace Sys2Proof.Machine

/-! ## Operands of one element (R43, R57, R176) -/

/-- R63: the draw of an evaluation with counter word c0; 0 for an instruction that captured no values. -/
def draw (h : Hart) (e : QEntry) (c0 : Nat) : Nat :=
  if e.stoch then
    (philox ((fld h.uw.seed 31 0) ^^^ fwSalt e.fw) (fld h.uw.seed 63 32) c0 (fld e.srctr 31 0) (fld e.srctr 63 32)
      e.hid).1 % 2 ^ 16
  else 0

/-- R57: the codebook table that an entry's format word names. -/
def tableOf (h : Hart) (e : QEntry) : Nat → BitVec 16 := h.code (fwCb e.fw)

def rnd (e : QEntry) : Rnd := Rnd.ofCode (fwRnd e.fw)
def rdn (e : QEntry) : Bool := rnd e == .rdn

/-- The value of stored bits in a format of the entry. -/
def value (h : Hart) (e : QEntry) (c bits : Nat) : Exact := decodeNum (fmtOf c) (tableOf h e) bits

/-- A value rounded into fmt_d, with the draw of counter word `c0` (R61, R63, R64). -/
def round (h : Hart) (e : QEntry) (c0 : Nat) (conv : Bool) (v : Exact) : Res :=
  encodeNum (fmtOf (fwD e.fw)) (rnd e) (fwNan e.fw) conv (draw h e c0) (tableOf h e) v

/-- R43, R207: the stored bits of element `x` of operand a; none at an edge that reads zero. -/
def bitsA (h : Hart) (e : QEntry) (r : Reg) (x : Nat) : Option Nat :=
  match e.qa with
  | some n => some (h.qelem n x)
  | none => (nbIndex e x).map fun y => h.elem r.toNat (codeWidth (fwA e.fw)) y

/-- Operand a as a value. -/
def numA (h : Hart) (e : QEntry) (r : Reg) (x : Nat) : Exact :=
  match bitsA h e r x with
  | some b => value h e (fwA e.fw) b
  | none => .zero

/-- R43, R57: operand a as stored bits, zero encoded in fmt_a at an edge. -/
def rawA (h : Hart) (e : QEntry) (r : Reg) (x : Nat) : Nat :=
  (bitsA h e r x).getD (if fwA e.fw = 6 then (encodeC4 (tableOf h e) .zero).bits else 0)

def rawB (h : Hart) (e : QEntry) (r : Reg) (x : Nat) : Nat :=
  match e.qb with
  | some n => h.qelem n x
  | none => h.elem r.toNat (codeWidth (fwB e.fw)) x
def numB (h : Hart) (e : QEntry) (r : Reg) (x : Nat) : Exact := value h e (fwB e.fw) (rawB h e r x)

/-- R180: vd's old element. -/
def numD (h : Hart) (e : QEntry) (r : Reg) (x : Nat) : Exact :=
  value h e (fwD e.fw) (h.elem r.toNat (codeWidth (fwD e.fw)) x)

def intA (h : Hart) (e : QEntry) (r : Reg) (x : Nat) : Int := (numA h e r x).toInt
def intB (h : Hart) (e : QEntry) (r : Reg) (x : Nat) : Int := (numB h e r x).toInt

/-! ## Results of one element -/

/-- What an element-wise instruction writes for one element: a rounded result with its m0 bit and flags, stored bits
alone, or a mask bit and flags. -/
inductive Put where
  | res (r : Res)
  | raw (b : Nat)
  | bit (b : Bool) (fl : Nat)
deriving DecidableEq, Repr

/-- R55, R179: an exact product and sum with their invalid flag. -/
def fused (rdn : Bool) (a b d : Exact) : Exact × Nat :=
  let p := Exact.mul a b
  (Exact.add rdn p d, if mulInvalid a b || addInvalid p d then 16 else 0)

/-- R186: stored bits of format `c` moved "into fmt_d"; between formats of one code the bits are copied. -/
def moveInto (h : Hart) (e : QEntry) (x c : Nat) (bits : Option Nat) : Res :=
  match bits with
  | none => round h e x false .zero
  | some b =>
    if c = fwD e.fw then { bits := b % 2 ^ codeWidth c }
    else round h e x true (value h e c b)

/-- R179: a quotient rounded into fmt_d, with its flags. -/
def quotient (h : Hart) (e : QEntry) (x : Nat) (r : Exact × Nat) : Res :=
  if r.2 = 8 then divideByZero (fmtOf (fwD e.fw)) (rnd e) (fwNan e.fw) r.1.isNeg (tableOf h e)
  else (round h e x false r.1).flag r.2

/-- R181: a × 2^n; beyond ±4,000 every format overflows or is tiny alike. -/
def scaleBy (a : Exact) (n : Int) : Exact := match a with
  | .fin s m x t => .fin s m (x + max (-4000) (min 4000 n)) t
  | v => v

/-- R185: the low `w` bits of an integer. -/
def modular (w : Nat) (n : Int) : Put := .raw (n % 2 ^ w).toNat

/-- R176: what element `x` of an element-wise instruction becomes; the other instructions have no such element. A `vidx` index that
the integer fmt_d cannot hold saturates with NX (log 79, DEDUCED), and the sign that `vfsgn` takes from a C4 element is that of its
codebook entry (log 83, DEDUCED). -/
def elementOp (h : Hart) (e : QEntry) (x : Nat) : Option Put :=
  let A := fun r => numA h e r x
  let B := fun r => numB h e r x
  let a := fun r => intA h e r x
  let b := fun r => intB h e r x
  let ra := fun r => rawA h e r x
  let rb := fun r => rawB h e r x
  let w := codeWidth (fwD e.fw)
  let out := fun (v : Exact) (fl : Nat) => some (Put.res ((round h e x false v).flag fl))
  let cvt := fun (v : Exact) => some (Put.res (round h e x true v))
  let cnt := fun r => ((intB h e r x) % (w : Int)).toNat
  let cmp := fun (ok nv : Bool) => some (Put.bit ok (if nv then 16 else 0))
  match e.instr with
  | .vfadd _ _ _ p q => out (Exact.add (rdn e) (A p) (B q)) (if addInvalid (A p) (B q) then 16 else 0)
  | .vfsub _ _ _ p q =>
    out (Exact.add (rdn e) (A p) (B q).negate) (if addInvalid (A p) (B q).negate then 16 else 0)
  | .vfmul _ _ _ p q => out (Exact.mul (A p) (B q)) (if mulInvalid (A p) (B q) then 16 else 0)
  | .vfma _ _ d p q => let r := fused (rdn e) (A p) (B q) (numD h e d x); out r.1 r.2
  | .vfnma _ _ d p q => let r := fused (rdn e) (A p).negate (B q) (numD h e d x); out r.1 r.2
  | .vfmin _ _ _ p q => out (Exact.minimum (A p) (B q)) 0
  | .vfmax _ _ _ p q => out (Exact.maximum (A p) (B q)) 0
  | .vfdiv _ _ _ p q => some (.res (quotient h e x (Exact.div (A p) (B q))))
  | .vfsqrt _ _ _ p => let r := Exact.sqrt (A p); out r.1 r.2
  | .vfrsq _ _ _ p => some (.res (quotient h e x (Exact.rsqrt (A p))))
  | .vfuq _ _ _ p q =>
    some (.res (updateQuotient (fmtOf (fwD e.fw)) (rnd e) (fwNan e.fw) (draw h e x) (tableOf h e) (A p) (B q)
      (value h e (fwB e.fw) e.eps.toNat)))
  | .vfabs _ _ _ p => out ((A p).withSign false) 0
  | .vfneg _ _ _ p => out (A p).negate 0
  | .vfsgn _ _ _ p q =>
    let s := if fwB e.fw = 6 then (tableOf h e (rb q % 16)).msb else (rb q).testBit (codeWidth (fwB e.fw) - 1)
    out ((A p).withSign s) 0
  | .vfscale _ _ _ p q =>
    if fwScale e.fw = 0 then out (scaleBy (A p) (b q)) 0 else
    let k := match e.qb with
      | some n => h.qelem n (x / 32)
      | none => h.elem q.toNat 8 (x / 32)
    if k % 256 = 255 then out .nan 0
    else out (scaleBy (A p) (if fwScale e.fw = 1 then (k : Int) - 127 else 127 - (k : Int))) 0
  | .vfeq _ _ _ p q => cmp (Exact.eqv (A p) (B q)) false
  | .vflt _ _ _ p q => cmp (Exact.lt (A p) (B q)) ((A p).isNaN || (B q).isNaN)
  | .vfle _ _ _ p q => cmp (Exact.le (A p) (B q)) ((A p).isNaN || (B q).isNaN)
  | .vfcls _ _ _ p => out (.ofInt (classMask (fmtOf (fwA e.fw)) (A p))) 0
  | .vfcvt _ _ _ p | .vfcvti _ _ _ p | .vficvt _ _ _ p => cvt (A p)
  | .vrand .. =>
    let p := philox ((fld h.uw.seed 31 0) ^^^ fwSalt e.fw) (fld h.uw.seed 63 32) x (fld e.srctr 31 0)
      (fld e.srctr 63 32) e.hid
    some (.raw (if w = 64 then p.2.1 * 2 ^ 32 + p.1 else p.1 % 2 ^ w))
  | .vadd _ _ _ p q => some (modular w (a p + b q))
  | .vsub _ _ _ p q => some (modular w (a p - b q))
  | .vmul _ _ _ p q => some (modular w (a p * b q))
  | .vmulh _ _ _ p q => some (modular w (a p * b q / 2 ^ w))
  | .vmin _ _ _ p q => out (.ofInt (min (a p) (b q))) 0
  | .vmax _ _ _ p q => out (.ofInt (max (a p) (b q))) 0
  | .vand _ _ _ p q => some (.raw (ra p &&& rb q))
  | .vor _ _ _ p q => some (.raw (ra p ||| rb q))
  | .vxor _ _ _ p q => some (.raw (ra p ^^^ rb q))
  | .vsll _ _ _ p q => some (.raw (ra p <<< cnt q % 2 ^ w))
  | .vsrl _ _ _ p q => some (.raw (ra p >>> cnt q))
  | .vsra _ _ _ p q => some (modular w ((BitVec.ofNat w (ra p)).toInt / 2 ^ cnt q))
  | .vadds _ _ _ p q => out (.ofInt (a p + b q)) 0
  | .vsubs _ _ _ p q => out (.ofInt (a p - b q)) 0
  | .vabsd _ _ _ p q => out (.ofInt (a p - b q).natAbs) 0
  | .vseq _ _ _ p q => cmp (a p == b q) false
  | .vsne _ _ _ p q => cmp (a p != b q) false
  | .vslt _ _ _ p q => cmp (decide (a p < b q)) false
  | .vsltu _ _ _ p q => cmp (decide (ra p < rb q)) false
  | .vsel m _ _ p q =>
    some (.res (if h.mbit m x then moveInto h e x (fwA e.fw) (bitsA h e p x) else moveInto h e x (fwB e.fw) (some (rb q))))
  | .vmv _ _ _ p => some (.res (moveInto h e x (fwA e.fw) (bitsA h e p x)))
  | .vbcast .. => some (.res (moveInto h e x (fwA e.fw) (some (e.o1.toNat % 2 ^ codeWidth (fwA e.fw)))))
  | .vidx .. => out (.ofInt x) 0
  | .vwma _ _ d p q => out (.ofInt ((numD h e d x).toInt + a p * b q)) 0
  | .vwmul _ _ _ p q => out (.ofInt (a p * b q)) 0
  | .vwadd _ _ _ p q => out (.ofInt (a p + b q)) 0
  | .vdot4 _ _ d p q =>
    let r := (List.range 4).foldl (init := (numD h e d x, 0)) fun acc j =>
      let r := fused (rdn e) (numA h { e with vl := 4 * e.vl } p (4 * x + j)) (numB h e q (4 * x + j)) acc.1
      (r.1, acc.2 ||| r.2)
    out r.1 r.2
  | .mand _ p q => cmp (h.mbit p x && h.mbit q x) false
  | .mor _ p q => cmp (h.mbit p x || h.mbit q x) false
  | .mxor _ p q => cmp (h.mbit p x != h.mbit q x) false
  | .mnot _ p => cmp (!h.mbit p x) false
  | _ => none

/-- R66: flags collected into `cw.fflags`. -/
def Hart.addFlags (h : Hart) (fl : Nat) : Hart :=
  { h with uw := { h.uw with fflags := h.uw.fflags ||| BitVec.ofNat 64 fl } }

/-- R65: sticky bits set. -/
def Hart.addSticky (h : Hart) (w : W64) : Hart := { h with uw := { h.uw with lsticky := h.uw.lsticky ||| w } }

/-- R65, R66: the m0 bit, flags and sticky bit of an element's result. -/
def account (h : Hart) (e : QEntry) (x : Nat) (r : Res) : Hart :=
  let h := (h.putMbit 0 x r.m0).addFlags r.fl
  if fwNan e.fw && r.bad then h.addSticky 0x1000 else h

/-- R176: an element written. -/
def applyPut (h : Hart) (e : QEntry) (x : Nat) (p : Put) : Hart :=
  let v := vshape e.instr
  let put := fun (h : Hart) b => match v.d with
    | some d => h.putElem d.toNat (codeWidth (fwD e.fw)) x b
    | none => h
  match p with
  | .raw b => put h b
  | .res r => account (put h r.bits) e x r
  | .bit b fl => match v.md with
    | some d => (h.putMbit d x b).addFlags fl
    | none => h

/-! ## Reduction trees (R68 to R70, R190) -/

/-- Two results joined: flags, m0 and sticky marks collect along the path. -/
def Res.join (r : Res) (x y : Res) : Res :=
  { r with m0 := r.m0 || x.m0 || y.m0, fl := r.fl ||| x.fl ||| y.fl, bad := r.bad || x.bad || y.bad }

/-- R68: one level of the tree; a member without a partner, or with an absent one, passes on. -/
def pairUp (f : Nat → Res → Res → Res) : Nat → List (Option Res) → List (Option Res)
  | j, x :: y :: r =>
    (match x, y with
      | some p, some q => some (f j p q)
      | p, none => p
      | none, q => q) :: pairUp f (j + 1) r
  | _, l => l

/-- R68: the levels of the up-sweep, the leaves first; `f` is given the level and the node. -/
def sweep (f : Nat → Nat → Res → Res → Res) : Nat → Nat → List (Option Res) → List (List (Option Res))
  | 0, _, l => [l]
  | n + 1, lv, l => if l.length ≤ 1 then [l] else l :: sweep f n (lv + 1) (pairUp (f lv) 0 l)

/-- R190: one combination of two members under op 0 sum, 1 min, 2 max, 3 or, with counter word `c0` (R70). An integer sum that
saturates raises NX (log 79, DEDUCED). -/
def combine (h : Hart) (e : QEntry) (op : Nat) (c0 : Nat) (x y : Res) : Res :=
  let d := fwD e.fw
  let X := value h e d x.bits
  let Y := value h e d y.bits
  let plain := fun v => encodeNum (fmtOf d) (rnd e) (fwNan e.fw) false 0 (tableOf h e) v
  match op with
  | 0 => ((round h e c0 false (Exact.add (rdn e) X Y)).flag (if addInvalid X Y then 16 else 0)).join x y
  | 1 => (plain (Exact.minimum X Y)).join x y
  | 2 => (plain (Exact.maximum X Y)).join x y
  | _ => Res.join { bits := x.bits ||| y.bits } x y

/-- R68, R190: the identity of an operation. -/
def identity (h : Hart) (e : QEntry) (op : Nat) : Res :=
  let f := fmtOf (fwD e.fw)
  let code := fun (v : Exact) => (encodeNum f .rne true false 0 (tableOf h e) v).bits
  { bits := match op with
      | 0 => if f.isInt then 0 else code (.zero true)
      | 1 => if f.isInt then (BitVec.ofInt f.width f.intMax).toNat
        else if f = .e4m3 || f = .e2m1 then largest f false else code (.inf false)
      | 2 => if f.isInt then (BitVec.ofInt f.width f.intMin).toNat
        else if f = .e4m3 || f = .e2m1 then largest f true else code (.inf true)
      | _ => 0 }

/-- R68: the active elements converted to fmt_d, the others absent. An element whose code is fmt_d is rounded like the others, so
that an infinity saturates under SAT (log 70, DEDUCED). -/
def leaves (h : Hart) (e : QEntry) (m : BitVec 3) (a : Reg) : List (Option Res) :=
  (List.range e.vl).map fun x =>
    if h.admits m x then
      some (round h e x true (value h e (fwA e.fw) (h.elem a.toNat (codeWidth (fwA e.fw)) x)))
    else none

/-- R68, R70: the up-sweep of an entry. -/
def upSweep (h : Hart) (e : QEntry) (m : BitVec 3) (op : BitVec 2) (a : Reg) : List (List (Option Res)) :=
  sweep (fun lv j x y => combine h e op.toNat (0x80000000 + lv * 2 ^ 24 + j) x y) 20 1 (leaves h e m a)

/-- R69: the nodes that cover positions 0 to x, from the highest set bit of x + 1 down: for each, its level. -/
def nodeLevels (x : Nat) : List Nat := (List.range 20).reverse.filter fun b => (x + 1).testBit b

/-- R69, R70: the down-sweep value of element x: the running value, the next node's number and the position reached. -/
def downSweep (h : Hart) (e : QEntry) (op : BitVec 2) (lv : List (List (Option Res))) (x : Nat) : Option Res :=
  ((nodeLevels x).foldl (init := ((none : Option Res), 0, 0)) fun (acc, t, pos) b =>
    let nd := ((lv.getD b []).getD (pos / 2 ^ b) none)
    (match acc, nd with
      | some u, some v => some (combine h e op.toNat (0xC0000000 + t * 2 ^ 24 + x) u v)
      | u, none => u
      | none, v => v, t + 1, pos + 2 ^ b)).1

/-! ## Instructions that commit all or nothing (R42, R178) -/

/-- R189: element x of vd takes bits of fmt_a, or zero. -/
def moveElem (e : QEntry) (src : Hart) (h : Hart) (x : Nat) (bits : Option Nat) : Hart :=
  applyPut h e x (.res (moveInto src e x (fwA e.fw) bits))

/-- Elements below VL handled one after another; `src` is the hart before the instruction. -/
def eachElem (e : QEntry) (h : Hart) (f : Hart → Nat → Hart) : Hart := (List.range e.vl).foldl f h

/-- R183: the bytes of the active elements; 4-bit elements are packed two to a byte. -/
def packElems (w : Nat) : List Nat → List Byte
  | [] => []
  | x :: r =>
    if w = 4 then match r with
      | [] => [BitVec.ofNat 8 x]
      | y :: r' => BitVec.ofNat 8 (x + 16 * y) :: packElems w r'
    else toLE (w / 8) x ++ packElems w r

/-- The active elements of an entry. -/
def actives (h : Hart) (e : QEntry) (m : BitVec 3) : List Nat := (List.range e.vl).filter fun x => h.admits m x

/-- R191: element (row, column) of `vxpose8`. -/
def transposed (h : Hart) (e : QEntry) (d : Reg) (row col : Nat) : Nat :=
  let w := min 8 (e.vl - col / 8 * 8)
  if row < w then h.elem (d.toNat + col % 8) e.ewval (col / 8 * 8 + row) else h.elem (d.toNat + row) e.ewval col

/-- R192, R215: a scalar register written by a queued instruction. -/
def Hart.giveX (h : Hart) (d : Reg) (n : Nat) : Hart := h.setX d (BitVec.ofNat 64 n)

/-- R362: the words of the register group at `base`, with elements of `w` bits, of which every element is one of those that `wr` says are
written, lose their poison. -/
def Hart.mend (h : Hart) (base w : Nat) (wr : Nat → Bool) : Hart :=
  let whole := fun (k : Nat) => 256 * base ≤ k ∧ k % 256 / 4 < h.leff ∧
    (List.range (64 / w)).all (fun j => wr (k % 256 / 4 + h.leff * ((256 * (k / 256 - base) + 64 * (k % 4)) / w + j))) = true
  { h with vpoison := clearKeys h.vpoison whole }

/-- R189 to R191, R362: the words that an instruction which commits all or nothing has replaced lose their poison. -/
def mendWhole (old h : Hart) (e : QEntry) : Hart :=
  let below := fun x => decide (x < e.vl)
  let put := fun (d : Reg) wr => h.mend d.toNat (codeWidth (fwD e.fw)) fun x => below x && wr x
  match e.instr with
  | .vscan _ _ _ d _ | .vcompress _ _ d _ | .vexpand _ _ d _ => put d fun _ => true
  | .vperm m _ d _ _ | .vsldn m _ d _ _ => put d fun x => old.admits m x
  | .vslup m _ d _ _ => put d fun x => old.admits m x && decide (e.o1.toNat ≤ x)
  | .vxpose8 _ _ d => (List.range 8).foldl (init := h) fun t row => t.mend (d.toNat + row) e.ewval fun x =>
      below x && decide (row < min 8 (e.vl - x / 8 * 8))
  | _ => h

/-- R178, R189 to R192, R215: the values that an instruction which commits all or nothing writes. -/
def wholeValues (h : Hart) (e : QEntry) : Hart :=
  let wa := codeWidth (fwA e.fw)
  let src := fun (a : Reg) y => h.elem a.toNat wa y
  match e.instr with
  | .vred m _ o d a =>
    let r := match (upSweep h e m o a).getLast? with
      | some (some r :: _) => r
      | _ => identity h e o.toNat
    account (h.putElem d.toNat (codeWidth (fwD e.fw)) 0 r.bits) e 0 r
  | .vscan m _ o d a =>
    let lv := upSweep h e m o a
    eachElem e h fun t x =>
      let r := (downSweep h e o lv x).getD (identity h e o.toNat)
      account (t.putElem d.toNat (codeWidth (fwD e.fw)) x r.bits) e x r
  | .vperm m _ _ a b =>
    eachElem e h fun t x => if !h.admits m x then t else
      let j := (numB h e b x).toInt
      moveElem e h t x (if 0 ≤ j ∧ j < e.vl then some (src a j.toNat) else none)
  | .vslup m _ _ a _ =>
    eachElem e h fun t x =>
      if h.admits m x && decide (e.o1.toNat ≤ x) then moveElem e h t x (some (src a (x - e.o1.toNat))) else t
  | .vsldn m _ _ a _ =>
    eachElem e h fun t x => if !h.admits m x then t else
      moveElem e h t x (if x + e.o1.toNat < e.vl then some (src a (x + e.o1.toNat)) else none)
  | .vcompress m _ _ a =>
    let l := actives h e m
    eachElem e h fun t x => moveElem e h t x ((l[x]?).map (src a))
  | .vexpand m _ _ a =>
    eachElem e h fun t x =>
      moveElem e h t x (if h.admits m x then some (src a ((List.range x).countP fun y => h.admits m y)) else none)
  | .vxpose8 _ _ d =>
    (List.range 8).foldl (init := h) fun t row =>
      eachElem e t fun t col => t.putElem (d.toNat + row) e.ewval col (transposed h e d row col)
  | .vsig m _ d a => h.setX d (crc64 (packElems wa ((actives h e m).map fun y => rawA h e a y % 2 ^ wa)))
  | .mpop m d a => h.giveX d ((actives h e m).countP fun x => h.mbit a x)
  | .mffs m d a => match (actives h e m).find? fun x => h.mbit a x with
    | some x => h.giveX d x
    | none => h.setX d (-1)
  | .mfromvl d =>
    { h with
      m := h.m.set d.toNat (BitVec.ofNat 16384 (2 ^ e.vl - 1))
      sram := h.sram.filter fun p => match p.1 with
        | .mask k _ => k != d.toNat
        | _ => true }
  | .mmvx d a _ =>
    h.giveX d (if 64 * e.o1.toNat < e.vl
      then (h.m[a.toNat].toNat % 2 ^ e.vl) / 2 ^ (64 * e.o1.toNat) % 2 ^ 64 else 0)
  | .vmvx d a _ =>
    h.setX d (if e.o1.toNat < e.vl then (BitVec.ofNat e.ewval (h.elem a.toNat e.ewval e.o1.toNat)).signExtend 64 else 0)
  | .vmvv d _ _ =>
    if e.o2.toNat < e.vl then h.putElem d.toNat e.ewval e.o2.toNat e.o1.toNat else h
  | _ => h

/-- R178, R362: the effect of an instruction that commits all or nothing. -/
def wholeOp (h : Hart) (e : QEntry) : Hart := mendWhole h (wholeValues h e) e

end Sys2Proof.Machine
end

