-- ==== Sys2Proof/Machine/Traps.lean ====
section
/-! DEFINITION. Which trap cause a hart takes at an instruction boundary or a Spine point (R296), pre-emption (R32, R48,
R252, R308), and how a hart leaves its context. -/

namespace Sys2Proof.Machine

/-- R270: the innermost frame is at a Spine point and the Spine acts on it. -/
def Hart.atSpine (h : Hart) : Bool :=
  match h.frames.getLast? with
  | none => false
  | some f => !f.held && match f.phase with
    | .idle | .snapCopy | .restoreCopy => true
    | .inAdvance | .inAdjoint => false

/-- R275: live frames. -/
def Hart.chdepth (h : Hart) : Nat := h.frames.length

/-- R298: the record's code is named by its channel or by its cause's row. -/
def TrapInfo.namesCode (t : TrapInfo) : Bool := t.cf || [0x07, 0x08, 0x0B, 0x0F, 0x10, 0x13].contains t.cause

/-- R270, R298: a record marked with the Spine point, whose code is the depth unless something names one. -/
def TrapInfo.atSpine (t : TrapInfo) (h : Hart) : TrapInfo :=
  if h.atSpine then { t with sp := true, code := if t.namesCode then t.code else BitVec.ofNat 8 h.chdepth } else t

/-- R296 item 2: the fault of a queued instruction, the oldest in program order. -/
def Hart.queueFault (h : Hart) : Option TrapInfo :=
  let l := (h.vq ++ h.mq).filter fun e => e.fault.isSome
  match l with
  | [] => none
  | e :: r => (r.foldl (fun (a b : QEntry) => if b.seq < a.seq then b else a) e).fault

/-- R250, R251: the faults that hold a channel's copies and stream, with the privileges of the contexts that gave them. -/
def Channel.faults (x : Channel) : List (Priv × TrapInfo) :=
  x.copies.filterMap (fun y => y.fault.map (y.space.priv, ·)) ++ x.stream.toList.filterMap fun y => y.fault.map (y.space.priv, ·)

/-- R296: a cause of a context of a privilege can be taken now: one of a user context at user privilege only, one of another level
at any. -/
def Hart.canTake (h : Hart) (p : Priv) : Bool := p != .user || h.priv == .user

/-- R250, R251, R296 item 4: a copy or stream fault that the hart can take, lowest channel first. -/
def Hart.channelFault (h : Hart) : Option TrapInfo :=
  ((h.ch.toList.flatMap Channel.faults).find? fun f => h.canTake f.1).map (·.2)

/-- R359: the oldest failed remote store whose trap the hart can take. -/
def Hart.storeFault (h : Hart) : Option (Priv × TrapInfo) := h.storeFaults.find? fun f => h.canTake f.1

/-- R296 item 4: what a hart takes of a copy or stream fault and a failed remote store. -/
def Hart.copyFault (h : Hart) : Option TrapInfo :=
  match h.channelFault with
  | some t => some t
  | none => h.storeFault.map (·.2)

/-- R298: the record of a pre-emption: 0 yield window, 1 `hstop`, 2 `tyield`. -/
def preemptTrap (code : Nat) : TrapInfo := { cause := 0x10, code := BitVec.ofNat 8 code }

/-- R252: the elements of a strip that its last fully landed element group covers. -/
def Strip.whole (x : Strip) (leff : Nat) : Nat :=
  if x.landed = x.count || leff = 0 then x.landed else x.landed / leff * leff

/-- R252: the fill of a strip's slot cut back to its last whole element group, with the bytes it counts given back. -/
def cutStrip (s : State) (i : Nat) (t : Stream) (x : Strip) : State :=
  let b := BitVec.ofNat 5 (t.sb0 + x.k % t.nslots)
  let y := s.bar (coreOf i) b
  let back := (x.landed + x.above.length - x.whole (s.hart i).leff) * 2 ^ t.ew
  if back = 0 then s else s.setBar (coreOf i) b { y with count := y.count + BitVec.ofNat 32 back }

/-- R252: the fills of a channel's slots cut back. -/
def cutStream (s : State) (i c : Nat) : State :=
  let h := s.hart i
  match h.ch[c]?.bind Channel.stream with
  | none => s
  | some t =>
    let u := t.strips.foldl (fun u x => cutStrip u i t x) s
    let strips := t.strips.map fun x => { x with landed := x.whole h.leff, above := [] }
    let h := u.hart i
    u.setHart i { h with ch := match h.ch[c]? with
      | none => h.ch
      | some x => h.ch.setIfInBounds c { x with stream := some { t with strips := strips } } }

/-- R239: the fields of a copy control word. -/
def ctlLen (w : W64) : Nat := fld w 39 0
def ctlBar (w : W64) : BitVec 5 := BitVec.ofNat 5 (fld w 44 40)
def ctlSbv (w : W64) : Bool := w.getLsbD 45
def ctlUi (w : W64) : Bool := w.getLsbD 46
def ctlNostamp (w : W64) : Bool := w.getLsbD 47

/-- R252: a copy cut back to its vstart; the bytes that have landed above it, which land again on resume, go back to its barrier
(log 38, DESIGN CHOICE). -/
def cutCopy (s : State) (i : Nat) (y : Copy) : State :=
  let back := y.pieces.foldl (fun n p => n + p.2) 0
  let b := ctlBar y.ctl
  if !ctlSbv y.ctl || back = 0 then s else
  let x := s.bar (coreOf i) b
  s.setBar (coreOf i) b { x with count := x.count + BitVec.ofNat 32 back }

/-- R252: the copies of a channel cut back. -/
def cutCopies (s : State) (i c : Nat) : State :=
  match (s.hart i).ch[c]? with
  | none => s
  | some x =>
    let t := x.copies.foldl (fun t y => cutCopy t i y) s
    let h := t.hart i
    t.setHart i { h with ch := h.ch.setIfInBounds c { x with copies := x.copies.map fun y => { y with pieces := [] } } }

/-- R252: every channel of a hart stops. -/
def stopChannels (s : State) (i : Nat) : State :=
  let t := (List.range 7).foldl (fun t c => cutCopies (cutStream t i c) i c) s
  t.setHart i { t.hart i with chStopped := true }

/-- R166, R298, R306: the scalar trap point of a waiting hart: behind a `tyield` or `wfi`, else the instruction itself. -/
def Hart.waitPoint (h : Hart) : Hart :=
  match h.mode with
  | .waiting .tyield _ | .waiting .wfi _ => h.advance 4
  | _ => h

/-- R306: a `wfi`, or a `pgate` that waits like it, has completed when a queued instruction's fault is taken at its wake. -/
def Hart.wakePoint (h : Hart) : Hart :=
  match h.mode with
  | .waiting .wfi _ | .waiting (.pgate _) _ => h.advance 4
  | _ => h

/-- R281, R291: some pairs or finds of the element group in progress have been performed, and their results wait for its
commit. -/
def QEntry.gathering (e : QEntry) : Bool := !e.done.isEmpty && match e.instr with
  | .gunite .. | .gfind .. => true
  | _ => false
def Hart.midGather (h : Hart) : Bool := h.vq.any QEntry.gathering

/-- R31, R252, R304: every channel emptied; sequence numbers become 0 and streams end with their barriers released. -/
def Hart.emptyChannels (h : Hart) : Hart := { h with ch := Vector.replicate 7 {}, chStopped := false }

end Sys2Proof.Machine
end

