-- ==== Sys2Proof/Machine/Fetch.lean ====
section
/-! DEFINITION. Fetching the parcels of an instruction (R127, R339, R363) and the passing of time (log 4, DESIGN CHOICE). -/

namespace Sys2Proof.Machine

/-- What a fetch answers. -/
inductive Fetched where
  | bytes (bs : List Byte)
  | trap (t : TrapInfo)
  | wait (s : State)
deriving DecidableEq, Repr

/-- R127: one parcel, read where it lies. A parcel in a fabric window is a remote load; its failure is a fetch fault. -/
def fetchParcel (s : State) (va : W64) : Fetched :=
  let i := s.cur
  match locate s i (spaceOf s i) false .fetch va with
  | .error t => .trap t
  | .ok p =>
    match p.loc with
    | .fabric _ node a =>
      match (s.hart i).fetched.find? fun e => e.1 = va.toNat with
      | some e => .bytes (toLE 2 e.2.toNat)
      | none =>
        match (s.hart i).remote with
        | none =>
          if !slotFree s i then .wait s else
          let id := s.fab.nextId
          let t := sendRequest s i node a false false va fun id => .load id node a 2 (keyOf s i)
          .wait (t.setHart i { t.hart i with remote := some { id := id, fetch := true } })
        | some r =>
          match r.result with
          | none => .wait s
          | some (.bytes b) =>
            let h := s.hart i
            .wait (s.setHart i
              { h with remote := none, fetched := kput h.fetched va.toNat (BitVec.ofNat 16 (ofLE (b.take 2))) })
          | some (.poisoned k) => .trap { remoteTrap va (.poisoned k) with hard := true }
          | some _ => .trap (cause 0x05 va)
    | l =>
      match poisonAt s (viewOf (vectorView i) p) l 2 with
      | some e => .trap { poisonTrap va e with hard := true }
      | none => .bytes (bytesAt s (viewOf (vectorView i) p) l 2)

/-- R127: the parcels of an instruction in ascending order; the first that cannot be fetched decides. -/
def fetchParcels (s : State) (va : W64) : Nat → List Byte → Fetched
  | 0, bs => .bytes bs
  | n + 1, bs =>
    match fetchParcel s va with
    | .bytes b => fetchParcels s (va + 2) n (bs ++ b)
    | o => o

/-- R127: the bytes of the instruction at the moving hart's pc; bit 0 of an instruction address is clear. -/
def fetch (s : State) : Fetched :=
  let va := s.me.pc &&& ~~~1
  match fetchParcel s va with
  | .bytes b => fetchParcels s (va + 2) (parcelLength (BitVec.ofNat 16 (ofLE b)) / 2 - 1) b
  | o => o

/-- R80, R81, R93, R341: the place of a parcel made ready for a fetch, which the die cache serves (log 54, DEDUCED). -/
def readyParcel (s : State) (va : W64) : State :=
  match locate s s.cur (spaceOf s s.cur) false .fetch va with
  | .error _ => s
  | .ok p => ready s s.cur (vectorView s.cur) p

/-- The lines of the instruction at the moving hart's pc, at most two, made ready for its fetch. -/
def fetchLines (s : State) : State :=
  let va := s.me.pc &&& ~~~1
  let t := readyParcel s va
  match fetchParcel t va with
  | .bytes b => readyParcel t (va + BitVec.ofNat 64 (parcelLength (BitVec.ofNat 16 (ofLE b)) - 2))
  | _ => t

/-- The moving hart without the parcels of a remote fetch. -/
def endFetch (s : State) : State :=
  if s.me.fetched.isEmpty then s else s.setMe { s.me with fetched := [] }

/-- The moving hart after an instruction before which it was `h`: parcels fetched through a fabric window stay while the instruction waits
for a remote access of its own (R127), and the restart point of a rollback is behind it once its instruction has completed
without another one (R49). -/
def endInstr (h : Hart) (t : State) : State :=
  let t := if t.me.remote.isSome then t else endFetch t
  if t.me.replay && t.me.pc != h.pc && t.me.rollbacks == h.rollbacks then t.setMe { t.me with replay := false } else t

/-- A state in which an instruction of the moving hart of `s` ends. -/
def afterInstr (s : State) : Out → Out
  | .next t => .next (endInstr s.me t)
  | o => o

/-! ## Time (R161, R313, R328, R387) -/

/-- R313: a saturating lane-cycle count. -/
def addLanes (w : W64) (n : Nat) : W64 := BitVec.ofNat 64 (min (w.toNat + n) (2 ^ 48 - 1))

/-- R313: the lane-cycles of `n` cycles, which a gated core does not count (R328). -/
def Hart.age (h : Hart) (n : W64) : Hart :=
  { h with sw := { h.sw with sdefct := addLanes h.sw.sdefct (8 * popc8 h.slices * n.toNat) } }

/-- R387: the energy that hart `i` is charged for a step: its own activity, and its slices' part of the core's static energy. -/
def energyOf (s : State) (i : Nat) : Nat :=
  let held := fun j => popc8 (s.hart j).slices
  let all := (hartsOf (coreOf i)).foldl (fun n j => n + held j) 0
  (Config.energy s.ticks i s.power.calibration).toNat
    + (Config.staticEnergy s.ticks (coreOf i) s.power.calibration).toNat * held i / all

/-- R387: energy is counted while the hart is Running or Waiting at user privilege; the count saturates. -/
def Hart.charged (h : Hart) (e : Nat) : Hart :=
  let counts := h.priv == .user && match h.mode with
    | .running | .waiting .. => true
    | _ => false
  if counts then { h with uw := { h.uw with energy := BitVec.ofNat 64 (min (h.uw.energy.toNat + e) (2 ^ 64 - 1)) } } else h

def Core.gatedNow (c : Core) : Bool := match c.gate with
  | .gated | .waking => true
  | _ => false

/-- One step's time passes: an open number of cycles, which a gated core does not count (R328), and the energy of each context
(R387). -/
def tick (s : State) : State :=
  let n := Config.cycles s.ticks
  { s with
    ticks := s.ticks + 1
    cycle := s.cycle + n
    harts := s.harts.map fun p =>
      (p.1, (if (s.core (coreOf p.1)).gatedNow then p.2 else p.2.age n).charged (energyOf s p.1))
    cores := s.cores.map fun p => (p.1, if p.2.gatedNow then { p.2 with lost := p.2.lost + n } else p.2) }

end Sys2Proof.Machine
end

