-- ==== Sys2Proof/Machine/Scalar.lean ====
section
/-! DEFINITION. The scalar integer instructions, branches and jumps (R130, R148 to R150, R154) and the compressed forms of
them (R144). -/

namespace Sys2Proof.Machine

/-! ## Shared arithmetic -/

/-- R148: bits [63:6] of a shift count are ignored. -/
def shamt (b : W64) : Nat := b.toNat % 64

/-- R148: leading zero bits. -/
def clz64 (a : W64) : Nat := (a.clz).toNat
/-- R148: trailing zero bits. -/
def ctz64 (a : W64) : Nat := (a.ctz).toNat
/-- R148: set bits. -/
def popc64 (a : W64) : Nat := (List.range 64).countP fun i => a.getLsbD i

/-- R150: bits [127:64] of a product of integers. -/
def highWord (p : Int) : W64 := BitVec.ofInt 64 (p / 2 ^ 64)

/-- R150: division, truncated toward zero; by zero it gives −1. -/
def divSigned (a b : W64) : W64 := if b = 0 then -1 else a.sdiv b
/-- R150: unsigned division; by zero it gives all ones. -/
def divUnsigned (a b : W64) : W64 := if b = 0 then -1 else a / b
/-- R150: the remainder with the sign of a; by zero it gives a. -/
def remSigned (a b : W64) : W64 := if b = 0 then a else a.srem b
/-- R150: the unsigned remainder; by zero it gives a. -/
def remUnsigned (a b : W64) : W64 := if b = 0 then a else a % b

/-- R154: a branch of the moving hart: to the target of R130 when the condition holds, else past the instruction. -/
def branch (s : State) (taken : Bool) (off : W64) (n : Nat := 4) : State :=
  if taken then s.setMe { s.me with pc := s.me.pc + off } else s.pass n

/-- R130: a signed 15-bit distance in parcels, in bytes. -/
def off15 (o : BitVec 15) : W64 := sext o <<< 1

/-! ## Major 0x01: ALU (R148) -/

def execAdd (d a b : Reg) (s : State) : Out := .next (s.write d (s.rx a + s.rx b))
def execSub (d a b : Reg) (s : State) : Out := .next (s.write d (s.rx a - s.rx b))
def execAnd (d a b : Reg) (s : State) : Out := .next (s.write d (s.rx a &&& s.rx b))
def execOr (d a b : Reg) (s : State) : Out := .next (s.write d (s.rx a ||| s.rx b))
def execXor (d a b : Reg) (s : State) : Out := .next (s.write d (s.rx a ^^^ s.rx b))
def execAndn (d a b : Reg) (s : State) : Out := .next (s.write d (s.rx a &&& ~~~s.rx b))
def execSll (d a b : Reg) (s : State) : Out := .next (s.write d (s.rx a <<< shamt (s.rx b)))
def execSrl (d a b : Reg) (s : State) : Out := .next (s.write d (s.rx a >>> shamt (s.rx b)))
def execSra (d a b : Reg) (s : State) : Out := .next (s.write d ((s.rx a).sshiftRight (shamt (s.rx b))))
def execSlt (d a b : Reg) (s : State) : Out := .next (s.write d (bit64 ((s.rx a).slt (s.rx b))))
def execSltu (d a b : Reg) (s : State) : Out := .next (s.write d (bit64 ((s.rx a).ult (s.rx b))))
def execMin (d a b : Reg) (s : State) : Out :=
  .next (s.write d (if (s.rx b).slt (s.rx a) then s.rx b else s.rx a))
def execMax (d a b : Reg) (s : State) : Out :=
  .next (s.write d (if (s.rx a).slt (s.rx b) then s.rx b else s.rx a))
def execMinu (d a b : Reg) (s : State) : Out :=
  .next (s.write d (if (s.rx b).ult (s.rx a) then s.rx b else s.rx a))
def execMaxu (d a b : Reg) (s : State) : Out :=
  .next (s.write d (if (s.rx a).ult (s.rx b) then s.rx b else s.rx a))
def execClz (d a : Reg) (s : State) : Out := .next (s.write d (BitVec.ofNat 64 (clz64 (s.rx a))))
def execCtz (d a : Reg) (s : State) : Out := .next (s.write d (BitVec.ofNat 64 (ctz64 (s.rx a))))
def execPopc (d a : Reg) (s : State) : Out := .next (s.write d (BitVec.ofNat 64 (popc64 (s.rx a))))

/-! ## Majors 0x02 to 0x09: immediates (R130, R149) -/

def execAddi (d a : Reg) (i : BitVec 15) (s : State) : Out := .next (s.write d (s.rx a + sext i))
def execAndi (d a : Reg) (i : BitVec 15) (s : State) : Out := .next (s.write d (s.rx a &&& sext i))
def execOri (d a : Reg) (i : BitVec 15) (s : State) : Out := .next (s.write d (s.rx a ||| sext i))
def execXori (d a : Reg) (i : BitVec 15) (s : State) : Out := .next (s.write d (s.rx a ^^^ sext i))
def execSlli (d a : Reg) (h : BitVec 6) (s : State) : Out := .next (s.write d (s.rx a <<< h.toNat))
def execSrli (d a : Reg) (h : BitVec 6) (s : State) : Out := .next (s.write d (s.rx a >>> h.toNat))
def execSrai (d a : Reg) (h : BitVec 6) (s : State) : Out := .next (s.write d ((s.rx a).sshiftRight h.toNat))
def execSlti (d a : Reg) (i : BitVec 14) (s : State) : Out := .next (s.write d (bit64 ((s.rx a).slt (sext i))))
def execSltiu (d a : Reg) (i : BitVec 14) (s : State) : Out := .next (s.write d (bit64 ((s.rx a).ult (sext i))))
/-- R130: the immediate placed at bits [31:12] and sign-extended. -/
def up20 (i : BitVec 20) : W64 := sext i <<< 12
def execLim (d : Reg) (i : BitVec 20) (s : State) : Out := .next (s.write d (up20 i))
def execAdpc (d : Reg) (i : BitVec 20) (s : State) : Out := .next (s.write d (s.me.pc + up20 i))

/-! ## Major 0x0D: MULDIV (R150) -/

def execMul (d a b : Reg) (s : State) : Out := .next (s.write d (s.rx a * s.rx b))
def execMulh (d a b : Reg) (s : State) : Out := .next (s.write d (highWord ((s.rx a).toInt * (s.rx b).toInt)))
def execMulhu (d a b : Reg) (s : State) : Out := .next (s.write d (highWord ((s.rx a).toNat * (s.rx b).toNat)))
def execMulhsu (d a b : Reg) (s : State) : Out := .next (s.write d (highWord ((s.rx a).toInt * (s.rx b).toNat)))
def execDiv (d a b : Reg) (s : State) : Out := .next (s.write d (divSigned (s.rx a) (s.rx b)))
def execDivu (d a b : Reg) (s : State) : Out := .next (s.write d (divUnsigned (s.rx a) (s.rx b)))
def execRem (d a b : Reg) (s : State) : Out := .next (s.write d (remSigned (s.rx a) (s.rx b)))
def execRemu (d a b : Reg) (s : State) : Out := .next (s.write d (remUnsigned (s.rx a) (s.rx b)))

/-! ## Majors 0x0E to 0x15: branches and jumps (R130, R154) -/

def execBeq (a b : Reg) (o : BitVec 15) (s : State) : Out := .next (branch s (s.rx a == s.rx b) (off15 o))
def execBne (a b : Reg) (o : BitVec 15) (s : State) : Out := .next (branch s (s.rx a != s.rx b) (off15 o))
def execBlt (a b : Reg) (o : BitVec 15) (s : State) : Out := .next (branch s ((s.rx a).slt (s.rx b)) (off15 o))
def execBge (a b : Reg) (o : BitVec 15) (s : State) : Out := .next (branch s (!(s.rx a).slt (s.rx b)) (off15 o))
def execBltu (a b : Reg) (o : BitVec 15) (s : State) : Out := .next (branch s ((s.rx a).ult (s.rx b)) (off15 o))
def execBgeu (a b : Reg) (o : BitVec 15) (s : State) : Out := .next (branch s (!(s.rx a).ult (s.rx b)) (off15 o))

/-- R154: the link register written and the pc set to the target, which is computed first. -/
def jump (s : State) (d : Reg) (target : W64) : State :=
  s.setMe { s.me.setX d (s.me.pc + 4) with pc := target }

def execJal (d : Reg) (i : BitVec 20) (s : State) : Out := .next (jump s d (s.me.pc + (sext i <<< 1)))
/-- R130: bit 0 of the target of `jalr` is cleared. -/
def execJalr (d a : Reg) (i : BitVec 15) (s : State) : Out := .next (jump s d ((s.rx a + sext i) &&& ~~~1))

/-! ## Compressed arithmetic and control flow (R144) -/

/-- R144: a 3-bit register field names x8 to x15. -/
def creg (r : BitVec 3) : Reg := BitVec.ofNat 5 (8 + r.toNat)

def execCNop (s : State) : Out := .next (s.pass 2)
def execCAddi (i : BitVec 7) (d : BitVec 3) (s : State) : Out := .next (s.write (creg d) (s.rx (creg d) + sext i) 2)
def execCLi (i : BitVec 7) (d : BitVec 3) (s : State) : Out := .next (s.write (creg d) (sext i) 2)
def execCMv (a d : BitVec 3) (s : State) : Out := .next (s.write (creg d) (s.rx (creg a)) 2)
def execCAdd (b d : BitVec 3) (s : State) : Out := .next (s.write (creg d) (s.rx (creg d) + s.rx (creg b)) 2)
def execCSub (b d : BitVec 3) (s : State) : Out := .next (s.write (creg d) (s.rx (creg d) - s.rx (creg b)) 2)
def execCBeqz (o : BitVec 7) (a : BitVec 3) (s : State) : Out :=
  .next (branch s (s.rx (creg a) == 0) (sext o <<< 1) 2)
def execCBnez (o : BitVec 7) (a : BitVec 3) (s : State) : Out :=
  .next (branch s (s.rx (creg a) != 0) (sext o <<< 1) 2)
def execCJ (o : BitVec 10) (s : State) : Out := .next (branch s true (sext o <<< 1) 2)
def execCJr (a : Reg) (s : State) : Out := .next (s.setMe { s.me with pc := s.rx a &&& ~~~1 })

end Sys2Proof.Machine
end

