-- ==== Sys2Proof/Machine/ScalarMem.lean ====
section
/-! DEFINITION. Scalar loads, stores and atomics, the SYNC instructions and remote atomics (R92, R95, R151, R155 to R158,
R217, R218). -/

namespace Sys2Proof.Machine

/-! ## Loads and stores (R151) -/

/-- R135, R151: `n` bytes extended to a register. -/
def extend (signed : Bool) (n v : Nat) : W64 :=
  if signed then (BitVec.ofNat (8 * n) v).signExtend 64 else BitVec.ofNat 64 v

/-- R76, R77, R46: the checks of a scalar access before it is translated. -/
def scalarCheck (s : State) (va : W64) (n : Nat) : Option TrapInfo :=
  if va.toNat % n ≠ 0 then some (cause 0x02 va)
  else if touchesBuffer s.me.guarded s.me s.cur va n then some (cause 0x06 va) else none

/-- R341: a scalar access of the moving hart at a place waits for the hart's earlier accesses to device-ordered pages: its posted
stores, and the ordered vector accesses that are queued (log 75, DEDUCED). -/
def devWaits (s : State) (p : Place) : Bool := p.dev && (devStoresOut s s.cur || s.me.vq.any fun e => isOrdered e.instr)

/-- R151, R156: a scalar load of `n` bytes, as an acquire when a scope is given, in an instruction of `len` bytes. -/
def load (s : State) (d : Reg) (va : W64) (n : Nat) (signed : Bool) (acq : Nat := 0) (len : Nat := 4) : Out :=
  match scalarCheck s va n with
  | some t => s.trapMe t
  | none =>
    if rangeBusy s.me va n || (acq != 0 && addPending s.me) then .next s else
    match locate s s.cur (spaceOf s s.cur) false .load va with
    | .error t => s.trapMe t
    | .ok p =>
      if devWaits s p then .next s else
      match p.loc with
      | .fabric .. => remoteLoad s va p.loc n fun bs s =>
          .next ((acquire s s.cur acq).write d (extend signed n (ofLE bs)) len)
      | _ =>
        let t := acquire s s.cur acq
        match loadPoison t s.cur (scalarView s.cur) p n with
        | some e => s.trapMe (poisonTrap va e)
        | none =>
          let r := loadAt t s.cur (scalarView s.cur) p n
          .next (r.1.write d (extend signed n (ofLE r.2)) len)

/-- R47, R48: the bytes that a hart's strip would hold with the stores that are queued. -/
def stripBytes (h : Hart) : Nat := heldBytes h + (h.vq ++ h.mq).foldl (fun n e => n + e.storeBytes h) 0

/-- R48: a store of `n` more bytes would overfill the buffer. -/
def overfills (h : Hart) (n : Nat) : Bool := h.guarded && decide (bufferBytes < stripBytes h + n)

/-- R48: a store of `n` more bytes: when it would overfill the buffer the strip is committed first. -/
def withRoom (i : Instr) (s : State) (n : Nat) (k : State → Out) : Out :=
  if overfills s.me n || s.me.committing then afterCommit i s k else k s

/-- R128, R209: an instruction that commits the strip first, when `c` holds, meets an open queue binding before any check of
its operands. -/
def bindingFirst (i : Instr) (s : State) (c : Bool) (k : Out) : Out := if c && s.me.openBinding then s.illegal i else k

/-- R151, R156: a scalar store of `n` bytes by instruction `i` of `len` bytes, as a release when a scope is given. -/
def store (i : Instr) (s : State) (va v : W64) (n : Nat) (rel : Option Nat := none) (len : Nat := 4) : Out :=
  bindingFirst i s (overfills s.me n) <|
  match scalarCheck s va n with
  | some t => s.trapMe t
  | none =>
    if rangeBusy s.me va n then .next s else
    match locate s s.cur (spaceOf s s.cur) false .store va with
    | .error t => s.trapMe t
    | .ok p =>
      if devWaits s p then .next s else
      withRoom i s n fun s =>
        let sc := rel.getD 0
        if rel.isSome && !s.me.guarded && !releaseReady s s.cur sc then .next s
        else if !s.me.guarded && !portReady s s.cur p then .next s else
        let s1 := if s.me.guarded then s else release s s.cur sc
        let p' := { p with dev := p.dev || 3 ≤ sc }
        .next ((storeAt s1.me.guarded s1 s1.cur (scalarView s.cur) p' va (toLE n v.toNat) (rel.getD (storeScope p.loc))).pass len)

/-- R130: the address of a scalar access. -/
def addr12 (s : State) (a : Reg) (i : BitVec 12) : W64 := s.rx a + sext i

def execLdS8 (d a : Reg) (i : BitVec 12) (s : State) : Out := load s d (addr12 s a i) 1 true
def execLdZ8 (d a : Reg) (i : BitVec 12) (s : State) : Out := load s d (addr12 s a i) 1 false
def execLdS16 (d a : Reg) (i : BitVec 12) (s : State) : Out := load s d (addr12 s a i) 2 true
def execLdZ16 (d a : Reg) (i : BitVec 12) (s : State) : Out := load s d (addr12 s a i) 2 false
def execLdS32 (d a : Reg) (i : BitVec 12) (s : State) : Out := load s d (addr12 s a i) 4 true
def execLdZ32 (d a : Reg) (i : BitVec 12) (s : State) : Out := load s d (addr12 s a i) 4 false
def execLd64 (d a : Reg) (i : BitVec 12) (s : State) : Out := load s d (addr12 s a i) 8 false
def execSt8 (b a : Reg) (i : BitVec 12) (s : State) : Out := store (.st8 b a i) s (addr12 s a i) (s.rx b) 1
def execSt16 (b a : Reg) (i : BitVec 12) (s : State) : Out := store (.st16 b a i) s (addr12 s a i) (s.rx b) 2
def execSt32 (b a : Reg) (i : BitVec 12) (s : State) : Out := store (.st32 b a i) s (addr12 s a i) (s.rx b) 4
def execSt64 (b a : Reg) (i : BitVec 12) (s : State) : Out := store (.st64 b a i) s (addr12 s a i) (s.rx b) 8

/-- R144: the offset of a compressed access. -/
def addrC (s : State) (a : BitVec 3) (o : BitVec 4) : W64 := s.rx (creg a) + BitVec.ofNat 64 (8 * o.toNat)
def execCLd (o : BitVec 4) (a d : BitVec 3) (s : State) : Out := load s (creg d) (addrC s a o) 8 false 0 2
def execCSt (o : BitVec 4) (a b : BitVec 3) (s : State) : Out :=
  store (.cSt o a b) s (addrC s a o) (s.rx (creg b)) 8 none 2

/-! ## Acquire, release and fence (R92, R93, R156) -/

/-- R135, R138: the width in bytes and the sign extension of a load's width code. -/
def loadWidth (w : BitVec 3) : Nat × Bool :=
  (if w.toNat < 2 then 1 else if w.toNat < 4 then 2 else if w.toNat < 6 then 4 else 8, w.toNat < 6 && !w.getLsbD 0)

def execLdacq (sc w : BitVec 3) (d a : Reg) (s : State) : Out :=
  load s d (s.rx a) (loadWidth w).1 (loadWidth w).2 sc.toNat

def execStrel (sc : BitVec 3) (w : BitVec 2) (a b : Reg) (s : State) : Out :=
  store (.strel sc w a b) s (s.rx a) (s.rx b) (memWidth w) (some sc.toNat)

/-- R92: a fence with an empty set orders nothing; else it waits for the earlier accesses, writes back as a release when
its predecessor set holds W, and steps the generation as an acquire when its successor set holds R. In an open guarded strip
the stores that the buffer holds stay there: R48 names no fence among the instructions that commit (log 66, DEDUCED). -/
def execFence (sc : BitVec 3) (succ pred : BitVec 2) (s : State) : Out :=
  if pred = 0 || succ = 0 then .next s.pass
  else if memPending s.me || (pred.getLsbD 0 && !releaseReady s s.cur sc.toNat) then .next s
  else
    let s1 := if pred.getLsbD 0 then release s s.cur sc.toNat else s
    let s2 := if succ.getLsbD 1 then acquire s1 s1.cur sc.toNat else s1
    .next s2.pass

/-! ## Watches (R157, R158) -/

def execMwatch (a b : Reg) (s : State) : Out :=
  let va := s.rx a
  match scalarCheck s va 8 with
  | some t => s.trapMe t
  | none =>
    if rangeBusy s.me va 8 then .next s else
    match locate s s.cur (spaceOf s s.cur) false .load va with
    | .error t => s.trapMe t
    | .ok p =>
      if devWaits s p then .next s else
      match p.loc with
      | .fabric .. => s.trapMe (cause 0x06 va)
      | _ =>
        match loadPoison s s.cur (scalarView s.cur) p 8 with
        | some e =>
          (s.setMe { s.me with watch := { s.me.watch with armed := false } }).trapMe { poisonTrap va e with hard := true }
        | none =>
          let r := loadAt s s.cur (scalarView s.cur) p 8
          let w : Watch :=
            { a := va, c := s.rx b, armed := true, event := BitVec.ofNat 64 (ofLE r.2) != s.rx b, loc := some p.loc }
          .next ((r.1.setMe { r.1.me with watch := w }).pass)

/-- R23, R90, R105: the read of an `mwait` waits while a queued instruction holds an overlapping range or makes progress adds. -/
def watchBusy (h : Hart) : Bool := rangeBusy h h.watch.a 8 || addPending h

/-- R158: an `mwait` of the moving hart whose event bit is set: it reads the word at A as an acquire and completes. -/
def mwaitDone (s : State) (d : Reg) (sc : BitVec 3) : Out :=
  let va := s.me.watch.a
  match locate s s.cur (spaceOf s s.cur) false .load va with
  | .error t => s.trapMe t
  | .ok p =>
    if devWaits s p then .next s else
    match p.loc with
    | .fabric .. => s.trapMe (cause 0x06 va)
    | _ =>
      let t := acquire s s.cur sc.toNat
      match loadPoison t s.cur (scalarView s.cur) p 8 with
      | some e => s.trapMe (poisonTrap va e)
      | none =>
        let r := loadAt t s.cur (scalarView s.cur) p 8
        let h := r.1.me
        .next (r.1.setMe
          { h.finish d (BitVec.ofNat 64 (ofLE r.2)) with watch := { h.watch with armed := false } })

/-- R21: the moving hart enters Waiting at its instruction. A handler enters it from `mwait`, `sbwait` and `hbar` as from `wfi`
and `pgate`: the row Trapped names the last two only, the row Waiting speaks of every wait begun in a handler (log 67,
DEDUCED). -/
def State.wait (s : State) (w : Wait) : State := s.setMe { s.me with mode := .waiting w (s.me.mode == .trapped) }

def execMwait (sc : BitVec 3) (d : Reg) (s : State) : Out :=
  if !s.me.watch.armed then .next (s.write d 0)
  else if s.me.watch.event then
    if watchBusy s.me then .next s else mwaitDone s d sc
  else .next (s.wait (.mwait d sc))

/-! ## Scalar atomics (R95, R155) -/

/-- R155, R218: the new value of an atomic of `n` bytes. -/
def amoNew (op : AmoOp) (n old b cmp : Nat) : Nat :=
  let m := 2 ^ (8 * n)
  let x := BitVec.ofNat (8 * n) old
  let y := BitVec.ofNat (8 * n) b
  match op with
  | .swap => b % m
  | .add => (old + b) % m
  | .and => (old &&& b) % m
  | .or => (old ||| b) % m
  | .xor => (old ^^^ b) % m
  | .min => if y.slt x then b % m else old
  | .max => if x.slt y then b % m else old
  | .minu => if y.ult x then b % m else old
  | .maxu => if x.ult y then b % m else old
  | .cas => if old = cmp % m then b % m else old

/-- R95: an atomic of hart `i` at a place: in the die cache for scopes up to die, at the home segment above, at the bank
for a scratchpad. -/
def atomicAt (s : State) (i : Nat) (p : Place) (scope n : Nat) (f : Nat → Nat) : State × Nat :=
  if p.dev || 3 ≤ scope then
    let t := toHome s (dieOf i) p.loc
    let old := ofLE (homeBytes t p.loc n)
    (writeHome t p.loc (toLE n (f old)), old)
  else
    let t := touchAt s (vectorView i) p.loc
    let old := ofLE (bytesAt t (vectorView i) p.loc n)
    (writeAt t (vectorView i) p.loc (toLE n (f old)), old)

/-- R95, R363: the poison that an atomic at a place consumes. -/
def atomicPoison (s : State) (i : Nat) (p : Place) (scope n : Nat) : Option ErrEntry :=
  if p.dev || 3 ≤ scope then poisonAt (toHome s (dieOf i) p.loc) .home p.loc n
  else poisonAt (touchAt s (vectorView i) p.loc) (vectorView i) p.loc n

/-- R155: the atomic `i` of the moving hart. -/
def amo (i : Instr) (op : AmoOp) (sc : BitVec 3) (rel acq wide : Bool) (d a b : Reg) (s : State) : Out :=
  let n := if wide then 8 else 4
  let va := s.rx a
  bindingFirst i s s.me.guarded <|
  match scalarCheck s va n with
  | some t => s.trapMe t
  | none =>
    if rangeBusy s.me va n || (acq && addPending s.me) then .next s else
    match locate s s.cur (spaceOf s s.cur) false .rmw va with
    | .error t => s.trapMe t
    | .ok p =>
      if devWaits s p then .next s else
      match p.loc with
      | .fabric .. => s.trapMe (cause 0x06 va)
      | _ => afterCommit i s fun s =>
        if rel && !releaseReady s s.cur sc.toNat then .next s else
        let s1 := if rel then release s s.cur sc.toNat else s
        let s2 := if acq then acquire s1 s1.cur sc.toNat else s1
        match atomicPoison s2 s.cur p sc.toNat n with
        | some e => s.trapMe (poisonTrap va e)
        | none =>
          let r := atomicAt s2 s2.cur p sc.toNat n
            fun old => amoNew op n old (s.rx b).toNat (s.rx d).toNat
          .next (r.1.write d (extend true n r.2))

def execAmoswap (sc : BitVec 3) (rel acq wide : Bool) (d a b : Reg) (s : State) : Out :=
  amo (.amoswap sc rel acq wide d a b) .swap sc rel acq wide d a b s
def execAmoadd (sc : BitVec 3) (rel acq wide : Bool) (d a b : Reg) (s : State) : Out :=
  amo (.amoadd sc rel acq wide d a b) .add sc rel acq wide d a b s
def execAmoand (sc : BitVec 3) (rel acq wide : Bool) (d a b : Reg) (s : State) : Out :=
  amo (.amoand sc rel acq wide d a b) .and sc rel acq wide d a b s
def execAmoor (sc : BitVec 3) (rel acq wide : Bool) (d a b : Reg) (s : State) : Out :=
  amo (.amoor sc rel acq wide d a b) .or sc rel acq wide d a b s
def execAmoxor (sc : BitVec 3) (rel acq wide : Bool) (d a b : Reg) (s : State) : Out :=
  amo (.amoxor sc rel acq wide d a b) .xor sc rel acq wide d a b s
def execAmomin (sc : BitVec 3) (rel acq wide : Bool) (d a b : Reg) (s : State) : Out :=
  amo (.amomin sc rel acq wide d a b) .min sc rel acq wide d a b s
def execAmomax (sc : BitVec 3) (rel acq wide : Bool) (d a b : Reg) (s : State) : Out :=
  amo (.amomax sc rel acq wide d a b) .max sc rel acq wide d a b s
def execAmominu (sc : BitVec 3) (rel acq wide : Bool) (d a b : Reg) (s : State) : Out :=
  amo (.amominu sc rel acq wide d a b) .minu sc rel acq wide d a b s
def execAmomaxu (sc : BitVec 3) (rel acq wide : Bool) (d a b : Reg) (s : State) : Out :=
  amo (.amomaxu sc rel acq wide d a b) .maxu sc rel acq wide d a b s
def execAmocas (sc : BitVec 3) (rel acq wide : Bool) (d a b : Reg) (s : State) : Out :=
  amo (.amocas sc rel acq wide d a b) .cas sc rel acq wide d a b s

/-! ## Remote atomics (R217, R218) -/

/-- R217: a status word. -/
def ramoStatus (fail state : Nat) : W64 := at64 8 fail ||| at64 0 state

/-- R218: the sequence of the next remote atomic, one higher modulo 2^32. -/
def nextSeq32 (w : W64) : W64 := (w &&& ~~~(0xFFFFFFFF : W64)) ||| BitVec.ofNat 64 ((w.toNat + 1) % 2 ^ 32)

/-- R218: how an outcome completes the remote atomic of the moving hart; `q` is its request. -/
def ramoOutcome (s : State) (d : Reg) (n : Nat) (q : HeldRamo) (r : RemoteResult) : Out :=
  let h := { s.me with remote := none }
  let settled := fun (fail st : Nat) => { h with
    uw := { h.uw with ramostat := ramoStatus fail st, ramotag := nextSeq32 h.uw.ramotag }
    ramo := { h.ramo with held := false } }
  match r with
  | .value old => .next ((s.setMe (settled 0 0)).write d (extend true n (old.toNat % 2 ^ (8 * n))))
  | .expired => .next ((s.setMe (settled 0 2)).pass)
  | .busy => .next ((s.setMe (settled 5 3)).pass)
  | .keyRevoked =>
    (s.setMe { h with uw := { h.uw with ramostat := ramoStatus 4 (fld h.uw.ramostat 2 0) } }).trapMe (remoteTrap q.addr r)
  | .named f =>
    let t := s.setMe { h with
      uw := { h.uw with ramostat := ramoStatus f.toNat 1 }, ramo := { q with held := true } }
    .next ((uiEvent t t.cur t.me.tag 5 0 (h.uw.ramotag &&& 0xFFFFFFFFFFFF)).pass)
  | _ => (s.setMe h).trapMe (remoteTrap q.addr r)

/-- R218: the remote atomic `i` of the moving hart. -/
def ramo (i : Instr) (op : AmoOp) (wide : Bool) (d a b : Reg) (s : State) : Out :=
  let n := if wide then 8 else 4
  let va := s.rx a
  bindingFirst i s s.me.guarded <|
  if va.toNat % n ≠ 0 then s.trapMe (cause 0x02 va)
  else if rangeBusy s.me va n then .next s else
  match locate s s.cur (spaceOf s s.cur) false .rmw va with
  | .error t => s.trapMe t
  | .ok p =>
    if devWaits s p then .next s else
    match p.loc with
    | .fabric _ node addr =>
      let q : HeldRamo :=
        { addr := va, b := s.rx b, d := if op = .cas then s.rx d else 0, op := op, wide := wide, held := false }
      match s.me.remote with
      | some r =>
        match r.result with
        | none => .next s
        | some x => ramoOutcome s d n q x
      | none => afterCommit i s fun s =>
          let retry := fld s.me.uw.ramostat 2 0 == 1
          if retry && { s.me.ramo with held := false } != q then s.trapMe (cause 0x0B va)
          else if !slotFree s s.cur then .next s else
          let id := s.fab.nextId
          let t := sendRequest s s.cur node addr false false va fun id =>
            .atomic id node addr (keyOf s s.cur) s.cur s.me.uw.ramotag retry op wide (s.rx b) (s.rx d)
          .next (t.setMe { t.me with remote := some { id := id } })
    | _ => s.trapMe (cause 0x06 va)

def execRamoadd (wide : Bool) (d a b : Reg) (s : State) : Out := ramo (.ramoadd wide d a b) .add wide d a b s
def execRamoswap (wide : Bool) (d a b : Reg) (s : State) : Out := ramo (.ramoswap wide d a b) .swap wide d a b s
def execRamocas (wide : Bool) (d a b : Reg) (s : State) : Out := ramo (.ramocas wide d a b) .cas wide d a b s
def execRamoor (wide : Bool) (d a b : Reg) (s : State) : Out := ramo (.ramoor wide d a b) .or wide d a b s
def execRamomin (wide : Bool) (d a b : Reg) (s : State) : Out := ramo (.ramomin wide d a b) .min wide d a b s
def execRamomax (wide : Bool) (d a b : Reg) (s : State) : Out := ramo (.ramomax wide d a b) .max wide d a b s

end Sys2Proof.Machine
end

