-- ==== Sys2Proof/Machine/VectorMem.lean ====
section
/-! DEFINITION. The memory accesses of vector instructions, element by element and chunk by chunk (R87, R96, R101, R197 to
R214), and `cbload` (R196). -/

namespace Sys2Proof.Machine

/-- What handling one element can answer: a new state, or why there is none. -/
abbrev ElemOut := Except Halt State

/-- R37, R38: elements handled in ascending order up to the first fault, which is returned with its element; an error where an element
still needs the fabric. -/
def runElems (f : State → Nat → ElemOut) : State → List Nat → Except Halt (State × Option (Nat × TrapInfo))
  | s, [] => .ok (s, none)
  | s, x :: r =>
    match f s x with
    | .ok t => runElems f t r
    | .error (.trap t) => .ok (s, some (x, t))
    | .error (.after u t) => .ok (u, some (x, t))
    | .error h => .error h

/-- R198: the address of element `x`. -/
def elemAddr (h : Hart) (e : QEntry) (n x : Nat) : W64 :=
  match e.instr with
  | .vlds .. | .vsts .. => e.o1 + BitVec.ofNat 64 x * e.o2
  | i => match indexSrc i with
    | some b => indexedAddr h e b x
    | none => e.o1 + BitVec.ofNat 64 (x * n)

/-- R199, R46: checks 1 to 4 of an element's access. -/
def elemCheck (s : State) (i : Nat) (e : QEntry) (n x : Nat) (acc : Acc) : Except TrapInfo Place :=
  let va := elemAddr (s.hart i) e n x
  if va.toNat % n ≠ 0 then .error (cause 0x02 va)
  else if touchesBuffer (e.guarded (s.hart i)) (s.hart i) i va n then .error (cause 0x06 va)
  else match locate s i e.space false acc va with
    | .error t => .error t
    | .ok p => if p.dev && !isOrdered e.instr then .error (cause 0x06 va) else .ok p

/-- R363, R365: the trap of a poisoned register word that hart `i` reads. -/
def regTrap (i kind : Nat) : TrapInfo :=
  { cause := 0x09, err := some ⟨kind, 0, 3, coreOf i, 0xFFF, 0, 0⟩ }

/-- R362: the mark of a word of a hart's storage. -/
def Hart.mark (h : Hart) (m : Sram) : Option Nat := (h.sram.find? fun p => p.1 == m).map (·.2)

/-- R362: the marks of some words cleared. -/
def Hart.unmark (h : Hart) (p : Sram → Bool) : Hart := { h with sram := h.sram.filter fun m => !p m.1 }

/-- R363: the kind of a poisoned mask word that element `x` of an entry reads: of its predicate or of a mask operand. -/
def maskPoison (h : Hart) (e : QEntry) (x : Nat) : Option Nat := e.maskReads.findSome? fun k => h.mark (.mask k (x / 64))

/-- R363: the kind of a poisoned word of a codebook table that an entry uses. -/
def tablePoison (h : Hart) (e : QEntry) : Option Nat :=
  e.table.bind fun t => (List.range 4).findSome? fun w => h.mark (.cbook t w)

/-- R207, R363: the kind of a poisoned load-queue element that element `x` of an entry reads. -/
def queuePoison (h : Hart) (e : QEntry) (x : Nat) : Option Nat :=
  let m := (vshape e.instr).mult
  let at' := fun (q : Option Nat) (y n : Nat) => q.bind fun q => (List.range n).findSome? fun j => h.mark (.queue q (y + j))
  (at' e.qa (m * x) m).orElse fun _ => if fwScale e.fw != 0 then at' e.qb (x / 32) 1 else at' e.qb (m * x) m

/-- R43, R59, R363: the kind of a poisoned register word that element `x` of an entry reads. -/
def groupPoison (h : Hart) (e : QEntry) (x : Nat) : Option Nat :=
  let one := fun (g : Grp) (y : Nat) =>
    if g.mult = 4 then (List.range 4).findSome? fun j => h.elemPoison g.base g.w (4 * y + j) else h.elemPoison g.base g.w y
  match e.readsA.findSome? fun g => if e.neighbour then (nbIndex e x).bind (one g) else one g x with
  | some k => some k
  | none => e.readsB.findSome? fun g =>
    if g.mult != 0 then one g x
    else match (vshape e.instr).b with
      | some b => if fwScale e.fw != 0 && g.base == b.toNat then h.elemPoison g.base g.w (x / 32) else none
      | none => none

/-- R198, R363: the trap of a poisoned index that element `x` of an entry needs for its address. -/
def indexPoison (i : Nat) (h : Hart) (e : QEntry) (x : Nat) : Except TrapInfo Unit :=
  match (indexSrc e.instr).bind fun b => h.elemPoison b.toNat e.ewval x with
  | some k => .error (regTrap i k)
  | none => .ok ()

/-- R363: the kind of a poisoned source that element `x` of an entry reads. -/
def sourcePoison (h : Hart) (e : QEntry) (x : Nat) : Option Nat :=
  (groupPoison h e x).orElse fun _ => (queuePoison h e x).orElse fun _ => tablePoison h e

/-- R363: an element handled by `f`, unless the mask word that decides whether it is active is poisoned and still to be read. -/
def maskedStep (i : Nat) (e : QEntry) (f : State → Nat → ElemOut) (s : State) (x : Nat) : ElemOut :=
  match e.ahead x, maskPoison (s.hart i) e x with
  | none, some k => .error (.trap (regTrap i k))
  | _, _ => f s x

/-! ## Loads (R197, R199, R202, R205, R208) -/

/-- R353, R357: a load or a store of a hart at a place of the fabric, as a request of number `x` of its unit. -/
def askLoad (s : State) (i x : Nat) (node : BitVec 16) (a n : Nat) (va : W64) : Ask :=
  ⟨x, node, a, va, fun id => .load id node a n (keyOf s i)⟩
def askStore (s : State) (i x : Nat) (node : BitVec 16) (a : Nat) (bs : List Byte) (va : W64) : Ask :=
  ⟨x, node, a, va, fun id => .store id node a bs (keyOf s i)⟩

/-- R359: the result of a store through the fabric. -/
def stored (s : State) (va : W64) : RemoteResult → ElemOut
  | .ack => .ok s
  | r => .error (.trap (remoteTrap va r))

/-- R199: the value of an element's access and the state after it. -/
def loadElem (s : State) (i : Nat) (e : QEntry) (n x : Nat) : Except Halt (State × Nat) := do
  let va := elemAddr (s.hart i) e n x
  let p ← (elemCheck s i e n x .load).mapError .trap
  if p.dev && devStoresOut s i then .error .wait else
  match p.loc with
  | .fabric _ node a =>
    let r ← exchange s e.asked (askLoad s i x node a n va)
    let b ← (answeredBytes s i p.loc n va r).mapError .trap
    return (s, ofLE b)
  | _ =>
    match loadPoison s i (vectorView i) p n with
    | some q => .error (.trap (poisonTrap va q))
    | none => let r := loadAt s i (vectorView i) p n; .ok (r.1, ofLE r.2)

/-- R198, R208: an element delivered to its register group or load queue. -/
def deliver (s : State) (i : Nat) (q : Bool) (d : Reg) (n x v : Nat) : State :=
  let h := s.hart i
  if q then
    match h.q[d.toNat]? with
    | none => s
    | some y => s.setHart i { h.unmark (· == .queue d.toNat x) with q := h.q.setIfInBounds d.toNat { y with elems := kput y.elems x (BitVec.ofNat 64 v) } }
  else s.setHart i (h.putElem d.toNat (8 * n) x v)

/-- R199, R208: one element of a load. -/
def loadStep (i : Nat) (e : QEntry) (w : BitVec 2) (q : Bool) (d : Reg) (s : State) (x : Nat) : ElemOut :=
  let n := memWidth w
  let h := s.hart i
  if !h.admits (vshape e.instr).m x then .ok (if q then deliver s i q d n x 0 else s) else
  match e.ahead x, sourcePoison h e x with
  | some v, _ => .ok (deliver s i q d n x v)
  | none, some k => .error (.trap (regTrap i k))
  | none, none =>
    match loadElem s i e n x with
    | .error t => .error t
    | .ok (t, v) => .ok (deliver t i q d n x v)

/-- R205: whether element `x` of `vld.ff` trims the load, which a consumed error never does; an error while the fabric has not
answered. -/
def trims (s : State) (i : Nat) (e : QEntry) (n x : Nat) : Except Halt Bool :=
  if x = 0 then .ok false else
  match elemCheck s i e n x .load with
  | .error t => .ok (t.cause != 0x09)
  | .ok p =>
    match p.loc with
    | .fabric _ node a =>
      if !(s.hart i).admits (vshape e.instr).m x then .ok false else do
      match ← exchange s e.asked (askLoad s i x node a n (elemAddr (s.hart i) e n x)) with
      | .bytes _ | .poisoned _ => return false
      | _ => return true
    | _ => .ok false

/-- R205: the lowest of some elements at which a `vld.ff` trims; an error while the fabric has not answered. -/
def trimPoint (s : State) (i : Nat) (e : QEntry) (n : Nat) : List Nat → Except Halt (Option Nat)
  | [] => .ok none
  | x :: r => do if ← trims s i e n x then return some x else trimPoint s i e n r

/-! ## Stores (R87, R197, R212) -/

/-- R87: of the elements that write the bytes at `l`, which element `x` writes, an earlier-numbered one that has not been
performed ahead is the last to be performed. -/
def loses (s : State) (i : Nat) (e : QEntry) (n x : Nat) (l : Loc) : Bool :=
  match e.instr with
  | .vsts .. | .vstx .. =>
    !Config.storeWinner e.seq x && (List.range x).any fun y =>
      (s.hart i).admits (vshape e.instr).m y && (e.ahead y).isNone && Config.storeWinner e.seq y
      && (match elemCheck s i e n y .store with
        | .ok p => p.loc == l
        | .error _ => false)
  | _ => false

/-- R197, R199: the access of element `x` of a store; `alone` where it is performed by itself, behind every one performed
before. -/
def storeElem (s : State) (i : Nat) (e : QEntry) (w : BitVec 2) (d : Reg) (x : Nat) (alone : Bool) : ElemOut :=
  let n := memWidth w
  let h := s.hart i
  let va := elemAddr h e n x
  match (do indexPoison i h e x; elemCheck s i e n x .store), sourcePoison h e x with
  | .error t, _ => .error (.trap t)
  | .ok _, some k => .error (.trap (regTrap i k))
  | .ok p, none =>
    let bs := toLE n (h.elem d.toNat (8 * n) x)
    if p.dev && devStoresOut s i then .error .wait else
    match p.loc, e.guarded h with
    | .fabric _ node a, false => do stored s va (← exchange s e.asked (askStore s i x node a bs va))
    | l, g => .ok (if !alone && loses s i e n x l then s else storeAt g s i (vectorView i) p va bs (storeScope l))

/-- R37, R197: one element of a store, unless it has been performed ahead. -/
def storeStep (i : Nat) (e : QEntry) (w : BitVec 2) (d : Reg) (s : State) (x : Nat) : ElemOut :=
  if !(s.hart i).admits (vshape e.instr).m x || (e.ahead x).isSome then .ok s else storeElem s i e w d x false

/-- R101, R212: the progress add of a group of `n` positions, held behind the stores of a guarded strip; an error in the word is
consumed before it (R363). -/
def notifyAdd (s : State) (i : Nat) (e : QEntry) (n : Nat) : Except TrapInfo State :=
  if e.o2 = 0 then .ok s else
  match locate s i e.space false .store e.o2 with
  | .error t => .error t
  | .ok p =>
    let h := s.hart i
    match addPoison s i p.loc with
    | some q => .error (poisonTrap e.o2 q)
    | none => .ok (
      if e.guarded h then
        s.setHart i { h with buf :=
          { loc := p.loc, bytes := [], scope := storeScope p.loc, va := e.o2, dev := p.dev, add := some n } :: h.buf }
      else addWord s i p.loc n)

/-! ## Chunks (R96, R214) -/

/-- R213: the operation of a vector atomic. -/
def vamoOp : Instr → AmoOp
  | .vamoadd .. => .add
  | .vamomin .. => .min
  | .vamomax .. => .max
  | .vamoor .. => .or
  | .vamoand .. => .and
  | _ => .xor

/-- One level of the tree of R68 over present members. -/
def pairs {α : Type} (f : α → α → α) : List α → List α
  | x :: y :: r => f x y :: pairs f r
  | l => l

/-- The tree of R68 over a run. -/
def treeOf {α : Type} (f : α → α → α) : Nat → List α → Option α
  | 0, l => l.head?
  | n + 1, l => if l.length ≤ 1 then l.head? else treeOf f n (pairs f l)

/-- R214: the runs of equal key, each in ascending element order. -/
def runs {α : Type} (l : List (Nat × α)) : List (Nat × List α) :=
  (l.map (·.1)).eraseDups.map fun k => (k, (l.filter fun p => p.1 = k).map (·.2))

/-- R96: the scope of a chunk's update at a place. -/
def chunkScope (i : Nat) (ps : List Place) (p : Place) : Nat :=
  match p.loc with
  | .spad .. => 1
  | _ => if ps.all fun q => (match q.loc with
      | .mem pa => homeDie pa = dieOf i
      | _ => true) then 2 else 3

/-- R199, R213: checks 1 to 4 of one element of a vector atomic, which no fabric window holds. -/
def chunkCheck (s : State) (i : Nat) (e : QEntry) (n x : Nat) : Except TrapInfo Place := do
  indexPoison i (s.hart i) e x
  let p ← elemCheck s i e n x .rmw
  match p.loc with
  | .fabric .. => .error (cause 0x06 (elemAddr (s.hart i) e n x))
  | _ => return p

/-- R199, R214: the place of one element of a vector atomic whose chunk lies at the places `ps`; an error is consumed where the chunk
updates it. -/
def chunkPlace (s : State) (i : Nat) (e : QEntry) (n : Nat) (ps : List Place) (x : Nat) : Except TrapInfo Place := do
  let p ← chunkCheck s i e n x
  match sourcePoison (s.hart i) e x, atomicPoison s i p (chunkScope i ps p) n with
  | some k, _ => .error (regTrap i k)
  | none, some q => .error (poisonTrap (elemAddr (s.hart i) e n x) q)
  | none, none => return p

/-- R363: the trap of a poisoned mask word that the elements of a chunk read. -/
def chunkMasks (i : Nat) (h : Hart) (e : QEntry) (xs : List Nat) : Except TrapInfo Unit :=
  match xs.findSome? (maskPoison h e) with
  | some k => .error (regTrap i k)
  | none => .ok ()

/-- R214: a chunk of a vector atomic: its places are found first, then each distinct address is updated once. -/
def vamoChunk (s : State) (i : Nat) (e : QEntry) (w : BitVec 2) (d : Reg) (xs : List Nat) : Except TrapInfo State := do
  let n := memWidth w
  let h := s.hart i
  chunkMasks i h e xs
  let xs := xs.filter fun x => h.admits (vshape e.instr).m x
  let all := xs.filterMap fun x => (chunkCheck s i e n x).toOption
  let ps ← xs.mapM fun x => (chunkPlace s i e n all x).map fun p => (x, p)
  let op := vamoOp e.instr
  let keyed := ps.map fun xp => ((elemAddr h e n xp.1).toNat, (xp.2, h.elem d.toNat (8 * n) xp.1))
  return (runs keyed).foldl (init := s) fun t r =>
    match r.2.head?, treeOf (fun a b => amoNew op n a b 0) 64 (r.2.map (·.2)) with
    | some (p, _), some v => (atomicAt t i p (chunkScope i (ps.map (·.2)) p) n fun old => amoNew op n old v 0).1
    | _, _ => t

/-! ## Codebooks (R196) -/

/-- R196: entry c of a table comes from bytes 2c and 2c + 1. -/
def Hart.setTable (h : Hart) (t : BitVec 4) (bs : List Byte) : Hart :=
  let tab := (List.range 16).foldl (init := h.cb) fun m c =>
    kput m (16 * t.toNat + c) (BitVec.ofNat 16 (ofLE ((bs.drop (2 * c)).take 2)))
  { h with cb := tab }.unmark fun m => match m with
    | .cbook u _ => u == t.toNat
    | _ => false

/-- R196: a codebook table loaded from 32 bytes. -/
def cbLoad (s : State) (i : Nat) (e : QEntry) (t : BitVec 4) : ElemOut :=
  let va := e.o1
  if va.toNat % 32 ≠ 0 then .error (.trap (cause 0x02 va))
  else if touchesBuffer (e.guarded (s.hart i)) (s.hart i) i va 32 then .error (.trap (cause 0x06 va))
  else do
    let store := fun (s : State) (bs : List Byte) => s.setHart i ((s.hart i).setTable t bs)
    let p ← (locate s i e.space false .load va).mapError .trap
    if p.dev then .error (.trap (cause 0x06 va)) else
    match p.loc with
    | .fabric _ node a =>
      let r ← exchange s e.asked (askLoad s i 0 node a 32 va)
      return store s (← (answeredBytes s i p.loc 32 va r).mapError .trap)
    | _ =>
      match loadPoison s i (vectorView i) p 32 with
      | some q => .error (.trap (poisonTrap va q))
      | none => let r := loadAt s i (vectorView i) p 32; .ok (store r.1 r.2)

end Sys2Proof.Machine
end

