-- ==== Sys2Proof/Machine/Copies.lean ====
section
/-! DEFINITION. Copies, streams and stage barriers (R238 to R253): the instructions of major 0x2C but the Collator's, and the
steps COPY_LANDING, COPY_COMPLETE and SBWAIT_TIMEOUT. -/

namespace Sys2Proof.Machine

/-! ## Channels -/

/-- A channel of a hart. -/
def Hart.chan (h : Hart) (c : Nat) : Channel := h.ch[c]?.getD {}
def Hart.setChan (h : Hart) (c : Nat) (x : Channel) : Hart := { h with ch := h.ch.setIfInBounds c x }
def State.setChan (s : State) (i c : Nat) (x : Channel) : State := s.setHart i ((s.hart i).setChan c x)

/-- R247: a stage barrier is held by a declared stream of a hart of the core. -/
def barHeld (s : State) (core b : Nat) : Bool :=
  (hartsOf core).any fun i => (s.hart i).ch.toList.any fun x => match x.stream with
    | some t => decide (t.sb0 ≤ b) && decide (b < t.sb0 + t.nslots)
    | none => false

/-- R250, R251, R298: a fault of a channel at an index. -/
def chanFault (c idx : Nat) (seq : W64) (t : TrapInfo) : TrapInfo :=
  { t with code := BitVec.ofNat 8 (c + 16 * (t.code.toNat % 16)), idx := idx, seq := seq, cf := true, hard := true }

/-! ## Stage barrier instructions (R243, R245) -/

def execSbinit (n : BitVec 5) (s : State) : Out :=
  let c := coreOf s.cur
  if barHeld s c n.toNat then s.trapMe (cause 0x06)
  else .next (releaseWaiters (s.setBar c n { s.bar c n with count := 0, st := .idle }) c n.toNat 2).pass

def execSbexpect (n : BitVec 5) (a : Reg) (s : State) : Out :=
  let c := coreOf s.cur
  let v := s.rx a
  if barHeld s c n.toNat || v = 0 || decide (2 ^ 31 ≤ v.toNat) then s.trapMe (cause 0x06)
  else
    let x := s.bar c n
    .next (s.setBar c n { x with
      count := x.count + v.setWidth 32, st := if x.st = .broken then .broken else .armed }).pass

def execSbcancel (n : BitVec 5) (s : State) : Out :=
  let c := coreOf s.cur
  if barHeld s c n.toNat then s.trapMe (cause 0x06) else .next (cancelBar s c n).pass

/-- R245: a barrier that is not complete or broken is tested once, or awaited. It goes behind the hart's queued progress adds, which
are releases (R90, R105). -/
def execSbwait (n : BitVec 5) (d a : Reg) (s : State) : Out :=
  if addPending s.me then .next s else
  match (s.bar (coreOf s.cur) n).st with
  | .complete => .next ((acquire s s.cur 3).write d 0)
  | .broken => .next (s.write d 2)
  | .idle | .armed =>
    if s.rx a = 0 then .next (s.write d 1) else .next (s.wait (.sbwait d n (s.rx a == ~~~0)))

/-- SBWAIT_TIMEOUT (R245): the cycles of a waiting `sbwait` have passed; a gated core counts none (R328), and one that is about to
be gated stays active (R330). -/
def execSbwaitTimeout (s : State) : Out :=
  let i := s.input.hart
  if s.hold.phase != .none || (s.core (coreOf i)).gatedNow then .next s else
  match (s.hart i).mode with
  | .waiting (.sbwait d _ false) _ => .next (wakeCore (s.setHart i ((s.hart i).finish d 1)) (coreOf i))
  | _ => .next s

/-! ## Copies (R239) -/

/-- R14, R264: the Spine copy in progress. -/
def Hart.spineCopy (h : Hart) : Option Frame :=
  h.frames.getLast?.bind fun f => match f.phase with
    | .snapCopy | .restoreCopy => some f
    | .idle | .inAdvance | .inAdjoint => none

/-- R14, R240, R253: the numbers of the copies of a channel that have not completed, the Spine's on channel 6 among them. -/
def Hart.pendingSeqs (h : Hart) (c : Nat) : List W64 :=
  (if c = 6 then h.spineCopy.toList.map Frame.seq else []) ++ (h.chan c).copies.map Copy.seq

/-- R240: a copy carrying `.ord` waits for the earlier copies of its channel. -/
def ordWaits (h : Hart) (c : Nat) (y : Copy) : Bool :=
  y.ord && (h.pendingSeqs c).any fun q => q != y.seq && (y.seq - q).toNat < 2 ^ 63

/-- R239: the checks of a copy before it is queued. -/
def copyCheck (s : State) (c : Nat) (ctl stamp : W64) : Option TrapInfo :=
  if fld ctl 63 48 ≠ 0 then some (cause 0x06)
  else if !ctlNostamp ctl && stamp.toNat % 8 ≠ 0 then some (cause 0x02 stamp)
  else if ctlSbv ctl && barHeld s (coreOf s.cur) (ctlBar ctl).toNat then some (cause 0x06)
  else if (s.me.chan c).stream.isSome then some (cause 0x06) else none

/-- R98: a command handed to an engine is a release at package scope, behind an implicit commit (R48). -/
def handOver (i : Instr) (s : State) (k : State → Out) : Out :=
  afterCommit i s fun s => if releaseReady s s.cur 3 then k (release s s.cur 3) else .next s

def execCpcopy (o : Bool) (c : BitVec 3) (d a b : Reg) (s : State) : Out :=
  let n := c.toNat
  let ctl := s.rx b
  let stamp := if ctlNostamp ctl then 0 else s.rx (b + 1)
  bindingFirst (.cpcopy o c d a b) s s.me.guarded <|
  match copyCheck s n ctl stamp with
  | some t => s.trapMe t
  | none =>
    if 16 ≤ (s.me.pendingSeqs n).length then .next s else
    handOver (.cpcopy o c d a b) s fun s =>
      let x := s.me.chan n
      let y : Copy :=
        { dst := s.rx d, src := s.rx a, ctl := ctl, stamp := stamp, seq := x.seq + 1, ord := o
          space := spaceOf s s.cur, ctx := s.me.tag }
      .next (s.setChan s.cur n { x with seq := x.seq + 1, copies := x.copies ++ [y] }).pass

/-! ### Landings (R239 to R241, R244, R250) -/

/-- The engine of a hart's copies and streams may move (R252, R372). -/
def copiesMove (s : State) (i : Nat) : Bool :=
  let h := s.hart i
  s.hold.phase == .none && (s.core (coreOf i)).gate == .active && h.mode != .free && !h.chStopped

/-- R241: source bytes of an overlapping copy: a byte that the copy has overwritten reads as it was or as it is. -/
def pickSaved (s : State) (y : Copy) (va : W64) (bs : List Byte) : List Byte :=
  if y.saved.isEmpty then bs else bs.mapIdx fun j b =>
    match y.saved.find? fun p => p.1 = va.toNat + j with
    | some p => if Config.newer s.ticks j then b else p.2
    | none => b

/-- R241: source bytes that a landing at `va` of `k` bytes is about to overwrite. -/
def saveBytes (s : State) (i : Nat) (y : Copy) (va : W64) (l : Loc) (k : Nat) : KMap Byte :=
  let old := engineRead s (dieOf i) l k
  (List.range k).foldl (init := y.saved) fun m j =>
    let a := va.toNat + j
    if y.src.toNat ≤ a ∧ a < y.src.toNat + ctlLen y.ctl ∧ ¬ m.any (·.1 = a) then kput m a (old.getD j 0) else m

/-- R250: the region check of byte `va` of a range that starts at `base` (R393). -/
def outOfRegion (base va : W64) : Bool := decide (va.toNat < base.toNat) || decide (regionEnd base.toNat ≤ va.toNat)

/-- R363: the bytes of a piece below its first poisoned byte. -/
def cleanPart (s : State) (d : Nat) (va : W64) (l : Loc) (k : Nat) : Except TrapInfo Nat :=
  match enginePoison s d l k with
  | none => .ok k
  | some e =>
    let at' := match l with
      | .spad _ o => e.addr - o
      | .mem pa => e.addr - pa
      | .fabric .. => 0
    if at' = 0 then .error (poisonTrap va e) else .ok at'

/-- The number of the request for `k` bytes of the source from byte `x` of a copy on, of that for the destination, and of the
stamp's. -/
def readNumber (x k : Nat) : Nat := 4 * (128 * x + k)
def writeNumber (x k : Nat) : Nat := 4 * (128 * x + k) + 1
def stampNumber : Nat := 2

/-- R80, R357: the bytes of a piece within one line, `x` bytes into the copy: read in the package, or returned by the fabric. -/
def pieceData (s : State) (i : Nat) (y : Copy) (va : W64) (l : Loc) (x k : Nat) : Except Halt (State × List Byte) :=
  match l with
  | .fabric _ node a => do
    match ← exchange s y.asked (askLoad s i (readNumber x k) node a k va) with
    | .bytes b => return (s, b.take k)
    | r => .error (.trap (remoteTrap va r))
  | l => do
    let n ← (cleanPart s (dieOf i) va l k).mapError .trap
    let t := engineReach s (dieOf i) l n
    return (t, pickSaved s y va (engineRead t (dieOf i) l n))

/-- R78, R241, R250: the source bytes of a piece of at most `k` bytes, `x` bytes into the copy, line by line, up to the first that
cannot be read; the fault where that is the first byte. A line that has not been answered holds the whole piece back. -/
def sourceBytes (s : State) (i : Nat) (y : Copy) (va : W64) (x k : Nat) : Nat → Except Halt (State × List Byte)
  | 0 => .ok (s, [])
  | fuel + 1 => if k = 0 then .ok (s, []) else
    if outOfRegion y.src va then .error (.trap (cause 0x06 va)) else do
    let p ← (commandPlace s i y.space true .load va).mapError .trap
    let n := lineStep va k
    let (s, bs) ← pieceData s i y va p.loc x n
    if bs.length < n then return (s, bs) else
    match sourceBytes s i y (va + BitVec.ofNat 64 n) (x + n) (k - n) fuel with
    | .ok (t, l) => return (t, bs ++ l)
    | .error (.trap _) => return (s, bs)
    | .error h => .error h

/-- Bytes written by an engine: in the package, or through a fabric window as the request of number `x`. -/
def pieceWrite (s : State) (i : Nat) (l : Loc) (bs : List Byte) (asked : KMap Nat) (x : Nat) (va : W64) : ElemOut :=
  match l with
  | .fabric _ node a => do stored s va (← exchange s asked (askStore s i x node a bs va))
  | l => .ok (engineWrite (scratchWake s l) (dieOf i) l bs)

/-- R78: the bytes of a piece that starts at byte `x` of a copy: about `n`, up to the end of a line of the destination, and of its
last 8-byte word, which lands whole. -/
def pieceLength (y : Copy) (x n : Nat) : Nat :=
  let dv := y.dst + BitVec.ofNat 64 x
  let e := (dv.toNat + n + 7) / 8 * 8 - dv.toNat
  lineStep dv (min e (ctlLen y.ctl - x))

/-- R97: byte `x` of a copy can begin a piece: no piece that has landed holds it, and its word of the destination begins there or at
vstart. -/
def canBegin (y : Copy) (x : Nat) : Bool :=
  decide (x < ctlLen y.ctl) && (x == y.vstart || (y.dst + BitVec.ofNat 64 x).toNat % 8 == 0)
    && !y.pieces.any fun p => decide (p.1 ≤ x) && decide (x < p.1 + p.2)

/-- The bytes from `x` on, at most `k`, below the next of some pieces that have landed. -/
def upToPiece (l : List (Nat × Nat)) (x k : Nat) : Nat := l.foldl (fun n p => if x < p.1 then min n (p.1 - x) else n) k

/-- R250: a lowest byte `v` moved over the pieces that have landed at it; `fuel` bounds them. -/
def absorbPieces (v : Nat) (l : List (Nat × Nat)) : Nat → Nat × List (Nat × Nat)
  | 0 => (v, l)
  | n + 1 => match l.find? fun p => p.1 = v with
    | none => (v, l)
    | some p => absorbPieces (v + p.2) (l.erase p) n

/-- R97, R250: `k` bytes from byte `x` of a copy on have landed. -/
def Copy.land (y : Copy) (x k : Nat) : Copy :=
  let r := absorbPieces y.vstart ((x, k) :: y.pieces) (y.pieces.length + 1)
  { y with vstart := r.1, pieces := r.2 }

/-- A piece of a copy, from byte `x` on. -/
def copyPiece (s : State) (i : Nat) (y : Copy) (x n : Nat) : Except Halt (State × Copy × Nat) := do
  let sv := y.src + BitVec.ofNat 64 x
  let dv := y.dst + BitVec.ofNat 64 x
  if outOfRegion y.dst dv then .error (.trap (cause 0x06 dv)) else
  let q ← (commandPlace s i y.space true .store dv).mapError .trap
  let (s, bs) ← sourceBytes s i y sv x (upToPiece y.pieces x (pieceLength y x n)) 3
  let saved := saveBytes s i y dv q.loc bs.length
  let t ← pieceWrite s i q.loc bs y.asked (writeNumber x bs.length) dv
  return (t, { y.land x bs.length with saved := saved }, bs.length)

/-- The copy at place `j` of a channel replaced. -/
def putCopy (s : State) (i c j : Nat) (y : Copy) : State :=
  let x := (s.hart i).chan c
  s.setChan i c { x with copies := x.copies.set j y }

/-- R250: a copy stops at a fault; its requests are made again when it resumes. -/
def failCopy (s : State) (i c j : Nat) (y : Copy) (t : TrapInfo) : State :=
  putCopy (forget s y.asked) i c j { y with fault := some (chanFault c y.vstart y.seq t), asked := [] }

/-- R357: a copy notes a request. -/
def noteCopy (i c j : Nat) (y : Copy) (t : State) (x id : Nat) : State :=
  putCopy t i c j { y with asked := kput y.asked x id }

/-- R97, R239, R240, R244, R250: a piece of the copy at place `j` of a channel lands, `off` bytes behind its vstart; a fault is that
of the lowest byte that cannot be performed. -/
def landCopy (s : State) (i c j n off : Nat) : State :=
  let x := (s.hart i).chan c
  match x.copies[j]? with
  | none => s
  | some y =>
    if !copiesMove s i || y.fault.isSome || ordWaits (s.hart i) c y || n = 0 || !canBegin y (y.vstart + off) then s else
    match copyPiece s i y (y.vstart + off) n with
    | .error (.trap t) => if off = 0 then failCopy s i c j y t else s
    | .error h => h.send s i (noteCopy i c j y)
    | .ok (t, y, k) =>
      let t := putCopy t i c j y
      if ctlSbv y.ctl then landOn t i y.ctx (ctlBar y.ctl) k else t

/-! ### Completion (R99, R239) -/

/-- COPY_COMPLETE: every byte of the copy at place `input.index` has landed: its stamp is written, its interrupt raised, and
it leaves the queue. -/
def completeCopy (s : State) (i c j : Nat) : State :=
  let x := (s.hart i).chan c
  match x.copies[j]? with
  | none => s
  | some y =>
    if !copiesMove s i || y.fault.isSome || ordWaits (s.hart i) c y || decide (y.vstart < ctlLen y.ctl) then s else
    let stamped : ElemOut :=
      if ctlNostamp y.ctl then .ok s else do
        let p ← (locate s i y.space true .store y.stamp).mapError .trap
        pieceWrite s i p.loc (toLE 8 y.seq.toNat) y.asked stampNumber y.stamp
    match stamped with
    | .error (.trap t) => failCopy s i c j y t
    | .error h => h.send s i (noteCopy i c j y)
    | .ok t =>
      let x := (t.hart i).chan c
      let t := (forget t y.asked).setChan i c { x with copies := x.copies.eraseIdx j, lastFailed := false }
      if ctlUi y.ctl then uiEvent t i y.ctx 1 c (y.seq &&& 0xFFFFFFFFFFFF) else t

def execCopyComplete (s : State) : Out :=
  .next (completeCopy s s.input.hart s.input.queue s.input.index)

/-! ## Streams (R246 to R249, R251) -/

/-- R246: the barriers of a stream's slots abandoned. -/
def cancelSlots (s : State) (core : Nat) (t : Stream) : State :=
  (List.range t.nslots).foldl (fun s j => cancelBar s core (BitVec.ofNat 5 (t.sb0 + j))) s

/-- R246: a stream ended by its hart. -/
def endStream (s : State) (i c : Nat) : State :=
  let x := (s.hart i).chan c
  match x.stream with
  | none => s
  | some t => (cancelSlots s (coreOf i) t).setChan i c { x with stream := none, stopped := false }

/-- R246: the fields of a stream declaration, or that it is rejected. -/
def streamOf (w : List W64) : Option Stream :=
  let z := fun i => w.getD i 0
  let nslots := fld (z 4) 35 32
  let slot := fld (z 4) 31 0
  let sb0 := fld (z 4) 44 40
  let buf := (z 3).toNat
  if fld (z 0) 63 55 ≠ 0 || fld (z 2) 63 48 ≠ 0 || fld (z 4) 63 45 ≠ 0 || fld (z 4) 39 38 ≠ 0
    || z 5 ≠ 0 || z 6 ≠ 0 || z 7 ≠ 0 || nslots < 2 || 4 < nslots || slot = 0 || slot % 64 ≠ 0 || 31 < sb0 + nslots - 1
    || buf < windowBase || windowBase + spadBytes < buf + nslots * slot then none
  else some
    { src := sext (BitVec.ofNat 55 (z 0).toNat), stride := z 1, len := fld (z 2) 47 0, buf := z 3, slot := slot, nslots := nslots
      ew := fld (z 4) 37 36, sb0 := sb0 }

/-- R246: the stream of a channel of the moving hart replaced. -/
def declare (s : State) (n : Nat) (t : Option Stream) : State :=
  let s := endStream s s.cur n
  (s.setChan s.cur n { s.me.chan n with
    stream := t.map fun t => { t with space := spaceOf s s.cur, ctx := s.me.tag } }).pass

/-- R246: a stream declared on a channel whose queue is empty; the declaration is read behind the release of R98. -/
def execCpdecl (c : BitVec 3) (a : Reg) (s : State) : Out :=
  let n := c.toNat
  let va := s.rx a
  let chained := n = 6 && !s.me.frames.isEmpty
  bindingFirst (.cpdecl c a) s s.me.guarded <|
  if va.toNat % 64 ≠ 0 then s.trapMe (cause 0x02 va)
  else if va = 0 && chained then s.trapMe (cause 0x06)
  else if !(s.me.chan n).copies.isEmpty then .next s else
  handOver (.cpdecl c a) s fun s =>
    if va = 0 then .next (declare s n none) else
    let s := homeRange s s.cur (spaceOf s s.cur) va 64
    match readRange s s.cur (spaceOf s s.cur) false va 64 with
    | .error t => s.trapMe t
    | .ok bs => match streamOf (wordsOf 8 bs) with
      | none => s.trapMe (cause 0x06 va)
      | some t => if chained then s.trapMe (cause 0x06) else .next (declare s n (some t))

/-- R248: a stream moved to its next strip by a `vsetl` that returned `vl`. -/
def advanceStream (s : State) (i c vl : Nat) : State :=
  let h := s.hart i
  let x := h.chan c
  match x.stream with
  | none => s
  | some t =>
    if x.stopped then s else
    let hi := min (t.p + vl) t.len
    let bytes := (hi - t.p) * 2 ^ t.ew
    let j := t.k % t.nslots
    let b := BitVec.ofNat 5 (t.sb0 + j)
    if t.slot < bytes then breakBar (s.setChan i c { x with stopped := true }) i t.ctx b
    else
      let strips := (t.strips.filter fun y => y.k % t.nslots ≠ j)
        ++ (if bytes = 0 then [] else [{ k := t.k, lo := t.p, count := hi - t.p }])
      armBar (s.setChan i c { x with stream := some { t with
        p := hi, k := t.k + 1, strips := strips, starts := (h.nextSeq :: t.starts).take 8 } }) (coreOf i) b bytes

/-- R173, R248: every stream of a hart moved on. -/
def advanceStreams (s : State) (i vl : Nat) : State := (List.range 7).foldl (fun s c => advanceStream s i c vl) s

/-- R248: strip `k` may be written into its slot. -/
def stripFree (h : Hart) (t : Stream) (k : Nat) : Bool :=
  if k < t.nslots then true else
  match t.starts[t.k - 1 - (k - t.nslots + 1)]? with
  | none => true
  | some q => (h.vq ++ h.sup.image ++ h.fwl.image).all fun e => q ≤ e.seq

/-- R393: the lowest address of a stream's source. -/
def streamBase (t : Stream) : W64 :=
  if t.stride.toInt < 0 then t.src + t.stride * BitVec.ofNat 64 (t.len - 1) else t.src

/-- R248, R251: the bytes of element `e` of a stream. -/
def streamData (s : State) (i : Nat) (t : Stream) (e : Nat) : Except Halt (State × List Byte) := do
  let n := 2 ^ t.ew
  let va := t.src + t.stride * BitVec.ofNat 64 e
  if outOfRegion (streamBase t) va then .error (.trap (cause 0x06 va)) else
  if regionEnd (streamBase t).toNat < va.toNat + n then
    .error (.trap (cause 0x06 (BitVec.ofNat 64 (regionEnd (streamBase t).toNat)))) else
  let p ← (commandPlace s i t.space true .load va).mapError .trap
  match p.loc with
  | .fabric _ node a => do
    match ← exchange s t.asked (askLoad s i e node a n va) with
    | .bytes b => return (s, b.take n)
    | r => .error (.trap (remoteTrap va r))
  | _ =>
    let s := reachRange s i t.space true va n
    return (s, ← (readRange s i t.space true va n).mapError .trap)

/-- The strip with `landed` moved over the elements that have landed at it; `fuel` bounds them. -/
def Strip.absorb (y : Strip) : Nat → Strip
  | 0 => y
  | n + 1 => if y.above.contains y.landed then
      Strip.absorb { y with landed := y.landed + 1, above := y.above.erase y.landed } n
    else y

/-- R97: element `z` of a strip has landed. -/
def Strip.land (y : Strip) (z : Nat) : Strip := { y with above := z :: y.above }.absorb (y.above.length + 1)

/-- R248, R251: one element of a channel's oldest unfinished strip lands, `off` behind the first that has not; a fault is that of the
first. -/
def landElement (s : State) (i c off : Nat) : State :=
  let h := s.hart i
  let x := h.chan c
  match x.stream with
  | none => s
  | some t => match t.strips with
    | [] => s
    | y :: rest =>
      let z := y.landed + off
      let put := fun (u : State) (t : Stream) => u.setChan i c { (u.hart i).chan c with stream := some t }
      if t.fault.isSome || x.stopped || !stripFree h t y.k || decide (y.count ≤ z) || y.above.contains z then s else
      match streamData s i t (y.lo + z) with
      | .error (.trap f) =>
        if off = 0 then put (forget s t.asked) { t with fault := some (chanFault c (y.lo + z) x.seq f), asked := [] } else s
      | .error p => p.send s i fun u e id => put u { t with asked := kput t.asked e id }
      | .ok (u, bs) =>
        let o := windowOffset h (t.buf.toNat + y.k % t.nslots * t.slot + z * 2 ^ t.ew)
        let u := writeHome u (.spad (coreOf i) o) bs
        let y' := y.land z
        let own := fun (p : Nat × Nat) => p.1 == y.lo + z
        landOn (put (forget u (t.asked.filter own)) { t with
          strips := if y'.landed = y.count then rest else y' :: rest, asked := t.asked.filter fun p => !own p }) i t.ctx
          (BitVec.ofNat 5 (t.sb0 + y.k % t.nslots)) (2 ^ t.ew)

/-- `n` elements of a stream from the one `off` behind the first that has not landed on; that one stands first again when it has. -/
def landElements (i c : Nat) : Nat → Nat → State → State
  | 0, _, s => s
  | n + 1, off, s => landElements i c n (if off = 0 then 0 else off + 1) (landElement s i c off)

/-- COPY_LANDING (R244, R248): bytes of a copy, or up to `n` elements of a stream's strip, land. -/
def landing (s : State) (i c : Nat) (l : Landing) : State :=
  match l with
  | .copy j n off => landCopy s i c j n off
  | .stream n off => if copiesMove s i then landElements i c (min n 1024) off s else s

def execCopyLanding (s : State) : Out := .next (landing s s.input.hart s.input.queue s.input.landing)

/-! ## Status (R253) -/

/-- R253: the state code of a barrier. -/
def BarState.code : BarState → Nat
  | .idle => 0
  | .armed => 1
  | .complete => 2
  | .broken => 3

/-- R253, R295: a barrier in a word. -/
def Barrier.word (b : Barrier) : W64 := at64 0 b.count.toNat ||| bitAt 32 b.p ||| at64 33 b.st.code

/-- R250, R253: the vstart of the copy of a channel that a fault holds; the Spine's on channel 6 while a handler of its fault runs. -/
def Hart.heldCopy (h : Hart) (c : Nat) : Option Nat :=
  match (h.chan c).copies.find? fun y => y.fault.isSome with
  | some y => some y.vstart
  | none =>
    if c != 6 || h.priv == .user || !(h.level h.priv).stat.getLsbD 6 || !(h.level h.priv).stat.getLsbD 7 then none
    else h.spineCopy.bind fun f => if f.held then some f.cvstart else none

/-- R253: the word that a selector names. -/
def statusWord (s : State) (i c : Nat) (sel : W64) : W64 :=
  let x := (s.hart i).chan c
  let h := s.hart i
  let pending := h.pendingSeqs c
  if sel = 0 then x.seq
  else if sel = 1 then pending.foldl (fun w q => if q.toNat ≤ w.toNat then q - 1 else w) x.seq
  else if sel = 2 then BitVec.ofNat 64 (min 16 pending.length)
  else if sel = 3 then
    bitAt 0 x.stream.isSome ||| bitAt 1 (h.heldCopy c).isSome ||| bitAt 2 x.lastFailed ||| bitAt 3 x.stopped
  else if sel = 4 then BitVec.ofNat 64 ((h.heldCopy c).getD 0)
  else if sel = 5 then BitVec.ofNat 64 ((x.stream.map Stream.p).getD 0)
  else if 32 ≤ sel.toNat ∧ sel.toNat ≤ 63 then (s.bar (coreOf i) (BitVec.ofNat 5 (sel.toNat - 32))).word
  else 0

def execCpstat (c : BitVec 3) (d a : Reg) (s : State) : Out :=
  .next (s.write d (statusWord s s.cur c.toNat (s.rx a)))

end Sys2Proof.Machine
end

