-- ==== Sys2Proof/Machine/Forest.lean ====
section
/-! DEFINITION. The gathering engine: walks, links, compression, relabelling and undo on a forest (R276 to R288). -/

namespace Sys2Proof.Machine

/-! ## The forest (R276 to R278) -/

/-- R277: the forest base. -/
def Hart.forest (h : Hart) : W64 := h.uw.gforest
/-- R277: the number of entries. -/
def Hart.entries (h : Hart) : Nat := h.uw.gcount.toNat
/-- R276: the address of an entry. -/
def Hart.entryAddr (h : Hart) (n : Nat) : W64 := h.forest + BitVec.ofNat 64 (8 * n)

/-- R276: a root entry of a size, and a link with a sequence number to a parent. -/
def rootEntry (size n : Nat) : W64 := bitAt 63 true ||| at64 32 (size % 2 ^ 31) ||| at64 0 (n % 2 ^ 32)
def linkEntry (q parent : Nat) : W64 := at64 32 (q % 2 ^ 31) ||| at64 0 (parent % 2 ^ 32)
/-- R276: bits [62:32] of an entry: the size of a root, the sequence number of a link. -/
def entryHigh (e : W64) : Nat := fld e 62 32
def entryLow (e : W64) : Nat := fld e 31 0

/-- R278: a page of the forest lies in a fabric window. -/
def forestInFabric (s : State) (i : Nat) (sp : Space) : Bool :=
  let h := s.hart i
  let first := h.forest.toNat / 2 ^ 16
  (List.range ((h.forest.toNat + 8 * h.entries - 1) / 2 ^ 16 + 1 - first)).any fun p =>
    leadsToFabric s (coreOf i) sp (BitVec.ofNat 64 (max h.forest.toNat ((first + p) * 2 ^ 16)))

/-- R278: the checks before an instruction touches the forest. -/
def forestCheck (s : State) (i : Nat) (sp : Space) : Except TrapInfo Unit :=
  let h := s.hart i
  if h.entries = 0 then .error (cause 0x06) else
  match regionOf h.forest.toNat, leavesRegion h.forest (8 * h.entries) with
  | .aperture _, _ | .reserved, _ => .error (cause 0x06 h.forest)
  | _, some v => .error (cause 0x06 v)
  | _, none => if forestInFabric s i sp then .error (cause 0x06 h.forest) else .ok ()

/-- R46, R278, R393: an access of the engine to `n` bytes of a range that starts at `base`, checked as a store. -/
def gatherPlace (s : State) (i : Nat) (sp : Space) (base va : W64) (n : Nat) : Except TrapInfo Place :=
  if regionOf base.toNat ≠ regionOf va.toNat then .error (cause 0x06 va)
  else if touchesBuffer ((s.hart i).gs && sp.priv == .user) (s.hart i) i va n then .error (cause 0x06 va) else
  match locate s i sp false .store va with
  | .error t => .error t
  | .ok p =>
    match p.loc with
    | .fabric .. => .error (cause 0x06 va)
    | _ => if p.dev then .error (cause 0x06 va) else
      match loadPoison s i (vectorView i) p n with
      | some q => .error (poisonTrap va q)
      | none => .ok p

/-- An entry read (R278); an index outside the forest traps. -/
def readEntry (s : State) (i : Nat) (sp : Space) (n : Nat) : Except TrapInfo (State × W64) := do
  let h := s.hart i
  if h.entries ≤ n then .error (cause 0x06 (h.entryAddr n)) else
  let p ← gatherPlace s i sp h.forest (h.entryAddr n) 8
  let r := loadAt s i (vectorView i) p 8
  return (r.1, BitVec.ofNat 64 (ofLE r.2))

/-- An entry written whose place has been found before. -/
def writeEntry (s : State) (i : Nat) (sp : Space) (n : Nat) (v : W64) : State :=
  match gatherPlace s i sp (s.hart i).forest ((s.hart i).entryAddr n) 8 with
  | .ok p => writeAt s (vectorView i) p.loc (toLE 8 v.toNat)
  | .error _ => s

/-- R276: the walk from entry `n` to its root: the entries on the path, the root last; `fuel` bounds its links. -/
def walkRoot (s : State) (i : Nat) (sp : Space) (n : Nat) : Nat → Except TrapInfo (State × List (Nat × W64))
  | 0 => .error (cause 0x06 ((s.hart i).entryAddr n))
  | fuel + 1 => do
    let (s, e) ← readEntry s i sp n
    if e.getLsbD 63 then return (s, [(n, e)])
    else
      let (s, r) ← walkRoot s i sp (entryLow e) fuel
      return (s, (n, e) :: r)

/-- The path of an element (R276: at most `cw.gcount` links). -/
def pathOf (s : State) (i : Nat) (sp : Space) (n : Nat) : Except TrapInfo (State × List (Nat × W64)) :=
  walkRoot s i sp n ((s.hart i).entries + 1)

/-- The root of an element and its entry. -/
def rootOf (s : State) (i : Nat) (sp : Space) (n : Nat) : Except TrapInfo (State × Nat × W64) := do
  let (s, p) ← pathOf s i sp n
  return (s, p.getLast?.getD (n, 0))

/-! ## Marks and the undo log (R277, R282) -/

/-- R277: the value of the oldest open mark. -/
def Hart.oldest (h : Hart) : Nat := h.marks.headD 0

/-- R282: the address of the log entry for link `q`. -/
def Hart.logAddr (h : Hart) (q : Nat) : W64 := h.uw.glog + BitVec.ofNat 64 (16 * (q - h.oldest - 1))

/-- R277: the class count changed by an amount, in 32 bits. -/
def Hart.addClasses (h : Hart) (n : BitVec 32) : W64 := (BitVec.ofNat 32 h.uw.gclasses.toNat + n).setWidth 64

/-- R281, R282: the undo-log entry of a link, when a mark is open. -/
def logLink (s : State) (i : Nat) (sp : Space) (c p size q : Nat) : Except TrapInfo State := do
  let h := s.hart i
  if h.marks.isEmpty then return s
  else
    let a := h.logAddr q
    if h.uw.glogend.toNat < a.toNat + 16 then .error (cause 0x0C) else
    let w ← gatherPlace s i sp h.uw.glog a 16
    return writeAt s (vectorView i) w.loc (toLE 4 c ++ toLE 4 p ++ toLE 4 size ++ toLE 4 q)

/-- R281: one pair united: the state and the root of the union. The log entry stays written where the link's number is the last
one. -/
def unite (s : State) (i : Nat) (sp : Space) (a b : Nat) : Except Halt (State × Nat) := do
  let (s, ra, ea) ← (rootOf s i sp a).mapError .trap
  let (s, rb, eb) ← (rootOf s i sp b).mapError .trap
  if ra = rb then return (s, ra)
  else
    let sa := entryHigh ea
    let sb := entryHigh eb
    let (p, c) := if sb < sa || (sa == sb && ra < rb) then (ra, rb) else (rb, ra)
    let h := s.hart i
    let q := fld h.uw.gseq 30 0 + 1
    let s ← (logLink s i sp c p (if p = ra then sa else sb) q).mapError .trap
    if q = 2 ^ 31 then .error (.after s (cause 0x0C))
    else
      let s := writeEntry (writeEntry s i sp c (linkEntry q p)) i sp p (rootEntry (sa + sb) p)
      let h := s.hart i
      return (s.setHart i { h with uw := { h.uw with gseq := BitVec.ofNat 64 q, gclasses := h.addClasses (-1) } }, p)

/-! ## Find and compress (R283) -/

/-- R283: for the rest of a path, the farthest entry reached over links with numbers up to `bound`, and the largest of
those numbers. -/
def reachOver (bound : Nat) : List (Nat × W64) → Option (Nat × Nat × Nat)
  | (_, e) :: (m, e') :: r =>
    if e.getLsbD 63 || bound < entryHigh e then none
    else match reachOver bound ((m, e') :: r) with
      | none => some (m, entryHigh e, 1)
      | some (j, q, n) => some (j, max (entryHigh e) q, n + 1)
  | _ => none

/-- R283: the path compressed: each entry is linked to the farthest one that the bound admits, when it skips some. -/
def compress (s : State) (i : Nat) (sp : Space) (bound : Nat) : List (Nat × W64) → State
  | [] => s
  | (n, e) :: r =>
    let s := match reachOver bound ((n, e) :: r) with
      | some (j, q, k) => if 1 < k then writeEntry s i sp n (linkEntry q j) else s
      | none => s
    compress s i sp bound r

/-- R283: `gfind` of one element. -/
def findRoot (s : State) (i : Nat) (sp : Space) (n : Nat) : Except TrapInfo (State × Nat) := do
  let (s, p) ← pathOf s i sp n
  let h := s.hart i
  return (compress s i sp (if h.marks.isEmpty then 2 ^ 31 else h.oldest) p, (p.getLast?.getD (n, 0)).1)

/-- R281, R283: the pair or find of element `x`: the state and the root. -/
def gatherElem (s : State) (i : Nat) (e : QEntry) (x : Nat) : Except Halt (State × Nat) :=
  let h := s.hart i
  match sourcePoison h e x with
  | some k => .error (.trap (regTrap i k))
  | none => match e.instr with
    | .gunite _ _ a b => unite s i e.space (h.elem a.toNat 32 x) (h.elem b.toNat 32 x)
    | .gfind _ _ a => (findRoot s i e.space (h.elem a.toNat 32 x)).mapError .trap
    | _ => .ok (s, 0)

/-- The destination of `gunite` and `gfind`. -/
def gatherDest : Instr → Option Reg
  | .gunite _ d _ _ | .gfind _ d _ => some d
  | _ => none

/-- R281, R283: one element of `gunite` or `gfind`, unless it has been performed ahead. -/
def gatherStep (i : Nat) (e : QEntry) (d : Reg) (s : State) (x : Nat) : ElemOut :=
  if !(s.hart i).admits (vshape e.instr).m x then .ok s else
  let r : Except Halt (State × Nat) := match e.ahead x with
    | some v => .ok (s, v)
    | none => gatherElem s i e x
  match r with
  | .error t => .error t
  | .ok (t, n) => .ok (t.setHart i ((t.hart i).putElem d.toNat 32 x n))

/-! ## Initialising (R280) -/

/-- R280: one entry of `ginit`. -/
def initStep (i : Nat) (e : QEntry) (s : State) (x : Nat) : ElemOut :=
  match gatherPlace s i e.space (s.hart i).forest ((s.hart i).entryAddr x) 8 with
  | .error t => .error (.trap t)
  | .ok p => .ok (writeAt s (vectorView i) p.loc (toLE 8 (rootEntry 1 x).toNat))

/-- R280: the control words after the last entry. -/
def Hart.initDone (h : Hart) : Hart :=
  { h with marks := [], uw := { h.uw with gseq := 0, gclasses := h.uw.gcount } }

/-! ## Relabelling (R284) -/

/-- R55, R284: an FP32 addition, which never saturates. -/
def addFp32 (a b : Nat) : Nat :=
  let v := fun x => decodeFloat .fp32 x
  (encodeFloat .fp32 .rne true 0 (Exact.add false (v a) (v b))).bits

/-- R284: the sum of two 32-bit words. -/
def relabelAdd (fs : Bool) (a b : Nat) : Nat := if fs then addFp32 a b else (a + b) % 2 ^ 32

/-- R284: the root of the index of element `x`: the one found before, or found now. -/
def relabelRoot (s : State) (i : Nat) (e : QEntry) (a : Reg) (x : Nat) : Except TrapInfo (State × Nat) :=
  match e.ahead x with
  | some r => .ok (s, r)
  | none => do
    let (s, r, _) ← rootOf s i e.space ((s.hart i).elem a.toNat 32 x)
    return (s, r)

/-- R284: the root of the index of element `x` and the place of its word. -/
def relabelPlace (s : State) (i : Nat) (e : QEntry) (a : Reg) (x : Nat) : Except TrapInfo (State × Nat × Place) := do
  match sourcePoison (s.hart i) e x with
  | some k => .error (regTrap i k)
  | none =>
    let (s, r) ← relabelRoot s i e a x
    let p ← gatherPlace s i e.space e.o1 (e.o1 + BitVec.ofNat 64 (4 * r)) 4
    return (s, r, p)

/-- R284: the places of some elements. -/
def relabelPlaces (s : State) (i : Nat) (e : QEntry) (a : Reg) : List Nat → Except TrapInfo (State × List (Nat × Nat × Place))
  | [] => .ok (s, [])
  | x :: r => do
    let (s, n, p) ← relabelPlace s i e a x
    let (s, l) ← relabelPlaces s i e a r
    return (s, (x, n, p) :: l)

/-- R284: a chunk of `grelabel`, with the roots found. -/
def relabelChunk (s : State) (i : Nat) (e : QEntry) (fs : Bool) (a b : Reg) (xs : List Nat) :
    Except TrapInfo (State × List (Nat × Nat)) := do
  let h := s.hart i
  chunkMasks i h e xs
  let (t, ps) ← relabelPlaces s i e a (xs.filter fun x => h.admits (vshape e.instr).m x)
  let places := ps.map fun q => q.2.2
  let keyed := ps.map fun q => (q.2.1, (q.2.2, h.elem b.toNat 32 q.1))
  return ((runs keyed).foldl (init := t) fun t r =>
    match r.2.head?, treeOf (relabelAdd fs) 64 (r.2.map (·.2)) with
    | some (p, _), some v => (atomicAt t i p (chunkScope i places p) 4 fun old => relabelAdd fs old v).1
    | _, _ => t, ps.map fun q => (q.1, q.2.1))

/-- R284: the write-backs of `grelabel.b`, all at once, at the roots that the chunks found; those of chunks that a trap has
parted from them are found again (log 25, DEDUCED). -/
def relabelBack (s : State) (i : Nat) (e : QEntry) (a b : Reg) : Except TrapInfo State := do
  let h := s.hart i
  let (t, ps) ← relabelPlaces s i e a (actives h e (vshape e.instr).m)
  let r := ps.foldl (init := (t, ([] : List (Nat × Nat)))) fun acc q =>
    let l := loadAt acc.1 i (vectorView i) q.2.2 4
    (l.1, (q.1, ofLE l.2) :: acc.2)
  return r.1.setHart i (r.2.foldl (init := r.1.hart i) fun h q => h.putElem b.toNat 32 q.1 q.2)

/-! ## Undoing (R287) -/

/-- R287: the newest link undone. -/
def undoLink (s : State) (i : Nat) (sp : Space) : Except TrapInfo State := do
  let h := s.hart i
  let q := fld h.uw.gseq 30 0
  let a := h.logAddr q
  let w ← gatherPlace s i sp h.uw.glog a 16
  let (s, bs) := loadAt s i (vectorView i) w 16
  let c := ofLE (bs.take 4)
  let p := ofLE ((bs.drop 4).take 4)
  let old := ofLE ((bs.drop 8).take 4)
  let (s, _) ← readEntry s i sp c
  let (s, ep) ← readEntry s i sp p
  let size := (entryHigh ep + 2 ^ 31 - old % 2 ^ 31) % 2 ^ 31
  let (s, ep) ← readEntry (writeEntry s i sp c (rootEntry size c)) i sp p
  let s := writeEntry s i sp p ((ep &&& ~~~(at64 32 (2 ^ 31 - 1))) ||| at64 32 (old % 2 ^ 31))
  let h := s.hart i
  return s.setHart i { h with uw := { h.uw with gseq := BitVec.ofNat 64 (q - 1), gclasses := h.addClasses 1 } }

end Sys2Proof.Machine
end

