-- ==== Sys2Proof/Machine/VectorUnit.lean ====
section
/-! DEFINITION. The vector and matrix queues and the vector unit: queueing with captured operands (R25, R63, R206 to R209,
R221, R300), dispatch and its checks (R25, R41, R200, R209, R279), and the commit of element groups (R36 to R38, R44). -/

namespace Sys2Proof.Machine

/-! ## Queueing -/

/-- R302: the scalar operands that an instruction captures, in order. -/
def captures (s : State) : Instr → W64 × W64 × W64
  | .vbcast _ _ _ a | .vldx _ _ _ _ a _ | .vldxO _ _ _ _ a _ | .vstx _ _ _ a _ | .vstxO _ _ _ a _
  | .vld _ _ _ _ a | .vldFf _ _ _ a | .vst _ _ _ a | .cbload _ a | .vamoadd _ _ _ a _ | .vamomin _ _ _ a _
  | .vamomax _ _ _ a _ | .vamoor _ _ _ a _ | .vamoand _ _ _ a _ | .vamoxor _ _ _ a _ => (s.rx a, 0, 0)
  | .vslup _ _ _ _ b | .vsldn _ _ _ _ b | .mmvx _ _ b | .vmvx _ _ b => (s.rx b, 0, 0)
  | .vmvv _ a b | .vlds _ _ _ _ a b | .vsts _ _ _ a b => (s.rx a, s.rx b, 0)
  | .vstN _ _ _ a => (s.rx a, s.me.uw.prog, 0)
  | .grelabel _ _ _ d _ _ => (s.rx d, 0, 0)
  | .mldb _ _ a b | .mst _ _ a b _ => (s.rx a, s.rx b, 0)
  | .mldbx _ _ a _ c => (s.rx a, 0, s.rx c)
  | .mmulO _ _ _ asrc a b _ | .mmulF _ _ _ asrc a b _ => if asrc then (s.rx a, s.rx b, 0) else (0, 0, 0)
  | .mrd _ _ _ b _ | .mwr _ _ _ b _ => (0, s.rx b, 0)
  | _ => (0, 0, 0)

/-- R58, R141, R225: the format word of an instruction, and whether its rounding field is used (R63). -/
def formatOf (s : State) (i : Instr) : W64 × Bool :=
  match i with
  | .mldb _ f _ _ | .mldbx _ f _ _ _ | .mmulO _ _ f _ _ _ _ | .mmulF _ _ f _ _ _ _ => (s.rx f, false)
  | .mrd _ f _ _ _ | .mwr _ f _ _ _ | .mst _ f _ _ _ => (s.rx f, true)
  | _ => match (vshape i).fw with
    | some f => (s.rx (BitVec.ofNat 5 (24 + f.toNat)), true)
    | none => (0, false)

/-- R207: the load queue that a vector register field names for a consumer. -/
def boundQueue (h : Hart) (i : Instr) (r : Option Reg) : Option Nat :=
  match r with
  | none => none
  | some r =>
    if consumesQueue i && decide (28 ≤ r.toNat) && (match h.q[r.toNat - 28]? with
        | some q => q.bound && !q.consumer
        | none => false) then some (r.toNat - 28) else none

/-- R63, R184: whether an instruction captures the values of R63 and steps `cw.srctr`: `vrand`, and every vector instruction with a
format word, `mrd`, `mwr` and `mst` whose rounding field reads SR or SRS, whether or not it rounds anything; `mldb` and `mmul`
round with RNE alone, and in `vxpose8` rounding plays no part (R191; log 71, DEDUCED). -/
def capturesDraw (s : State) (i : Instr) : Bool :=
  match i with
  | .vrand .. => true
  | .vxpose8 .. => false
  | _ => (formatOf s i).2 && fwStoch (formatOf s i).1

/-- R25, R34, R221, R335: the queue entry of an instruction of the moving hart. -/
def entryOf (s : State) (i : Instr) : QEntry :=
  let h := s.me
  let c := captures s i
  let st := capturesDraw s i
  { instr := i, addr := h.pc, seq := h.nextSeq, o1 := c.1, o2 := c.2.1, o3 := c.2.2, fw := (formatOf s i).1
    vl := match i with
      | .cbload .. => 1
      | .ginit => h.entries
      | _ => h.uw.vl.toNat
    g := h.gcode, ew := h.ewcode
    stoch := st, srctr := if st then h.uw.srctr else 0, hid := if st then s.cur else 0
    sm := fld h.uw.tl 8 0, sn := fld h.uw.mshape 31 16, sk := fld h.uw.mshape 47 32
    slip := fld h.uw.slip 4 0, space := { spaceOf s s.cur with ver := 0 }
    qa := boundQueue h i (vshape i).a, qb := boundQueue h i (vshape i).b }

/-- R207: the queues of a hart after an instruction has been queued. -/
def bindQueues (h : Hart) (e : QEntry) : Hart :=
  let use := fun (q : Vector LoadQueue 4) (n : Option Nat) => match n with
    | none => q
    | some n => match q[n]? with
      | none => q
      | some x => q.setIfInBounds n { x with bound := false, consumer := true }
  let q := use (use h.q e.qa) e.qb
  { h with q := match loadDest e.instr with
      | some (w, true, d) => q.setIfInBounds d.toNat { w := w, bound := true }
      | _ => q }

/-- The hart with an entry added to its queue. -/
def Hart.push (h : Hart) (e : QEntry) : Hart :=
  let h := bindQueues h e
  let h := { h with nextSeq := h.nextSeq + 1, uw := { h.uw with srctr := if e.stoch then h.uw.srctr + 1 else h.uw.srctr } }
  if isMatrix e.instr then { h with mq := h.mq ++ [e] } else { h with vq := h.vq ++ [e] }

/-- R300: the front end refuses vector and matrix instructions while the image of the level in force is held. -/
def Hart.imageHeld (h : Hart) : Bool := h.priv != .user && (h.level h.priv).qi

/-- R209: an instruction that meets an open queue binding. -/
def bindingFault (h : Hart) (i : Instr) : Bool :=
  (isBarrier i && h.openBinding) || match loadDest i with
    | some (_, true, d) => match h.q[d.toNat]? with
      | some q => q.bound && !q.consumer
      | none => false
    | _ => false

/-- R20, R206, R208, R221: the front end stalls before it queues an instruction. -/
def queueStall (h : Hart) (i : Instr) : Bool :=
  (h.vq.any fun e => match e.instr with
    | .vldFf .. => true
    | _ => false)
  || (if isMatrix i then decide (16 ≤ h.mq.length) else decide (64 ≤ h.vq.length))
  || match loadDest i with
    | some (_, true, d) => match h.q[d.toNat]? with
      | some q => q.consumer
      | none => false
    | _ => false

/-- R25, R206 to R209, R220, R221, R300: the front end queues a vector or matrix instruction of the moving hart. -/
def queueInstr (i : Instr) (s : State) : Out :=
  let h := s.me
  if h.imageHeld then s.illegal i
  else if isMatrix i && (s.core (coreOf s.cur)).owner != some s.cur then s.trapMe (cause 0x06)
  else if bindingFault h i then s.illegal i
  else if queueStall h i then .next s
  else .next ((s.setMe (h.push (entryOf s i))).pass (if isMatrix i then 8 else 4))

/-- R48: a vector store queued: a store that would overfill the strip store buffer commits the strip first. -/
def queueStore (i : Instr) (s : State) : Out := withRoom i s ((entryOf s i).storeBytes s.me) (queueInstr i)

/-! ## Dispatch (R25) -/

/-- R298: the fault of an entry at an element or row. -/
def QEntry.faultAt (t : TrapInfo) (x : Nat) : TrapInfo := { t with vf := true, idx := x }

/-- R58, R59, R175, R176, R181, R209: the format-word checks of a V-format instruction. -/
def badFormat (h : Hart) (e : QEntry) : Bool :=
  let v := vshape e.instr
  let f := e.fw
  let wd := codeWidth (fwD f)
  let wa := codeWidth (fwA f)
  let wb := codeWidth (fwB f)
  let isScale := match e.instr with
    | .vfscale .. => true
    | _ => false
  let queueWidth := fun (q : Option Nat) (w : Nat) => match q with
    | none => false
    | some n => match h.q[n]? with
      | some x => w != 8 * memWidth x.w
      | none => false
  v.fw.isSome &&
  (fwRsv f != 0 || fwRnd f == 7 || fwNb f == 3 || fwEdge f == 3 || decide (3 ≤ fwScale f)
  || !v.cd.admits (fwD f) || !v.ca.admits (fwA f) || !v.cb.admits (fwB f)
  || (fwNb f != 0 && !v.nb)
  || (fwScale f != 0 && !(isScale && fwB f == 8))
  || (match v.rule with
    | .free => false
    | .same3 => !(wd == wa && wa == wb)
    | .sameAB => wa != wb
    | .sameAD => wa != wd
    | .wide => decide (wd < 2 * max wa wb)
    | .dot => ((fmtOf (fwA f)).isInt != (fwD f == 10)) || ((fmtOf (fwB f)).isInt != (fwD f == 10)))
  || (match e.instr with
    | .vred _ _ o .. | .vscan _ _ o .. => o == 3 && !((fmtOf (fwA f)).isInt && (fmtOf (fwD f)).isInt)
    | .vxpose8 .. => wd != e.ewval
    | _ => false)
  || queueWidth e.qa wa || queueWidth e.qb wb)

/-- Two groups share a register. -/
def QEntry.share (e : QEntry) (x y : Grp) : Bool := (e.regs x).any fun r => (e.regs y).contains r

/-- R41, R188, R189, R200, R279: overlaps that are illegal. -/
def badOverlap (e : QEntry) : Bool :=
  let v := vshape e.instr
  match e.instr with
  | .vxpose8 .. => false
  | .gunite _ d a b =>
    let g := fun (r : Reg) => Grp.mk r.toNat 32 1
    (d != a && e.share (g d) (g a)) || (d != b && e.share (g d) (g b))
  | .gfind _ d a => d != a && e.share ⟨d.toNat, 32, 1⟩ ⟨a.toNat, 32, 1⟩
  | i =>
    match indexSrc i with
    | some b =>
      let data := match loadDest i, storeSrc i with
        | some (w, false, d), _ => [Grp.mk d.toNat (8 * memWidth w) 1]
        | _, some (w, d) => [Grp.mk d.toNat (8 * memWidth w) 1]
        | _, _ => []
      data.any fun g => e.share g ⟨b.toNat, e.ewval, 1⟩
    | none =>
      match v.d with
      | none => false
      | some d =>
        let D : Grp := ⟨d.toNat, codeWidth (fwD e.fw), 1⟩
        let bad := fun (r : Option Reg) (q : Option Nat) (w : Nat) (neighbour : Bool) => match r, q with
          | some r, none =>
            let S : Grp := ⟨r.toNat, w, v.mult⟩
            e.share D S && (v.barrier || v.mult == 4 || neighbour || e.regs D != e.regs S)
          | _, _ => false
        bad v.a e.qa (codeWidth (fwA e.fw)) (fwNb e.fw != 0) || bad v.b e.qb (codeWidth (fwB e.fw)) false

/-- R41, R43, R60, R67, R188, R191, R200, R209, R215: the other dispatch checks with cause 0x00. -/
def badRegisters (e : QEntry) : Bool :=
  let grp := match e.instr with
    | .vxpose8 .. => e.g != 0
    | .vfuq _ _ _ _ b =>
      decide (31 < e.companion b) ||
      ((e.reads ++ e.writes).filter fun g => g.mult != 0).any e.badGroup
    | .vfscale _ _ d a b =>
      (e.badGroup ⟨d.toNat, codeWidth (fwD e.fw), 1⟩) || (e.qa.isNone && e.badGroup ⟨a.toNat, codeWidth (fwA e.fw), 1⟩)
      || (e.qb.isNone && e.badGroup ⟨b.toNat, codeWidth (fwB e.fw), 1⟩)
    | _ => (e.reads ++ e.writes).any e.badGroup
  let queueLoad := match loadDest e.instr with
    | some (w, true, _) => decide (8 * e.ewval < e.gval * (8 * memWidth w))
    | _ => false
  grp || queueLoad || badOverlap e || (e.qa.isSome && fwNb e.fw != 0)

/-- R343: the address space of an entry, captured when it was queued, with the version bits in force now. -/
def QEntry.spaceNow (s : State) (e : QEntry) : Space :=
  { e.space with ver := kget 0 (s.partOf e.space.slot).ver e.space.asid.toNat }

/-- R204, R212, R278, R279, R284, R341: the dispatch checks of an entry on memory; every gathering instruction checks the forest
first. -/
def dispatchMemory (s : State) (i : Nat) (e : QEntry) : Except TrapInfo Unit :=
  let sp := e.spaceNow s
  match e.instr with
  | .vstN .. =>
    if e.o2 = 0 then .ok () else
    if touchesBuffer (e.guarded (s.hart i)) (s.hart i) i e.o2 8 then .error (cause 0x06 e.o2) else
    match locate s i sp false .store e.o2 with
    | .error t => .error t
    | .ok p => match p.loc with
      | .fabric .. => .error (cause 0x06 e.o2)
      | _ => if p.dev then .error (cause 0x06 e.o2) else .ok ()
  | .ginit | .gunite .. | .gfind .. => forestCheck s i sp
  | .grelabel .. => do
    forestCheck s i sp
    if e.o1.toNat % 4 ≠ 0 then .error (cause 0x02 e.o1) else .ok ()
  | _ => .ok ()

/-- R363: the error of an entry whose captured operands are poisoned. -/
def QEntry.error (i : Nat) (h : Hart) (e : QEntry) : Option TrapInfo := (h.mark (.entry e.seq)).map (regTrap i)

/-- R25: every check of an entry at its dispatch: the format word first, then registers, then memory. -/
def dispatchCheck (s : State) (i : Nat) (e : QEntry) : Except TrapInfo Unit :=
  match e.error i (s.hart i) with
  | some t => .error t
  | none =>
  if badFormat (s.hart i) e then .error (cause 0x14 e.fw)
  else if badRegisters e then .error (cause 0x00 (first32 e.instr))
  else dispatchMemory s i e

/-- R372, R329: the units of a hart can move. -/
def unitsMove (s : State) (i : Nat) : Bool :=
  let h := s.hart i
  s.hold.phase == .none && (s.core (coreOf i)).gate == .active && h.mode != .free

/-- A queue with one entry replaced. -/
def putEntry (q : List QEntry) (n : Nat) (e : QEntry) : List QEntry := q.set n e

/-- R35, R67, R222: an undispatched entry at place `n` of its queue waits. -/
def dispatchWaits (h : Hart) (e : QEntry) (n : Nat) : Bool :=
  (isBarrier e.instr && n != 0)
  || (h.mq.any fun q => q.seq < e.seq && crossWaits h e q)
  || (match e.instr with
    | .vfuq _ _ _ _ b => (h.vq.take n).any fun q => groupsWait e [⟨e.companion b, 8, 0⟩] q q.writes q.vl
    | _ => false)

/-- R25, R67, R343: an entry that has passed its checks. -/
def QEntry.start (s : State) (i : Nat) (e : QEntry) : QEntry :=
  { e with
    dispatched := true, space := e.spaceNow s
    eps := match e.instr with
      | .vfuq _ _ _ _ b =>
        if e.k = 0 then BitVec.ofNat 64 ((s.hart i).elem (e.companion b) (codeWidth (fwB e.fw)) 0) else e.eps
      | _ => e.eps }

/-- R25: the oldest entry of a hart that has not been dispatched is dispatched. -/
def dispatchNext (s : State) (i : Nat) : State :=
  let h := s.hart i
  match h.vq.findIdx? fun e => !e.dispatched with
  | none => s
  | some n =>
    match h.vq[n]? with
    | none => s
    | some e =>
      if !unitsMove s i || e.fault.isSome || dispatchWaits h e n then s else
      let e' := match dispatchCheck s i e with
        | .ok _ => e.start s i
        | .error t => { e with fault := some (QEntry.faultAt t e.k) }
      s.setHart i { h with vq := putEntry h.vq n e' }

/-- VECTOR_DISPATCH. -/
def execVectorDispatch (s : State) : Out := .next (dispatchNext s s.input.hart)

/-! ## The commit of an element group (R36 to R38) -/

/-- R37, R214, R284: the end of the group that holds element `lo`. -/
def groupEnd (h : Hart) (e : QEntry) (lo : Nat) : Nat :=
  let g := match e.instr with
    | .ginit | .grelabel .. | .vamoadd .. | .vamomin .. | .vamomax .. | .vamoor .. | .vamoand .. | .vamoxor .. => 64
    | _ => h.leff
  if (vshape e.instr).whole then e.vl else min e.vl ((lo / g + 1) * g)

/-- R280, R291: the end of what one step of an entry commits: `ginit` is no single step, and takes `input.word` entries in each,
or up to 64 where that is 0. -/
def stepEnd (s : State) (h : Hart) (e : QEntry) (lo : Nat) : Nat :=
  match e.instr with
  | .ginit => if s.input.word = 0 then groupEnd h e lo else min e.vl (lo + s.input.word.toNat)
  | _ => groupEnd h e lo

/-- R176, R178, R363: one element of an element-wise instruction. -/
def computeStep (i : Nat) (e : QEntry) (s : State) (x : Nat) : ElemOut :=
  let h := s.hart i
  if !h.admits (vshape e.instr).m x then .ok s else
  match sourcePoison h e x with
  | some k => .error (.trap (regTrap i k))
  | none => match elementOp h e x with
    | some p => .ok (s.setHart i (applyPut h e x p))
    | none => .ok s

/-- The source elements that an instruction that commits all or nothing reads, as base, width and element. -/
def wholeReads (h : Hart) (e : QEntry) : List (Nat × Nat × Nat) :=
  let wa := codeWidth (fwA e.fw)
  let at' := fun (a : Reg) (l : List Nat) => l.map fun y => (a.toNat, wa, y)
  match e.instr with
  | .vred m _ _ _ a | .vscan m _ _ _ a | .vsig m _ _ a | .vcompress m _ _ a => at' a (actives h e m)
  | .vperm m _ _ a b =>
    (actives h e m).map (fun x => (b.toNat, codeWidth (fwB e.fw), x))
    ++ at' a ((actives h e m).filterMap fun x =>
      let j := (numB h e b x).toInt
      if 0 ≤ j ∧ j < e.vl then some j.toNat else none)
  | .vslup m _ _ a _ => at' a ((actives h e m).filterMap fun x => if e.o1.toNat ≤ x then some (x - e.o1.toNat) else none)
  | .vsldn m _ _ a _ => at' a (((actives h e m).map (· + e.o1.toNat)).filter (· < e.vl))
  | .vexpand m _ _ a => at' a (List.range (actives h e m).length)
  | .vxpose8 _ _ d => (List.range 8).flatMap fun j => (List.range e.vl).map fun x => (d.toNat + j, e.ewval, x)
  | .vmvx _ a _ => if e.o1.toNat < e.vl then [(a.toNat, e.ewval, e.o1.toNat)] else []
  | _ => []

/-- R363: a poisoned word among the sources of an instruction that commits all or nothing. -/
def wholePoison (h : Hart) (e : QEntry) : Option Nat :=
  ((wholeReads h e).findSome? fun p => h.elemPoison p.1 p.2.1 p.2.2).orElse fun _ =>
  ((List.range e.vl).findSome? fun x => (maskPoison h e x).orElse fun _ => queuePoison h e x).orElse fun _ => tablePoison h e

/-- How a step of an entry ends: the state, the new progress index, and a fault. -/
abbrev GroupOut := Except Halt (State × Nat × Option TrapInfo)

/-- Elements `lo` to `hi − 1` of an entry handled by `f`. -/
def groupOf (i : Nat) (e : QEntry) (f : State → Nat → ElemOut) (s : State) (lo hi : Nat) : GroupOut := do
  let r ← runElems (maskedStep i e f) s ((List.range (hi - lo)).map (lo + ·))
  return match r.2 with
    | none => (r.1, hi, none)
    | some (x, t) => (r.1, x, some t)

/-- A chunk applied whole or not at all (R96). -/
def chunkOut (s : State) (lo hi : Nat) (r : Except TrapInfo State) : GroupOut :=
  match r with
  | .ok t => .ok (t, hi, none)
  | .error t => .ok (s, lo, some t)

/-- R284: the write-backs of `grelabel.b` end the instruction; a fault leaves every chunk applied. -/
def relabelEnd (s : State) (i : Nat) (e : QEntry) (a b : Reg) : GroupOut :=
  match relabelBack s i e a b with
  | .ok t => .ok (t, e.vl, none)
  | .error f => .ok (s, e.vl, some f)

/-- R42, R51, R173, R284: what an entry does that has no element left: nothing under VL 0, not even to a scalar register (log 73,
DEDUCED), and the write-backs of a `grelabel.b`. -/
def runRest (s : State) (i : Nat) (e : QEntry) : GroupOut :=
  match e.instr with
  | .grelabel _ true _ _ a b => relabelEnd s i e a b
  | _ => .ok (s, e.vl, none)

/-- R205: a group of `vld.ff`; a trim ends the instruction and becomes `cw.vl`. -/
def firstFault (s : State) (i : Nat) (e : QEntry) (w : BitVec 2) (d : Reg) (lo hi : Nat) : GroupOut := do
  let p ← trimPoint s i e (memWidth w) ((List.range (hi - lo)).map (lo + ·))
  let r ← groupOf i e (loadStep i e w false d) s lo (p.getD hi)
  match r.2.2, p with
  | none, some k =>
    let h := r.1.hart i
    return (r.1.setHart i { h with uw := { h.uw with vl := BitVec.ofNat 64 k } }, e.vl, none)
  | _, _ => return r

/-- R284: the roots that a chunk has found, kept for the write-backs. -/
def keepRoots (s : State) (i : Nat) (e : QEntry) : State :=
  s.setHart i { s.hart i with vq := (s.hart i).vq.map fun q => if q.seq = e.seq then { q with done := e.done } else q }

/-- R101, R212: the group of `vst.n` that ends at `hi`: its stores, then its add. -/
def notifyGroup (s : State) (i : Nat) (e : QEntry) (w : BitVec 2) (d : Reg) (lo hi : Nat) : GroupOut := do
  let r ← groupOf i e (storeStep i e w d) s lo hi
  let base := lo / (s.hart i).leff * (s.hart i).leff
  return match r.2.2, notifyAdd r.1 i e (hi - base) with
    | some _, _ => r
    | none, .ok t => (t, r.2)
    | none, .error f => (s, lo, some f)

/-- The elements `lo` to `hi − 1` of an entry. -/
def runGroup (s : State) (i : Nat) (e : QEntry) (lo hi : Nat) : GroupOut :=
  let xs := (List.range (hi - lo)).map (lo + ·)
  match e.instr with
  | .cbload t _ => match cbLoad s i e t with
    | .ok u => .ok (u, hi, none)
    | .error (.trap f) => .ok (s, lo, some f)
    | .error h => .error h
  | .vldFf w _ d _ => firstFault s i e w d lo hi
  | .vstN w _ d _ => notifyGroup s i e w d lo hi
  | .vamoadd w _ d _ _ | .vamomin w _ d _ _ | .vamomax w _ d _ _ | .vamoor w _ d _ _ | .vamoand w _ d _ _
  | .vamoxor w _ d _ _ => chunkOut s lo hi (vamoChunk s i e w d xs)
  | .gunite _ d _ _ | .gfind _ d _ => groupOf i e (gatherStep i e d) s lo hi
  | .ginit => do
    let r ← groupOf i e (initStep i e) s lo hi
    return if r.2.1 = e.vl then (r.1.setHart i (r.1.hart i).initDone, r.2) else r
  | .grelabel fs wb _ _ a b =>
    match relabelChunk s i e fs a b xs with
    | .error f => .ok (s, lo, some f)
    | .ok (t, l) =>
      let e := { e with done := e.done ++ l }
      if !wb then .ok (t, hi, none) else if hi = e.vl then relabelEnd t i e a b else .ok (keepRoots t i e, hi, none)
  | j =>
    match loadDest j, storeSrc j with
    | some (w, q, d), _ => groupOf i e (loadStep i e w q d) s lo hi
    | _, some (w, d) => groupOf i e (storeStep i e w d) s lo hi
    | none, none =>
      if (vshape j).whole then
        match wholePoison (s.hart i) e with
        | some k => .ok (s, 0, some (regTrap i k))
        | none => .ok (s.setHart i (wholeOp (s.hart i) e), e.vl, none)
      else groupOf i e (computeStep i e) s lo hi

/-- R44, R367: the lanes of a protected hart disagree at an active element. -/
def divergence (i : Nat) : TrapInfo := { cause := 0x0D, err := some ⟨6, 0, 3, coreOf i, 0xFFF, 0, 0⟩ }

/-- A group cut at element `x` by a fault, unless an element below it has faulted. -/
def cutWith (f : TrapInfo) (x : Nat) (r : State × Nat × Option TrapInfo) : State × Nat × Option TrapInfo :=
  match r.2.2 with
  | some _ => r
  | none => (r.1, x, some f)

/-- R44, R367: a group cut at element `x` by a divergence. -/
def cutAt (i x : Nat) (r : State × Nat × Option TrapInfo) : State × Nat × Option TrapInfo := cutWith (divergence i) x r

/-- R44, R96, R205, R212, R367: the elements of a group up to one, `x`, whose mirrored results differ: none of an instruction or a
chunk that commits all or nothing; at or above a trim no element is compared; a group that is cut has no progress add. -/
def runDiverged (s : State) (i : Nat) (e : QEntry) (lo hi x : Nat) : GroupOut :=
  match e.instr with
  | .vamoadd .. | .vamomin .. | .vamomax .. | .vamoor .. | .vamoand .. | .vamoxor .. | .grelabel .. =>
    .ok (s, lo, some (divergence i))
  | .vldFf w _ d _ => do
    match ← trimPoint s i e (memWidth w) ((List.range (x + 1 - lo)).map (lo + ·)) with
    | some _ => firstFault s i e w d lo hi
    | none => return cutAt i x (← groupOf i e (loadStep i e w false d) s lo x)
  | .vstN w _ d _ => do return cutAt i x (← groupOf i e (storeStep i e w d) s lo x)
  | j => if (vshape j).whole then .ok (s, lo, some (divergence i)) else do return cutAt i x (← runGroup s i e lo x)

/-- R59, R208: the leading elements of the load queue at an operand that an entry gives up when it has committed the elements below
`k`: as many, or one to 32 where the queue holds block scales, which are read until then (log 74, DEDUCED). -/
def QEntry.consumed (e : QEntry) (b : Bool) (k : Nat) : Nat :=
  if b && fwScale e.fw != 0 then k / 32 else k

/-- R208: the whole groups that a consumer has committed leave the load queue. -/
def releaseQueue (h : Hart) (n : Option Nat) (used : Nat) : Hart :=
  match n with
  | none => h
  | some n => match h.q[n]? with
    | none => h
    | some x =>
      let g := used / h.leff
      { h with q := h.q.setIfInBounds n { x with released := g, elems := x.elems.filter fun p => g * h.leff ≤ p.1 } }

/-- R207: the queues after a consumer has completed. -/
def endQueue (h : Hart) (n : Option Nat) : Hart :=
  match n with
  | none => h
  | some n => match h.q[n]? with
    | none => h
    | some x => { h with q := h.q.setIfInBounds n { x with consumer := false } }

/-- R362: an entry writes bit `x` of the masks that it writes. -/
def QEntry.writesBit (h : Hart) (e : QEntry) (x : Nat) : Bool :=
  match e.instr with
  | .vscan .. | .vcompress .. | .vexpand .. => true
  | .vred .. => false
  | .vslup m _ _ _ _ => h.admits m x && decide (e.o1.toNat ≤ x)
  | j => h.admits (vshape j).m x

/-- R362: the marks of the mask words of which an entry has written every bit between its progress index and `k`. -/
def Hart.unmarkMasks (h : Hart) (e : QEntry) (k : Nat) : Hart :=
  h.unmark fun m => match m with
    | .mask r w => e.maskWrites.contains r && decide (e.k ≤ 64 * w) && decide (64 * w + 64 ≤ k)
        && (List.range 64).all fun j => e.writesBit h (64 * w + j)
    | _ => false

/-- R37, R284: what stays of the elements performed ahead when the elements below `k` have committed: the later ones, and the
roots that `grelabel.b` has found. -/
def QEntry.later (e : QEntry) (vq : List QEntry) (n k : Nat) : List (Nat × Nat) :=
  match e.instr with
  | .grelabel .. => (vq[n]?.map QEntry.done).getD []
  | _ => e.done.filter fun p => k ≤ p.1

/-- R37, R38: the entry at place `n` after a step of it: its progress index, its fault, or its completion. -/
def settle (s : State) (i n : Nat) (e : QEntry) (k : Nat) (fault : Option TrapInfo) : State :=
  let h := s.hart i
  let h := releaseQueue (releaseQueue (h.unmarkMasks e k) e.qa (e.consumed false k)) e.qb (e.consumed true k)
  let h := match e.queueOut with
    | none => h
    | some q => match h.q[q]? with
      | none => h
      | some x => { h with q := h.q.setIfInBounds q { x with progress := k } }
  match fault with
  | some t =>
    (forget s e.asked).setHart i
      { h with vq := putEntry h.vq n { e with k := k, fault := some (QEntry.faultAt t k), done := [], asked := [] } }
  | none =>
    if e.vl ≤ k then
      let h := endQueue (endQueue h e.qa) e.qb
      (forget s e.asked).setHart i { h with vq := h.vq.eraseIdx n }
    else s.setHart i { h with vq := putEntry h.vq n { e with k := k, done := e.later h.vq n k } }

/-- R208: a queue load has 16 groups waiting for the consumer; behind the consumer no group waits. -/
def queueFull (h : Hart) (e : QEntry) (lo : Nat) : Bool :=
  match e.queueOut with
  | none => false
  | some q => match h.q[q]? with
    | none => false
    | some x => (x.bound || x.consumer) && decide (x.released + 16 ≤ lo / h.leff)

/-- R34: the number of the element group that holds an element. -/
def groupOrd (h : Hart) (e : QEntry) (x : Nat) : Nat :=
  if (vshape e.instr).whole then 0 else x / max 1 (groupEnd h { e with vl := 2 ^ 20 } 0)

/-- R34: the element groups of an entry that have not committed. -/
def QEntry.groupsLeft (h : Hart) (e : QEntry) : Nat :=
  if e.vl ≤ e.k then 0 else groupOrd h e (e.vl - 1) + 1 - groupOrd h e e.k

/-- R34: the group of element `x` of the entry at place `n` is more than `cw.slip` groups ahead of the oldest unfinished one. -/
def slipWaits (h : Hart) (e : QEntry) (n x : Nat) : Bool :=
  decide (e.slip < (h.vq.take n).foldl (fun m q => m + q.groupsLeft h) 0 + (groupOrd h e x - groupOrd h e e.k))

/-- R35, R36, R203, R208, R222: the entry at place `n` cannot commit its elements below `hi` yet. -/
def commitWaits (h : Hart) (e : QEntry) (n hi : Nat) : Bool :=
  let earlier := h.vq.take n
  (isBarrier e.instr && n != 0)
  || (earlier.any fun q => isBarrier q.instr || waitsFor h e q hi)
  || (h.mq.any fun q => q.seq < e.seq && crossWaits h e q)
  || queueFull h e e.k || slipWaits h e n e.k

/-- R34 to R36: element `x` of the entry at place `n` cannot be performed ahead yet: what it reads is not committed, its access
must stay behind an earlier one, or it is too far ahead. -/
def aheadWaits (h : Hart) (e : QEntry) (n x : Nat) : Bool :=
  (isBarrier e.instr && n != 0)
  || ((h.vq.take n).any fun q => isBarrier q.instr || needsFrom h { e with k := x } q (x + 1))
  || (h.mq.any fun q => q.seq < e.seq && crossWaits h e q)
  || queueFull h e x || slipWaits h e n x

/-- R37, R87, R281: element `x` may be performed by itself now: in any order where the accesses are unordered, in ascending order
for the pairs and finds of the gathering engine, whose group must be the next to commit (log 61, DESIGN CHOICE). -/
def aheadAllowed (h : Hart) (e : QEntry) (x : Nat) : Bool :=
  decide (e.k ≤ x) && decide (x < e.vl) && h.admits (vshape e.instr).m x && (e.ahead x).isNone && !isOrdered e.instr
  && ((gatherDest e.instr).isNone || (decide (x < groupEnd h e e.k) && (List.range (x - e.k)).all fun y =>
    !h.admits (vshape e.instr).m (e.k + y) || (e.ahead (e.k + y)).isSome))

/-- R37, R87, R202, R291: element `x` performed by itself, ahead of the commit of its group: the state and the value that
waits; it waits where the form has no such elements. A fault is found again by the commit. -/
def aheadElem (s : State) (i : Nat) (e : QEntry) (x : Nat) : Except Halt (State × Nat) :=
  match e.instr with
  | .vldFf .. | .vamoadd .. | .vamomin .. | .vamomax .. | .vamoor .. | .vamoand .. | .vamoxor .. => .error .wait
  | j => match gatherDest j, loadDest j, storeSrc j with
    | some _, _, _ => gatherElem s i e x
    | none, some (w, _, _), _ =>
      if (sourcePoison (s.hart i) e x).isSome then .error .wait else loadElem s i e (memWidth w) x
    | none, none, some (w, d) => (storeElem s i e w d x true).map fun t => (t, 0)
    | none, none, none => .error .wait

/-- R357: the entry at place `n` of a hart's vector queue notes the request of element `x`. -/
def noteAsked (i n : Nat) (e : QEntry) (t : State) (x id : Nat) : State :=
  let h := t.hart i
  t.setHart i { h with vq := putEntry h.vq n { e with asked := kput e.asked x id } }

/-- R34, R37: element `x` of the entry at place `n` performed ahead of the commit of its group. -/
def performAhead (s : State) (i n : Nat) (e : QEntry) (x : Nat) : State :=
  let h := s.hart i
  if !aheadAllowed h e x || aheadWaits h e n x || (maskPoison h e x).isSome then s else
  match aheadElem s i e x with
  | .error p => p.send s i (noteAsked i n e)
  | .ok (t, v) => t.setHart i { t.hart i with vq := putEntry (t.hart i).vq n { e with done := (x, v) :: e.done } }

/-- R292, R367: the lanes can disagree at element `x` of the elements `lo` to `hi − 1`: at user privilege in protected mode, at an
active element that has not been performed, or anywhere in an instruction that makes one scalar of them. -/
def canDiverge (h : Hart) (e : QEntry) (lo hi x : Nat) : Bool :=
  h.prot && e.space.priv == .user && decide (lo ≤ x) && decide (x < hi)
  && ((xDest e.instr).isSome || (h.admits (vshape e.instr).m x && (e.ahead x).isNone))

/-- R363: an entry whose operands are poisoned faults at element `lo`; where pairs of its group have been performed it has read
them, and faults behind those. -/
def runPoisoned (s : State) (i : Nat) (e : QEntry) (lo hi : Nat) (t : TrapInfo) : GroupOut :=
  if !e.gathering then .ok (s, lo, some t) else
  let x := (((List.range (hi - lo)).map (lo + ·)).find? fun x =>
    (s.hart i).admits (vshape e.instr).m x && (e.ahead x).isNone).getD hi
  do return cutWith t x (← runGroup s i e lo x)

/-- R37: the next element group of the entry at place `n` of a hart's vector queue commits. -/
def commitGroup (s : State) (i n : Nat) : State :=
  let h := s.hart i
  match h.vq[n]? with
  | none => s
  | some e =>
    let lo := e.k
    let hi := stepEnd s h e lo
    let x := s.input.word.toNat
    if !unitsMove s i || !e.dispatched || e.fault.isSome then s
    else if s.input.queue ≠ 0 then performAhead s i n e x
    else if commitWaits h e n hi then s
    else
      let r : GroupOut := match e.error i h with
        | some t => runPoisoned s i e lo hi t
        | none =>
          if e.vl ≤ lo then runRest s i e
          else if s.input.bad && canDiverge h e lo hi x then runDiverged s i e lo hi x else runGroup s i e lo hi
      match r with
      | .error p => p.send s i (noteAsked i n e)
      | .ok (t, k, f) => settle t i n e k f

/-- GROUP_COMMIT; where `input.queue` is not 0, element `input.word` is performed ahead of its group. -/
def execGroupCommit (s : State) : Out := .next (commitGroup s s.input.hart s.input.index)

end Sys2Proof.Machine
end

