-- ==== Sys2Proof/Machine/Arbiter.lean ====
section
/-! DEFINITION. The lane arbiter of a core (R320 to R322, R289), grant points (R26, R30, R31), and the instructions `vsetl`
and `vgrant` (R173, R174). -/

namespace Sys2Proof.Machine

/-! ## Slices -/

/-- The `n` lowest slices of a bitmap. -/
def lowest (f : BitVec 8) (n : Nat) : BitVec 8 :=
  (((List.range 8).filter fun j => f.getLsbD j).take n).foldl (fun b j => b ||| BitVec.ofNat 8 (1 <<< j)) 0
/-- The `n` highest slices of a bitmap. -/
def highest (f : BitVec 8) (n : Nat) : BitVec 8 := f &&& ~~~(lowest f (popc8 f - n))

/-- The slices that a hart holds, or has been given before its start. -/
def Hart.heldSlices (h : Hart) : BitVec 8 := h.slices ||| ((h.resv.map Reservation.got).getD 0)
def Hart.held (h : Hart) : Nat := popc8 h.heldSlices

/-- R321: the free slices of a core. -/
def freeSlices (s : State) (c : Nat) : BitVec 8 :=
  ~~~((hartsOf c).foldl (fun b i => b ||| (s.hart i).heldSlices) 0)

/-- R21: a context runs on the hart. -/
def Hart.live (h : Hart) : Bool := h.mode != .free

/-- R31: vector and queue state read as zero after a change of the grant. -/
def Hart.zeroLanes (h : Hart) : Hart :=
  { h with v := Vector.replicate 32 0, m := Vector.replicate 8 0, q := Vector.replicate 4 {}, vpoison := [],
           sram := h.sram.filter fun m => match m.1 with
      | .mask .. | .queue .. => false
      | _ => true }

/-! ## Waiting harts (R321) -/

/-- A waiting hart, with the slices it needs and the slices it prefers. -/
structure Waiter where
  hart : Nat
  prio : Nat
  order : Nat
  min : Nat
  pref : Nat
deriving DecidableEq, Repr

/-- R319, R321: a reserved hart without slices, or a running hart that waits for a raised minimum. -/
def waiterOf (i : Nat) (h : Hart) : Option Waiter :=
  match h.resv with
  | some r => if r.got = 0 then some ⟨i, r.prio, r.order, r.min, r.pref⟩ else none
  | none => match h.mode with
    | .waiting (.lease ..) _ => some ⟨i, h.prio, h.order, h.leaseMin - h.held, h.leasePref - h.held⟩
    | _ => none

def Waiter.before (a b : Waiter) : Bool := a.prio < b.prio || (a.prio == b.prio && a.order ≤ b.order)

/-- R321: the waiting harts of a core, in order of priority, then of the time they were reserved. -/
def waiters (s : State) (c : Nat) : List Waiter :=
  sortBy Waiter.before ((hartsOf c).filterMap fun i => waiterOf i (s.hart i))

/-- R321: a hart of the core has been reserved and not started, or waits for a raised minimum. -/
def anyWaiting (s : State) (c : Nat) : Bool :=
  (hartsOf c).any fun i => (s.hart i).resv.isSome || (waiterOf i (s.hart i)).isSome

/-! ## Yield requests (R289, R322) -/

/-- R322: the order in which harts are asked: lowest priority first, then the largest `cw.sdefct`, then the highest index. -/
def askBefore (a b : Nat × Hart) : Bool :=
  a.2.prio > b.2.prio || (a.2.prio == b.2.prio && (a.2.sw.sdefct.toNat > b.2.sw.sdefct.toNat
    || (a.2.sw.sdefct == b.2.sw.sdefct && a.1 ≥ b.1)))

/-- R322: one hart asked for `y` slices. -/
def askFor (s : State) (w : Waiter) (i y : Nat) (all : Bool) : State :=
  s.setHart i { (s.hart i).setYreq true with yreq := y, yall := all, yfor := w.hart }

/-- R322: requests to a list of harts, until the slices asked for reach the minimum; `f` counts them. -/
def askAll (w : Waiter) : List (Nat × Hart) → Nat → State → State
  | [], _, s => s
  | (i, h) :: r, f, s =>
    if w.min ≤ f then s
    else if h.yreq ≠ 0 then askAll w r f s
    else
      let all := h.held ≤ h.leaseMin
      let y := if all then h.held else min (w.pref - f) (h.held - h.leaseMin)
      if y = 0 then askAll w r f s else askAll w r (f + y) (askFor s w i y all)

/-- R322: `request_yields(w)`. -/
def requestYields (s : State) (c : Nat) (w : Waiter) : State :=
  let lower := ((hartsOf c).map fun i => (i, s.hart i)).filter fun p => p.2.live && decide (w.prio < p.2.prio)
  let free := popc8 (freeSlices s c)
  if lower.foldl (fun n p => n + p.2.held) free < w.min then s else
  let asked := (hartsOf c).foldl (init := 0) fun n i =>
    let h := s.hart i
    if h.yreq ≠ 0 && h.yfor = w.hart then n + h.yreq else n
  let above := sortBy askBefore (lower.filter fun p => p.2.leaseMin < p.2.held)
  let at' := sortBy askBefore (lower.filter fun p => p.2.held ≤ p.2.leaseMin)
  askAll w (above ++ at') (free + asked) s

/-- R322: the requests made for a hart that are not met yet are withdrawn. -/
def withdraw (s : State) (w : Nat) : State :=
  (hartsOf (coreOf w)).foldl (init := s) fun t i =>
    let h := t.hart i
    if h.yreq ≠ 0 && h.yfor = w then t.setHart i { h.setYreq false with yreq := 0, yall := false } else t

/-! ## The end of a `vsetl` (R173) -/

/-- R29: VLMAX for a group code and an element-width code. -/
def Hart.vlmax (h : Hart) (ew n : BitVec 2) : Nat := 2 ^ n.toNat * 256 * h.leff / (8 * 2 ^ ew.toNat)

/-- R45, R173: the guarded-strip part of a `vsetl` at user privilege. -/
def Hart.newStrip (h : Hart) : Hart :=
  if h.priv != .user then h
  else if h.uw.guard.getLsbD 0 then
    { h with gs := true, rollbacks := if h.gs then h.rollbacks else 0 }.checkpoint h.pc true
  else { h with gs := false, ckpt := none }

/-- R173: the `vsetl` of hart `i` from the computation of VL on. -/
def finishVsetl (s : State) (i : Nat) (ew n : BitVec 2) (d a : Reg) : State :=
  let h := s.hart i
  let vl := min (h.getX a).toNat (h.vlmax ew n)
  let h := h.setX d (BitVec.ofNat 64 vl)
  let h := { h with uw := { h.uw with vl := BitVec.ofNat 64 vl, vgrp := at64 2 ew.toNat ||| at64 0 n.toNat } }
  advanceStreams (s.setHart i (h.newStrip.advance 4)) i vl

/-! ## Runs of the arbiter (R321) -/

/-- R31, R44: slices and the protected bit asked for taken by a running hart. -/
def Hart.regrant (h : Hart) (sl : BitVec 8) (prot : Bool) : Hart :=
  if sl = h.slices && prot = h.prot then h else (h.setGrant sl prot).zeroLanes

/-- R321: slices given to a waiting hart. -/
def giveSlices (s : State) (i : Nat) (b : BitVec 8) : State :=
  let h := s.hart i
  s.setHart i (match h.resv with
    | some r => { h with resv := some { r with got := r.got ||| b } }
    | none => h.regrant (h.slices ||| b) (h.uw.guard.getLsbD 1))

/-- R321 pass 1: minima; it answers the harts that received slices. -/
def passMinima (c : Nat) : List Waiter → State → State × List Waiter
  | [], s => (s, [])
  | w :: r, s =>
    let f := freeSlices s c
    if w.min ≤ popc8 f then
      let t := passMinima c r (giveSlices s w.hart (lowest f w.min))
      (t.1, w :: t.2)
    else (requestYields s c w, [])

/-- R321 pass 2: up to the preferred count; a `vsetl.g` that waited completes, which wakes its core (R329, R330). -/
def passPreferred (s : State) (c : Nat) (l : List Waiter) : State :=
  l.foldl (init := s) fun s w =>
    let f := freeSlices s c
    let s := giveSlices s w.hart (lowest f (min (w.pref - w.min) (popc8 f)))
    let h := s.hart w.hart
    match h.mode with
    | .waiting (.lease ew n d a) _ =>
      wakeCore (withdraw (finishVsetl (s.setHart w.hart { h with mode := .running }) w.hart ew n d a) w.hart) c
    | _ => s

/-- R321: passes 1 and 2. -/
def runPasses (s : State) (c : Nat) : State :=
  let r := passMinima c (waiters s c) s
  passPreferred r.1 c r.2

/-- R320: the run of core `c`'s arbiter for the event it has not run for yet. -/
def runPending (s : State) (c : Nat) : State :=
  if (s.core c).arb then runPasses (s.setCore c { s.core c with arb := false }) c else s

/-- R320: an event of core `c`'s arbiter, which comes behind the run for the one before it; `f` is what the event changes. -/
def arbEvent (s : State) (c : Nat) (f : State → State) : State :=
  let t := f (runPending s c)
  t.setCore c { t.core c with arb := true }

/-! ## Causes taken at a boundary without an instruction of the hart (R296) -/

/-- R32, R48, R166, R252, R320: a pre-emption taken by hart `i`: the open strip is committed, unless its buffer is in error (R366);
behind the commit's last store the channels stop and the hart traps. -/
def takePreempt (s : State) (i code : Nat) : State :=
  let h := s.hart i
  match if h.guarded then bufferError s i else none with
  | some t => trapEnter (performSome s i) i t
  | none =>
    let (t, done) := if h.guarded then commitStrip s i h.pc false else (s, true)
    if !done then t else
    arbEvent t (coreOf i) fun t =>
      let t := stopChannels t i
      let h := { (t.hart i).waitPoint with preempt := (t.hart i).preempt.erase code }
      trapEnter (t.setHart i h) i ((preemptTrap code).atSpine h)

/-- R359: the entry of the trap of a failed remote store. -/
def takeStoreFault (s : State) (i : Nat) : Option State :=
  let h := s.hart i
  h.storeFault.map fun f => trapEnter (s.setHart i { h.wakePoint with storeFaults := h.storeFaults.erase f }) i (f.2.atSpine h)

/-- R296 items 4 to 6: the cause that a hart takes where no earlier cause is ready, and its entry: a copy or stream fault, a failed
store (R359), and at user privilege a Spine trap or a pre-emption. A pre-emption commits a guarded strip first (R48), and goes on
with a commit under way; every other cause waits for that commit (R102), and all of them for the group of a gathering instruction in
progress, whose results agree with one order of its steps (R291). -/
def lateTrap (s : State) (i : Nat) : Option State :=
  let h := s.hart i
  let preempted := match h.preempt with
    | c :: _ => if h.priv != .user || (h.guarded && !h.drained) then none else some (takePreempt s i c)
    | [] => none
  if h.mode == .free || h.midGather then none
  else if h.committing then preempted
  else match h.channelFault with
  | some t => some (trapEnter (s.setHart i h.wakePoint) i (t.atSpine h))
  | none =>
    match takeStoreFault s i with
    | some u => some u
    | none =>
      match h.spineTrap with
      | some t =>
        if h.priv == .user && h.atSpine then some (trapEnter (s.setHart i { h with spineTrap := none }) i t) else preempted
      | none => preempted

/-- ARBITER_RUN: the run for a binding, a reservation, an exit, a pre-emption or an expired window (R320); none once the
hold-up sequence has begun (R372). -/
def execArbiterRun (s : State) : Out :=
  if s.hold.phase == .none then .next (runPending s s.input.core) else .next s

/-- YIELD_WINDOW_EXPIRY (R32, R322): the hart is pre-empted; not once the hold-up sequence has begun (R372). -/
def execYieldWindowExpiry (s : State) : Out :=
  let i := s.input.hart
  let h := s.hart i
  if s.hold.phase != .none || h.yreq = 0 || !h.live || h.preempt.contains 0 then .next s
  else .next (wakeCore (arbEvent s (coreOf i) fun s =>
    s.setHart i { s.hart i with preempt := (s.hart i).preempt ++ [0] }) (coreOf i))

/-! ## Grant points (R26, R30, R44, R321) -/

/-- R26: the minimum and preferred counts of a lease word. -/
def leaseMinOf (w : W64) : Nat := max 1 (fld w 3 0)
def leasePrefOf (w : W64) : Nat := max (leaseMinOf w) (min 8 (fld w 7 4))

/-- R321: whether a running hart ranks ahead of another. -/
def ranksAhead (j : Nat) (g : Hart) (i : Nat) (h : Hart) : Bool :=
  g.prio < h.prio || (g.prio == h.prio && (g.sw.sdefct.toNat < h.sw.sdefct.toNat
    || (g.sw.sdefct == h.sw.sdefct && j < i)))

/-- R321: the slices reserved for running harts below their preferred count that rank ahead of hart `i`. -/
def reservedAhead (s : State) (i : Nat) : Nat :=
  (hartsOf (coreOf i)).foldl (init := 0) fun n j =>
    let g := s.hart j
    if j ≠ i && g.live && g.held < g.leasePref && ranksAhead j g i (s.hart i) then n + (g.leasePref - g.held) else n

/-- A running hart's slices, with nothing zeroed yet. -/
def setSlices (s : State) (i : Nat) (b : BitVec 8) : State := s.setHart i ((s.hart i).setGrant b (s.hart i).prot)

/-- R321: the part of a run that concerns the hart at the grant point. Slices released above the preferred count go to waiting
harts in the next run, which follows (the worked example of 20_scheduler.md, t5). -/
def grantShare (s : State) (i : Nat) : State :=
  let c := coreOf i
  let h := s.hart i
  if h.yreq ≠ 0 then
    let keep := h.slices &&& ~~~(highest h.slices (min h.yreq (h.held - h.leaseMin)))
    let s := setSlices s i keep
    let h := { (s.hart i).setYreq false with yreq := 0, yall := false, preempt := h.preempt.erase 0 }
    runPasses (s.setHart i h) c
  else if h.leasePref < h.held then
    let t := setSlices s i (lowest h.slices h.leasePref)
    t.setCore c { t.core c with arb := true }
  else if anyWaiting s c then s
  else
    let f := freeSlices s c
    setSlices s i (h.slices ||| lowest f (min (h.leasePref - h.held) (popc8 f - reservedAhead s i)))

/-- How a grant point ends. -/
inductive Granted where
  | done (s : State)
  /-- the hart is pre-empted, or waits, or has waited and gone on -/
  | over (s : State)
  | trap (t : TrapInfo)
deriving DecidableEq, Repr

/-- R30: the grant point of the moving hart at a `vsetl.g` with the given fields. -/
def grantPoint (s : State) (ew n : BitVec 2) (d a : Reg) : Granted :=
  let i := s.cur
  let s := runPending s (coreOf i)
  let L := s.me.uw.lease
  if 9 ≤ fld L 3 0 then .trap (cause 0x12 L) else
  let h : Hart := { s.me with leaseMin := leaseMinOf L, leasePref := leasePrefOf L }
  if h.yreq ≠ 0 && (h.yall || h.held ≤ h.leaseMin) then .over (takePreempt s i 0)
  else if h.held < h.leaseMin then
    .over (runPasses (s.setMe { h with mode := .waiting (.lease ew n d a) false }) (coreOf i))
  else
    let t := grantShare (runPasses (s.setMe h) (coreOf i)) i
    let g := t.me
    let prot := g.uw.guard.getLsbD 1
    .done (t.setMe (if g.slices = h.slices && prot = h.prot then g else (g.setGrant g.slices prot).zeroLanes))

/-- R206: a `vld.ff` is still queued. -/
def Hart.firstFaultPending (h : Hart) : Bool := h.vq.any fun e => match e.instr with
  | .vldFf .. => true
  | _ => false

def execVsetl (g : Bool) (ew n : BitVec 2) (d a : Reg) (s : State) : Out :=
  let i := Instr.vsetl g ew n d a
  let h := s.me
  let user := h.priv == .user
  if h.imageHeld || (g && !user) || h.openBinding then s.illegal i
  else if h.firstFaultPending then .next s
  else
    let last := fun (s : State) =>
      if g then match grantPoint s ew n d a with
        | .trap t => s.trapMe t
        | .over s => .next s
        | .done s => .next (finishVsetl s s.cur ew n d a)
      else .next (finishVsetl s s.cur ew n d a)
    if g || (user && (h.gs || h.uw.guard.getLsbD 0)) then whenDrained i s fun s => afterCommit i s last else last s

/-- R174: `cw.grant` [17:0] once the queues are empty. -/
def execVgrant (d : Reg) (s : State) : Out :=
  if s.me.imageHeld then s.illegal (.vgrant d) else
  whenDrained (.vgrant d) s fun s => .next (s.write d (at64 0 (fld s.me.uw.grant 17 0)))

end Sys2Proof.Machine
end

