-- ==== Sys2Proof/Machine/Spine.lean ====
section
/-! DEFINITION. The Spine: chains, their schedule, calls, copies, signatures and repairs (R260 to R275). -/

namespace Sys2Proof.Machine

/-! ## The schedule (R265) -/

/-- The binomial coefficient C(n, k). -/
def binom (n k : Nat) : Nat := (List.range k).foldl (fun a i => a * (n - i) / (i + 1)) 1

/-- R265: the least r with C(c + 1 + r, c + 1) ≥ m, searched from `r` over `fuel` values. -/
def leastR (m c : Nat) (r : Nat) : Nat → Nat
  | 0 => r
  | fuel + 1 => if m ≤ binom (c + 1 + r) (c + 1) then r else leastR m c (r + 1) fuel

/-- R265: T(m, c), the advances that reversing m steps with c free slots takes. -/
def advances (m c : Nat) : Nat :=
  let r := leastR m c 0 m
  r * m - binom (c + 1 + r) (c + 2)

/-- R265: ν: the largest value in [1, m − 1] of least cost. -/
def bestSplit (m c : Nat) : Nat :=
  let cost := fun v => v + advances (m - v) (c - 1) + advances v c
  (List.range (m - 1)).foldl (fun b i => if cost (i + 1) ≤ cost b then i + 1 else b) 1

/-- R265: the lowest-numbered free slot. -/
def freeSlot (l : List (Nat × Nat)) : Nat := ((List.range 65).find? fun i => !l.any fun p => p.1 = i).getD 64

/-- R265: the next action of a schedule and the schedule behind it; `fuel` bounds the steps that give no action. -/
def Sched.next (p : Sched) : Nat → Option (Action × Sched)
  | 0 => none
  | fuel + 1 =>
    match p.todo with
    | [] => none
    | .rev a m c :: r =>
      let l := if m ≤ 1 then [.need a, .adj a]
        else if c = 0 then [.need a, .advs a (m - 1), .adj (a + (m - 1)), .rev a (m - 1) 0]
        else
          let v := bestSplit m c
          [.need a, .advs a v, .snapNext, .rev (a + v) (m - v) (c - 1), .free (a + v), .rev a v c]
      Sched.next { p with todo := l ++ r } fuel
    | .need a :: r =>
      if p.live = a then Sched.next { p with todo := r } fuel
      else match p.slots.find? fun q => q.2 = a with
        | some q => some (.restore q.1, { p with todo := r, live := a })
        | none => Sched.next { p with todo := r } fuel
    | .advs _ 0 :: r => Sched.next { p with todo := r } fuel
    | .advs a (n + 1) :: r => some (.advance a, { p with todo := .advs (a + 1) n :: r, live := a + 1 })
    | .adj k :: r => some (.adjoint k, { p with todo := r })
    | .snapNext :: r =>
      let f := freeSlot p.slots
      some (.snap f, { p with todo := r, slots := p.slots ++ [(f, p.live)] })
    | .free st :: r => Sched.next { p with todo := r, slots := p.slots.filter fun q => q.2 ≠ st } fuel

/-- R265: slots freed at the head of a schedule, with no action before them. -/
def dropFrees : List Todo → List (Nat × Nat) → List Todo × List (Nat × Nat)
  | .free st :: r, l => dropFrees r (l.filter fun q => q.2 ≠ st)
  | t, l => (t, l)

/-- R265: the schedule behind an action that has completed: a slot is free from then on. -/
def Sched.settled (p : Sched) : Sched :=
  let r := dropFrees p.todo p.slots
  { p with todo := r.1, slots := r.2 }

/-- No more silent steps than this stand between two actions. -/
def silentSteps : Nat := 16

/-- R265: the schedule of a chain of n steps with s bookmarks. -/
def Sched.start (n s : Nat) : Sched := { todo := [.snapNext, .rev 0 n (s - 1)] }

/-! ## Frames -/

/-- The innermost frame. -/
def Hart.frame (h : Hart) : Option Frame := h.frames.getLast?

/-- R263, R267: the next action of a frame with the schedule behind it: a repair's, or the schedule's. -/
def Frame.action (f : Frame) : Option (Action × Sched) :=
  match f.repairs with
  | [] => f.sched.next silentSteps
  | (i, k) :: _ =>
    let below := (f.slots.zipIdx).filter fun p => p.1.1 && decide (p.1.2 < k)
    let best := below.foldl (fun (b : Option ((Bool × Nat) × Nat)) p => match b with
      | none => some p
      | some q => if q.1.2 < p.1.2 then some p else b) none
    match best with
    | none => none
    | some q =>
      some (if !f.lvalid || f.live < q.1.2 || k < f.live then .restore q.2
        else if f.live < k then .advance f.live else .snap i, f.sched)

/-- R273: one more action of a kind in the schedule counts. -/
def tallyAction (l : List Nat) (a : Action) : List Nat :=
  let i := match a with
    | .advance _ => 0
    | .restore _ => 1
    | .snap _ => 2
    | .adjoint _ => 3
  l.modify i (· + 1)

/-- R263 to R265, R267: an action of a frame completes: a schedule action is counted, and a slot that the schedule frees
behind it is no longer valid. -/
def Frame.complete (f : Frame) (a : Action) (p : Sched) : Frame :=
  let f := { f with phase := .idle }
  if !f.repairs.isEmpty then f else
  { f with
    act := f.act + 1
    tally := tallyAction f.tally a
    sched := p.settled
    slots := f.slots.mapIdx fun i v => if (p.slots.any (·.1 = i)) && !(p.settled.slots.any (·.1 = i)) then (false, v.2) else v }

/-- R273: the counts of a frame. -/
def Frame.counts (f : Frame) : List W64 :=
  (f.tally.map fun n => BitVec.ofNat 64 n) ++ [f.mism.setWidth 64, f.reps.setWidth 64]

/-- R261, R274: the innermost frame is popped with a value in x10. -/
def endChain (s : State) (i : Nat) (v : W64) : State :=
  let h := s.hart i
  match h.frame with
  | none => s
  | some f => s.setHart i { h.setX 10 v with frames := h.frames.dropLast, ended := f.counts, pc := evenAddr f.cont }

/-- The innermost frame replaced. -/
def setFrame (s : State) (i : Nat) (f : Frame) : State := s.setHart i ((s.hart i).modFrame fun _ => f)

/-- R261: a frame whose last action has completed ends. -/
def settleFrame (s : State) (i : Nat) (f : Frame) : State :=
  let t := setFrame s i f
  if f.phase = .idle && f.action.isNone then endChain t i 0 else t

/-- R264: the address of a slot. -/
def Frame.slotAddr (f : Frame) (i : Nat) : W64 := f.d.marks + BitVec.ofNat 64 (i * f.d.wlen)

/-- R270, R296, R298: a trap of the Spine: it waits for its turn at user privilege. -/
def spinePost (s : State) (i : Nat) (t : TrapInfo) : State :=
  let h := s.hart i
  let t := { t with sp := true, hard := true, code := if t.namesCode then t.code else BitVec.ofNat 8 h.chdepth }
  if h.priv = .user then s.setHart i { h with spineTrap := some t } else trapEnter s i t

/-- R298: the fault of a Spine copy. -/
def spineFault (f : Frame) (t : TrapInfo) : TrapInfo :=
  { t with code := 6 + (t.code <<< 4), idx := f.cvstart, seq := f.seq, cf := true }

/-! ## Spine copies (R264, R270) -/

/-- One piece of a Spine copy, from byte `x` on; the lines of its two ranges coincide (R260). -/
def spinePiece (s : State) (i : Nat) (f : Frame) (src dst : W64) (x n : Nat) : Except TrapInfo (State × Nat) := do
  let sv := src + BitVec.ofNat 64 x
  let dv := dst + BitVec.ofNat 64 x
  let p ← commandPlace s i f.space false .load sv
  let q ← commandPlace s i f.space false .store dv
  match p.loc, q.loc with
  | .fabric .., _ => .error (cause 0x06 sv)
  | _, .fabric .. => .error (cause 0x06 dv)
  | l, m =>
    let k ← cleanPart s (dieOf i) sv l (lineStep dv n)
    let t := engineReach s (dieOf i) l k
    return (engineWrite t (dieOf i) m (engineRead t (dieOf i) l k), k)

/-- R97, R264: `k` bytes from byte `x` of a Spine copy on have landed; a restore that lands bytes leaves no state live. -/
def Frame.land (f : Frame) (restore : Bool) (x k : Nat) : Frame :=
  let r := absorbPieces f.cvstart ((x, k) :: f.pieces) (f.pieces.length + 1)
  { f with cvstart := r.1, pieces := r.2, lvalid := if restore then false else f.lvalid }

/-- R97: a Spine copy over `n` bytes, piece by piece, from the lowest byte that has not landed on; or one piece, `off` bytes above it. A
fault is that of the lowest byte. -/
def spineCopy (i : Nat) (src dst : W64) (restore : Bool) (off : Nat) : Nat → Nat → State → Frame → State × Frame × Option TrapInfo
  | 0, _, s, f => (s, f, none)
  | fuel + 1, n, s, f =>
    let x := f.cvstart + off
    let left := upToPiece f.pieces x (min n (f.d.wlen - x))
    if left = 0 || f.pieces.any (fun p => decide (p.1 ≤ x) && decide (x < p.1 + p.2)) then (s, f, none) else
    match spinePiece s i f src dst x left with
    | .error t => (s, f, if off = 0 then some t else none)
    | .ok (t, k) =>
      if off = 0 then spineCopy i src dst restore off fuel (n - k) t (f.land restore x k) else (t, f.land restore x k, none)

/-- R264, R343: a Spine copy begins: it takes the next sequence number of channel 6 and the version in force. -/
def beginCopy (s : State) (i : Nat) (f : Frame) (ph : Phase) : State × Frame :=
  if f.phase = ph then (s, f) else
  let x := (s.hart i).chan 6
  let sp := { f.space with ver := kget 0 (s.partOf f.space.slot).ver f.space.asid.toNat }
  (s.setChan i 6 { x with seq := x.seq + 1 }, { f with phase := ph, cvstart := 0, pieces := [], seq := x.seq + 1, space := sp })

/-- R253, R264: a Spine copy has completed. -/
def endCopy (s : State) (i : Nat) : State := s.setChan i 6 { (s.hart i).chan 6 with lastFailed := false }

/-- R265: the CRC-64 of the window. -/
def windowHash (s : State) (i : Nat) (sp : Space) (f : Frame) : Except TrapInfo (State × W64) := do
  let t := homeRange s i sp f.d.win f.d.wlen
  let bs ← readRange t i sp false f.d.win f.d.wlen
  return (t, crc64 bs)

/-- R266: the address of a signature entry. -/
def Frame.sigAddr (f : Frame) (k : Nat) : W64 := f.d.sig + BitVec.ofNat 64 (8 * k)

/-- R266: the place of a signature entry in the package. -/
def sigPlace (s : State) (i : Nat) (sp : Space) (acc : Acc) (va : W64) : Except TrapInfo Loc := do
  let p ← locate s i sp false acc va
  match p.loc with
  | .fabric .. => .error (cause 0x06 va)
  | l => return l

/-- R266: a signature entry written. -/
def writeSig (s : State) (i : Nat) (sp : Space) (f : Frame) (k : Nat) (v : W64) : Except TrapInfo State := do
  let l ← sigPlace s i sp .store (f.sigAddr k)
  return engineWrite s (dieOf i) l (toLE 8 v.toNat)

/-- R266: a signature entry read. -/
def readSig (s : State) (i : Nat) (sp : Space) (f : Frame) (k : Nat) : Except TrapInfo (State × W64) := do
  let l ← sigPlace s i sp .load (f.sigAddr k)
  let s := toHome s (dieOf i) l
  consume s (dieOf i) (f.sigAddr k) l 8
  return (s, BitVec.ofNat 64 (ofLE (engineRead s (dieOf i) l 8)))

/-! ## SNAP and RESTORE (R264, R266, R267) -/

/-- R266: SNAP(0) of a chain with signatures writes entry 0. -/
def firstSig (s : State) (i : Nat) (f : Frame) : Except TrapInfo (State × Frame) :=
  if f.d.sigcheck && f.act = 0 && f.repairs.isEmpty then do
    let (s, v) ← windowHash s i f.space f
    let t ← writeSig s i f.space f 0 v
    return (t, { f with signed := 1 })
  else .ok (s, f)

/-- R267: the end of a repair: the interrupted RESTORE completes. -/
def Frame.repaired (f : Frame) : Frame :=
  match f.repairs with
  | [] => f
  | (_, k) :: r =>
    let f := { f with repairs := r, reps := f.reps + 1, live := k, lvalid := true }
    if r.isEmpty then match f.action with
      | some (a, p) => f.complete a p
      | none => f
    else f

/-- SNAP(j): about `n` bytes of it in one step, `off` bytes above the lowest that has not landed. -/
def snapStep (s : State) (i j : Nat) (p : Sched) (n off : Nat) (f : Frame) : State :=
  let b := beginCopy s i f .snapCopy
  let (s, f, e) := spineCopy i f.d.win (f.slotAddr j) false off (f.d.wlen / 8 + 1) n b.1 b.2
  match e with
  | some t => spinePost (setFrame s i f) i (spineFault f t)
  | none =>
    if f.cvstart < f.d.wlen then setFrame s i f else
    match firstSig (endCopy s i) i f with
    | .error t => spinePost (setFrame s i f) i t
    | .ok (s, f) =>
      let f := { f with slots := f.slots.set j (true, f.live) }
      if f.repairs.isEmpty then settleFrame s i (f.complete (.snap j) p)
      else settleFrame s i ({ f with phase := .idle } : Frame).repaired

/-- R267: a repair of slot `j` begins; the state that is live serves only where it is the one that the repair restores. -/
def Frame.beginRepair (f : Frame) (j k : Nat) : Frame :=
  let g := { f with phase := .idle, repairs := (j, k) :: f.repairs }
  match g.action with
  | some (.restore _, _) => g
  | _ =>
    let below := (g.slots.filter fun v => v.1 && decide (v.2 < k)).foldl (fun b v => max b v.2) 0
    if g.live = below then g else { g with lvalid := false }

/-- R363, R365: the error of a slot that the Spine repairs is consumed and logged, as handled (act 4; log 11, DEDUCED). -/
def logRepair (s : State) (i : Nat) (t : TrapInfo) : State := reportError s i t 4

/-- RESTORE(j): about `n` bytes of it in one step, `off` bytes above the lowest that has not landed. -/
def restoreStep (s : State) (i j : Nat) (p : Sched) (n off : Nat) (f : Frame) : State :=
  let b := beginCopy s i f .restoreCopy
  let (s, f, e) := spineCopy i (f.slotAddr j) f.d.win true off (f.d.wlen / 8 + 1) n b.1 b.2
  let k := (f.slots.getD j (false, 0)).2
  match e with
  | some t =>
    if t.cause = 0x09 && !t.hard && k ≠ 0 then setFrame (logRepair s i t) i (f.beginRepair j k)
    else spinePost (setFrame s i f) i (spineFault f t)
  | none =>
    if f.cvstart < f.d.wlen then setFrame s i f else
    settleFrame (endCopy s i) i (({ f with live := k, lvalid := true } : Frame).complete (.restore j) p)

/-! ## Routine calls (R262) -/

/-- R262: a routine of the innermost frame is called for state `k`. -/
def callStep (s : State) (i k : Nat) (ph : Phase) (entry : W64) (f : Frame) : State :=
  let h := s.hart i
  let depth := BitVec.ofNat 64 h.chdepth
  let t := setFrame s i { f with phase := ph, sx2 := h.getX 2, sx4 := h.getX 4 }
  let h := (((t.hart i).setX 10 f.d.arg).setX 11 (BitVec.ofNat 64 k)).setX 12 depth
  t.setHart i { h with pc := evenAddr entry }

/-- R270: the Spine acts on a hart. -/
def spineMoves (s : State) (i : Nat) : Bool :=
  let h := s.hart i
  h.atSpine && h.spineTrap.isNone && (h.mode == .running || h.mode == .trapped) && !h.paused
  && s.hold.phase == .none && (s.core (coreOf i)).gate == .active

/-- R264: the Spine's next action for a hart, when `want` admits it; a copy moves `n` bytes and the rest of an 8-byte word
(R78), all of them where `n` is 0, `off` bytes, in whole words, above the lowest byte that has not landed. -/
def spineStep (s : State) (i n off : Nat) (want : Action → Bool) : State :=
  if !spineMoves s i then s else
  match (s.hart i).frame with
  | none => s
  | some f =>
    let n := if n = 0 then f.d.wlen else (n + 7) / 8 * 8
    match f.action with
    | none => endChain s i 0
    | some (a, p) =>
      if !want a then s else
      match a with
      | .snap j => snapStep s i j p n (off / 8 * 8) f
      | .restore j => restoreStep s i j p n (off / 8 * 8) f
      | .advance k => callStep s i k .inAdvance f.d.step f
      | .adjoint k => callStep s i k .inAdjoint f.d.adj f

/-- SNAP, RESTORE, ADVANCE and ADJOINT of the hart `input.hart`. -/
def execSnap (s : State) : Out := .next (spineStep s s.input.hart s.input.index s.input.word.toNat fun a => match a with
  | .snap _ => true
  | _ => false)
def execRestore (s : State) : Out := .next (spineStep s s.input.hart s.input.index s.input.word.toNat fun a => match a with
  | .restore _ => true
  | _ => false)
def execAdvance (s : State) : Out := .next (spineStep s s.input.hart 0 0 fun a => match a with
  | .advance _ => true
  | _ => false)
def execAdjoint (s : State) : Out := .next (spineStep s s.input.hart 0 0 fun a => match a with
  | .adjoint _ => true
  | _ => false)

/-! ## `chain` (R260) -/

/-- R122: the fields of a chain descriptor. -/
def chainDescOf (w : List W64) : ChainDesc :=
  let z := fun i => w.getD i 0
  { step := z 0, adj := z 1, win := z 2, wlen := fld (z 3) 31 0, n := fld (z 4) 31 0, s := fld (z 4) 39 32
    clobber := (z 3).getLsbD 32, sigcheck := (z 3).getLsbD 33, sigtrap := (z 3).getLsbD 34
    marks := z 5, sig := z 6, arg := z 7 }

/-- R260: the ranges of a chain. -/
def ChainDesc.ranges (d : ChainDesc) : List (W64 × Nat) :=
  [(d.win, d.wlen), (d.marks, d.s * d.wlen)] ++ (if d.sigcheck then [(d.sig, 8 * d.n)] else [])

def rangesMeet (a b : W64 × Nat) : Bool :=
  decide (a.1.toNat < b.1.toNat + b.2) && decide (b.1.toNat < a.1.toNat + a.2)

/-- R298: cause 0x13 with its code. -/
def chainTrap (code : Nat) : TrapInfo := { cause := 0x13, code := BitVec.ofNat 8 code }

/-- R260: the checks on the fields of a descriptor. -/
def chainFields (w : List W64) (d : ChainDesc) : Bool :=
  let z := fun i => w.getD i 0
  fld (z 3) 63 35 == 0 && fld (z 4) 63 40 == 0 && d.wlen != 0 && d.wlen % 64 == 0 && decide (d.wlen ≤ 2 ^ 20)
  && decide (1 ≤ d.n) && decide (d.n ≤ 2 ^ 24) && decide (1 ≤ d.s) && decide (d.s ≤ 64) && (!d.sigtrap || d.sigcheck)
  && d.win.toNat % 64 == 0 && d.marks.toNat % 64 == 0 && (!d.sigcheck || d.sig.toNat % 8 == 0)

/-- R260: a range of a chain that touches the aperture or the reserved range, or leaves its region. -/
def rangeFault (r : W64 × Nat) : Option TrapInfo :=
  match regionOf r.1.toNat, leavesRegion r.1 r.2 with
  | .aperture _, _ | .reserved, _ => some (cause 0x06 r.1)
  | _, some v => some (cause 0x06 v)
  | _, none => none

/-- R260: a descriptor as `chain` checks it. -/
def chainCheck (w : List W64) : Except TrapInfo ChainDesc :=
  let d := chainDescOf w
  let r := d.ranges
  if !chainFields w d then .error (chainTrap 2)
  else if !decide (r.Pairwise fun a b => rangesMeet a b = false) then .error (chainTrap 2)
  else match r.findSome? rangeFault with
    | some t => .error t
    | none => .ok d

/-- R263: every copy on channels 0 to 6 has completed or failed. -/
def Hart.channelsEmpty (h : Hart) : Bool := h.ch.toList.all fun x => x.copies.isEmpty

/-- R168: a user-level interrupt handler runs. -/
def Hart.inh (h : Hart) : Bool := h.uw.uicause.getLsbD 4

/-- R260: the frame pushed. -/
def pushChain (s : State) (va : W64) (d : ChainDesc) : State :=
  let f : Frame :=
    { desc := va, d := d, cont := s.me.pc + 4, sched := Sched.start d.n d.s, space := spaceOf s s.cur }
  s.setMe { s.me with frames := s.me.frames ++ [f], ended := [0, 0, 0, 0, 0, 0] }

def execChain (a : Reg) (s : State) : Out :=
  let va := s.rx a
  bindingFirst (.chain a) s true <|
  if s.me.inh then s.trapMe (chainTrap 4)
  else if va.toNat % 64 ≠ 0 then s.trapMe (cause 0x02 va)
  else afterCommit (.chain a) s fun s => whenDrained (.chain a) s fun s =>
    let s := homeRange s s.cur (spaceOf s s.cur) va 64
    match readRange s s.cur (spaceOf s s.cur) false va 64 with
    | .error t => s.trapMe t
    | .ok bs =>
      if 4 ≤ s.me.chdepth then s.trapMe (chainTrap 0)
      else if (s.me.chan 6).stream.isSome then s.trapMe (chainTrap 4)
      else match chainCheck (wordsOf 8 bs) with
        | .error t => s.trapMe t
        | .ok d => if s.me.channelsEmpty then .next (pushChain s va d) else .next s

/-! ## `chret`, `chstat`, `chabort` (R263, R266, R273, R274) -/

/-- R266: what a mismatch does behind the completed action. -/
def mismatch (s : State) (i k : Nat) (f : Frame) : State :=
  let h := s.hart i
  if f.d.sigtrap then
    spinePost s i { cause := 0x0A, val := BitVec.ofNat 64 k, code := BitVec.ofNat 8 h.chdepth }
  else uiEvent s i h.tag 4 h.chdepth (BitVec.ofNat 64 k)

/-- R266: the signature step for state `k`: the state, the frame, and whether there was a mismatch. -/
def signature (s : State) (f : Frame) (k : Nat) : Except TrapInfo (State × Frame × Bool) :=
  if !f.d.sigcheck then .ok (s, f, false) else do
  let sp := spaceOf s s.cur
  let (s, v) ← windowHash s s.cur sp f
  if f.signed ≤ k then
    let t ← writeSig s s.cur sp f k v
    return (t, { f with signed := k + 1 }, false)
  else
    let (s, w) ← readSig s s.cur sp f k
    return (s, if w = v then f else { f with mism := f.mism + 1 }, w != v)

/-- R263: the routine call of the innermost frame ends. -/
def endCall (s : State) (f : Frame) (a : Action) (p : Sched) : Out :=
  match a with
  | .advance k =>
    match signature s { f with live := k + 1, lvalid := true } (k + 1) with
    | .error t => s.trapMe t
    | .ok (t, g, bad) =>
      let t := settleFrame t t.cur (g.complete a p)
      .next (if bad then mismatch t t.cur (k + 1) f else t)
  | _ => .next (settleFrame s s.cur (({ f with lvalid := f.lvalid && !f.d.clobber } : Frame).complete a p))

def execChret (s : State) : Out :=
  bindingFirst .chret s true <|
  match s.me.frame with
  | none => s.trapMe (chainTrap 4)
  | some f =>
    if s.me.inh || (f.phase != .inAdvance && f.phase != .inAdjoint) then s.trapMe (chainTrap 4)
    else if s.rx 2 ≠ f.sx2 || s.rx 4 ≠ f.sx4 then s.trapMe (chainTrap 1)
    else afterCommit .chret s fun s => whenDrained .chret s fun s =>
      if !s.me.channelsEmpty then .next s else
      match f.action with
      | none => .next s
      | some (a, p) => endCall s f a p

def execChstat (sel : BitVec 5) (d : Reg) (s : State) : Out :=
  whenDrained (.chstat sel d) s fun s =>
    let l := match s.me.frame with
      | none => s.me.ended
      | some f => f.counts
    .next (s.write d (l.getD sel.toNat 0))

def execChabort (s : State) : Out :=
  bindingFirst .chabort s true <|
  if s.me.frames.isEmpty || s.me.inh then s.trapMe (chainTrap 4)
  else afterCommit .chabort s fun s => whenDrained .chabort s fun s =>
    if s.me.channelsEmpty then .next (endChain s s.cur (~~~0)) else .next s

end Sys2Proof.Machine
end

