-- ==== Sys2Proof/Machine/Words.lean ====
section
/-! DEFINITION. The user control words of a hart (R24, R26, R27, R34, R45, R66, R161, R162, R168, R193, R211, R217, R223,
R259, R275, R277, R384, R387): how each reads, which bits it holds, and how it is stored. -/

namespace Sys2Proof.Machine

/-- Bits `hi` to `lo` set. -/
def bits (hi lo : Nat) : W64 := at64 lo (2 ^ (hi + 1 - lo) - 1)

/-- R277: `cw.gmarks`. -/
def Hart.gmarks (h : Hart) : W64 := at64 32 (h.oldest % 2 ^ 31) ||| at64 0 h.marks.length

/-- R275: `cw.chact`. -/
def Hart.chact (h : Hart) : W64 := BitVec.ofNat 64 (((h.frame.map Frame.act).getD 0) % 2 ^ 48)

/-- R328: the core's cycle count as run. -/
def cycleOf (s : State) (i : Nat) : W64 := s.cycle - (s.core (coreOf i)).lost

/-- R162: user control word `n` of hart `i`; an unassigned number holds 0. -/
def userWord (s : State) (i n : Nat) : W64 :=
  let h := s.hart i
  let w := h.uw
  match n with
  | 0x000 => cycleOf s i
  | 0x002 => BitVec.ofNat 64 i
  | 0x003 => w.gang
  | 0x010 => w.vl
  | 0x011 => w.vgrp
  | 0x012 => w.lease
  | 0x013 => w.grant
  | 0x014 => w.slip
  | 0x015 => h.vcp
  | 0x016 => BitVec.ofNat 64 h.vq.length
  | 0x018 => w.guard
  | 0x019 => w.vcarry
  | 0x01A => w.prog
  | 0x01F => w.fflags
  | 0x020 => w.seed
  | 0x021 => w.srctr
  | 0x028 => w.lscale
  | 0x029 => w.lgrow
  | 0x02A => w.lint
  | 0x02B => w.lsticky
  | 0x030 => w.gforest
  | 0x031 => w.gcount
  | 0x032 => w.glog
  | 0x033 => w.glogend
  | 0x034 => w.gseq
  | 0x035 => w.gclasses
  | 0x036 => h.gmarks
  | 0x040 => w.uivec
  | 0x041 => w.uicause
  | 0x042 => w.uimask
  | 0x048 => w.ramotag
  | 0x049 => w.ramostat
  | 0x050 => w.energy
  | 0x051 => BitVec.ofNat 64 (s.power.step % 16)
  | 0x058 => w.colarb
  | 0x060 => w.mshape
  | 0x061 => w.tl
  | 0x068 => BitVec.ofNat 64 h.chdepth
  | 0x069 => h.chact
  | _ => 0

/-- The bits that user control word `n` holds; every other bit is reserved. -/
def userLayout (n : Nat) : W64 :=
  match n with
  | 0x000 | 0x003 | 0x010 | 0x015 | 0x020 | 0x021 | 0x050 => bits 63 0
  | 0x002 => bits 11 0
  | 0x011 => bits 3 0
  | 0x012 => bits 7 0
  | 0x013 => bits 17 0
  | 0x014 => bits 4 0
  | 0x016 => bits 6 0
  | 0x018 => bits 63 32 ||| bits 1 0
  | 0x019 => 0x9F9F9F9F
  | 0x01A => bits 54 3
  | 0x01F => bits 4 0
  | 0x028 | 0x029 | 0x02A | 0x035 => bits 31 0
  | 0x02B => bits 12 0
  | 0x030 => bits 54 6
  | 0x031 | 0x034 => bits 30 0
  | 0x032 | 0x033 => bits 54 4
  | 0x036 => bits 62 32 ||| bits 2 0
  | 0x040 => bits 54 1
  | 0x041 => bits 63 8 ||| bits 4 0
  | 0x042 => bits 5 1
  | 0x048 => bits 47 0
  | 0x049 => bits 15 8 ||| bits 2 0
  | 0x051 | 0x058 => bits 3 0
  | 0x060 => bits 63 63 ||| bits 47 0
  | 0x061 => bits 8 0
  | 0x068 => bits 2 0
  | 0x069 => bits 47 0
  | _ => 0

/-- A user control word that State stores set to a value; the others are left alone. -/
def UserWords.put (w : UserWords) (n : Nat) (v : W64) : UserWords :=
  match n with
  | 0x003 => { w with gang := v }
  | 0x010 => { w with vl := v }
  | 0x011 => { w with vgrp := v }
  | 0x012 => { w with lease := v }
  | 0x014 => { w with slip := v }
  | 0x018 => { w with guard := v }
  | 0x019 => { w with vcarry := v }
  | 0x01A => { w with prog := v }
  | 0x01F => { w with fflags := v }
  | 0x020 => { w with seed := v }
  | 0x021 => { w with srctr := v }
  | 0x028 => { w with lscale := v }
  | 0x029 => { w with lgrow := v }
  | 0x02A => { w with lint := v }
  | 0x02B => { w with lsticky := v }
  | 0x030 => { w with gforest := v }
  | 0x031 => { w with gcount := v }
  | 0x032 => { w with glog := v }
  | 0x033 => { w with glogend := v }
  | 0x034 => { w with gseq := v }
  | 0x035 => { w with gclasses := v }
  | 0x040 => { w with uivec := v }
  | 0x041 => { w with uicause := v }
  | 0x042 => { w with uimask := v }
  | 0x048 => { w with ramotag := v }
  | 0x049 => { w with ramostat := v }
  | 0x050 => { w with energy := v }
  | 0x058 => { w with colarb := v }
  | 0x060 => { w with mshape := v }
  | 0x061 => { w with tl := v }
  | _ => w

/-- The numbers of R162. -/
def userNumbers : List Nat :=
  [0x000, 0x002, 0x003, 0x010, 0x011, 0x012, 0x013, 0x014, 0x015, 0x016, 0x018, 0x019, 0x01A, 0x01F, 0x020, 0x021, 0x028,
   0x029, 0x02A, 0x02B, 0x030, 0x031, 0x032, 0x033, 0x034, 0x035, 0x036, 0x040, 0x041, 0x042, 0x048, 0x049, 0x050, 0x051,
   0x058, 0x060, 0x061, 0x068, 0x069]

/-- R336: the address space of the user context that a hart holds, whatever its privilege. -/
def userSpace (s : State) (i : Nat) : Space :=
  let slot := slotOfHart s i
  let asid := BitVec.ofNat 16 (s.hart i).sw.sasid.toNat
  { priv := .user, asid := asid, slot := slot, ver := kget 0 (s.partOf slot).ver asid.toNat }

/-! ## Hold-up admission (R122, R369, R370) -/

/-- R369: what an item of `n` bytes is charged. -/
def charge (n : Nat) : Nat := (n + 63) / 64 * 64 + 64 * ((n + 65535) / 65536) + 128

/-- R369: the size of a context's record. -/
def recordBytes (d : MsDecl) : Nat := 0x21000 + (if d.vreg then 0x10000 else 0) + (if d.acc then 0x102000 else 0)

/-- R369: what a context with a declaration is charged. -/
def contextCharge (d : MsDecl) : Nat :=
  d.ranges.foldl (fun n r => if r.2 = 0 then n else n + charge r.2) (charge (recordBytes d))

/-- R122: the declaration in 34 words; none where a reserved field is nonzero or there are more than 16 ranges. -/
def declOf (w : List W64) : Option MsDecl :=
  let z := fun i => w.getD i 0
  let n := fld (z 0) 23 16
  if fld (z 0) 63 24 ≠ 0 || fld (z 0) 7 4 ≠ 0 || z 1 ≠ 0 || 16 < n then none
  else some
    { vreg := (z 0).getLsbD 0, mask := (z 0).getLsbD 1, acc := (z 0).getLsbD 2, cbook := (z 0).getLsbD 3
      prio := fld (z 0) 15 8, ranges := (List.range n).map fun i => (z (2 + 2 * i), (z (3 + 2 * i)).toNat) }

/-- R370, R393: a declaration read in a space. -/
def readDecl (s : State) (i : Nat) (sp : Space) (va : W64) : Except TrapInfo (Option MsDecl) :=
  match leavesRegion va 272 with
  | some v => .error (cause 0x06 v)
  | none => (readRange s i sp false va 272).map fun bs => declOf (wordsOf 34 bs)

/-- R370: the hold share of a partition admits a new charge in place of an old one. -/
def admits (p : Part) (old new : Nat) : Bool := decide (p.total - old + new ≤ p.record.hold)

/-- R370, R371: a declaration and its charge take the place of a hart's own. -/
def setDecl (s : State) (i : Nat) (d : Option MsDecl) (addr : W64) : State :=
  let h := s.hart i
  let c := (d.map contextCharge).getD 0
  let s := s.modPart (slotOfHart s i) fun p => { p with total := p.total - h.charge + c }
  s.setHart i { s.hart i with decl := d, charge := c, sw := { h.sw with smsave := addr } }

/-- R371: the declaration at an address admitted for a hart in place of its own; an error leaves all as it is. -/
def admitDecl (s : State) (i : Nat) (addr : W64) : Except TrapInfo State := do
  if addr = 0 then return setDecl s i none 0
  else
    let s := homeRange s i (userSpace s i) addr 272
    let d ← readDecl s i (userSpace s i) addr
    match d with
    | none => .error (cause 0x06 addr)
    | some d =>
      if admits (s.partOf (slotOfHart s i)) (s.hart i).charge (contextCharge d) then return setDecl s i (some d) addr
      else .error (cause 0x06 addr)

end Sys2Proof.Machine
end

