-- ==== Sys2Proof/Machine/System.lean ====
section
/-! DEFINITION. The SYS instructions of one hart (R50, R163, R164, R171, R299, R306, R309, R328, R340, R344, R345), and
the steps of trap entry, user-level interrupts, waits and gating (R158, R164, R169, R170, R296, R328 to R330, R337). -/

namespace Sys2Proof.Machine

/-! ## `svc`, `brk`, `hint`, `uiret`, `sret` -/

/-- R163: the trap point of `svc` is the next instruction. -/
def execSvc (k : BitVec 5) (s : State) : Out := s.pass.trapMe { cause := 0x07, code := k.setWidth 8 }

/-- R163: the trap point of `brk` is the `brk` itself. -/
def execBrk (k : BitVec 5) (s : State) : Out := s.trapMe { cause := 0x08, code := k.setWidth 8 }

/-- R157, R164: the watch's event bit is set. -/
def Hart.watchReady (h : Hart) : Bool := h.watch.armed && h.watch.event

/-- R164: `hint pause` holds the front end, `hint drain` waits for the queues, and every other code retires. `hint drain` traps for no
load queue whose binding is open (log 82, DEDUCED). -/
def execHint (k : BitVec 5) (s : State) : Out :=
  if k = 0 then .next ((s.setMe { s.me with paused := !s.me.watchReady }).pass)
  else if k = 1 then (if s.me.drained then .next s.pass else .next s)
  else .next s.pass

/-- HINT_PAUSE_END (R164). -/
def execHintPauseEnd (s : State) : Out := .next (s.setHart s.input.hart { s.hart s.input.hart with paused := false })

/-- R171: the registers and the pc that `uiret` restores. -/
def Hart.uiret (h : Hart) : Hart :=
  let y := fun n => h.shadow.getD n 0
  let g := (((((h.setX 1 (y 0)).setX 5 (y 1)).setX 6 (y 2)).setX 7 (y 3)).setX 8 (y 4)).setX 9 (y 5)
  { g with uw := { h.uw with uicause := h.uw.uicause &&& ~~~(bitAt 4 true) }, pc := h.getX 1 &&& ~~~1 }

def execUiret (s : State) : Out := if s.me.inh then .next (s.setMe s.me.uiret) else s.illegal .uiret

/-- R303: a privileged instruction at user privilege traps with cause 0x01. -/
def needsPriv (i : Instr) (s : State) (k : Out) : Out := if s.me.priv = .user then s.privileged i else k

def execSret (s : State) : Out := needsPriv .sret s (.next (s.setMe s.me.sret))

/-! ## Gang barriers (R50) -/

/-- R161: gang id, rank and size of a hart. -/
def Hart.gid (h : Hart) : Nat := fld h.uw.gang 63 32
def Hart.rank (h : Hart) : Nat := fld h.uw.gang 31 16
def Hart.gangSize (h : Hart) : Nat := fld h.uw.gang 15 0

/-- The key of a gang's rank and a barrier. -/
def gangKey (g r : Nat) (n : BitVec 4) : Nat := (4096 * g + r) * 16 + n.toNat

/-- R50: every rank of a gang has entered a barrier `e` times, or has exited. -/
def gangIsIn (p : Part) (g size : Nat) (n : BitVec 4) (e : Nat) : Bool :=
  (List.range size).all fun r => decide (e ≤ kget 0 p.gangIn (gangKey g r n)) || p.gangOut.contains (g, r)

/-- R50, R167: entry is a release at package scope. A hart that has entered and was pre-empted waits again. In an open guarded strip
the stores that the buffer holds stay there: R48 does not name `hbar` among the instructions that commit (log 66, DEDUCED). -/
def execHbar (n : BitVec 4) (s : State) : Out :=
  let h := s.me
  let slot := slotOfHart s s.cur
  let p := s.partOf slot
  let key := gangKey h.gid h.rank n
  let inside := kget 0 p.gangDone key < kget 0 p.gangIn key
  if decide (1 < h.gangSize) && inside then .next (s.wait (.hbar n))
  else if !releaseReady s s.cur 3 then .next s
  else
    let t := release s s.cur 3
    if h.gangSize ≤ 1 then .next (acquire t t.cur 3).pass
    else .next ((t.modPart slot fun p => { p with gangIn := kput p.gangIn key (kget 0 p.gangIn key + 1) }).wait (.hbar n))

/-- R50: a hart leaves the barrier that it waits in, once its whole gang has entered it as often; the exit is an acquire
at package scope. -/
def leaveBarrier (s : State) (i : Nat) : State :=
  let h := s.hart i
  match h.mode with
  | .waiting (.hbar n) _ =>
    let slot := slotOfHart s i
    let p := s.partOf slot
    let key := gangKey h.gid h.rank n
    if gangIsIn p h.gid h.gangSize n (kget 0 p.gangIn key) then
      let t := s.modPart slot fun p => { p with gangDone := kput p.gangDone key (kget 0 p.gangIn key) }
      acquire (wakeCore (t.setHart i (h.finish 0 0)) (coreOf i)) i 3
    else s
  | _ => s

/-- HBAR_EXIT: every waiting hart of the gang of `input.hart` that can leave its barrier leaves it. -/
def execHbarExit (s : State) : Out :=
  let i := s.input.hart
  if s.hold.phase != .none then .next s else
  let mates := s.harts.filter fun p => p.2.gid == (s.hart i).gid && slotOfHart s p.1 == slotOfHart s i
  .next (mates.foldl (fun t p => leaveBarrier t p.1) s)

/-! ## Version flips (R335, R344, R345) -/

/-- R344: the address space whose version bits `verflip` toggles. -/
def flipAsid (h : Hart) : Nat := if h.priv = .sup then fld h.sw.skasid 15 0 else fld h.sw.sasid 15 0

/-- R335: the version bits of an address space of a partition set. -/
def setVersions (s : State) (slot : Option Nat) (asid : Nat) (v : BitVec 8) : State :=
  s.modPart slot fun p => { p with ver := kput p.ver asid v }

/-- R345: what `verflip` and a write of `cw.sver` do first: an implicit commit, and a release at package scope behind every
earlier access of the hart. -/
def flipOrder (i : Instr) (s : State) (k : State → Out) : Out :=
  afterCommit i s fun s => if releaseReady s s.cur 4 then k (release s s.cur 3) else .next s

def execVerflip (v : BitVec 3) (s : State) : Out :=
  flipOrder (.verflip v) s fun s =>
    let slot := slotOfHart s s.cur
    let a := flipAsid s.me
    .next (setVersions s slot a (kget 0 (s.partOf slot).ver a ^^^ BitVec.ofNat 8 (1 <<< v.toNat))).pass

/-! ## Translation caches (R309, R337, R338, R340) -/

/-- R340: an entry that a `tlbinv` drops. -/
def Tlb.dropped (e : Tlb) (slot : Option Nat) (va space : W64) : Bool :=
  e.slot == slot && (e.g || space.getLsbD 16 || e.asid.toNat == fld space 15 0)
  && (va == ~~~0 || va.toNat % 2 ^ 55 / 2 ^ e.bits * 2 ^ e.bits == e.va)

/-- R340: whether a scope of the hart on core `c` takes in core `d`. -/
def tlbScope (sc : BitVec 3) (c d : Nat) : Bool :=
  sc == 3 || (sc == 2 && dieOfCore c == dieOfCore d) || c == d

/-- R340: the caches within a scope without the matching entries. -/
def dropTlb (s : State) (i : Nat) (sc : BitVec 3) (va space : W64) : State :=
  let keep := fun (l : List Tlb) => l.filter fun e => !e.dropped (slotOfHart s i) va space
  { s with
    cores := s.cores.map fun p => (p.1, if tlbScope sc (coreOf i) p.1 then { p.2 with tlb := keep p.2.tlb } else p.2)
    dies := s.dies.map fun p => (p.1, if sc == 3 || dieOf i == p.1 then { p.2 with tlb := keep p.2.tlb } else p.2) }

/-- R47, R309: a hart holds translated stores that it will perform when its strip commits. A strip whose hart runs a handler is not
waited for, since only its own context can commit it (log 17, DEDUCED). -/
def Hart.holdsStores (h : Hart) : Bool := h.priv == .user && h.buf.any fun e => match e.loc with
  | .spad .. => false
  | _ => true

/-- R309: accesses within the scope of a `tlbinv` that may have used a translation are still to be performed: requests on their way
through the fabric, and held stores of its partition. -/
def tlbAccesses (s : State) (sc : BitVec 3) : Bool :=
  let inScope := fun (c : Nat) => tlbScope sc (coreOf s.cur) c
  (s.fab.requests.any fun r => inScope (coreOf r.hart))
  || s.harts.any fun p => inScope (coreOf p.1) && slotOfHart s p.1 == slotOfHart s s.cur && p.2.holdsStores

/-- R309: a `tlbinv` waits for the accesses within its scope, and then drops the entries. -/
def execTlbinv (sc : BitVec 3) (a b : Reg) (s : State) : Out :=
  needsPriv (.tlbinv sc a b) s <|
    if tlbAccesses s sc then .next s
    else .next (dropTlb s s.cur sc (s.rx a) (s.rx b)).pass

/-- R338: a cache with an entry added; a full one loses its oldest. -/
def fillTlb (l : List Tlb) (e : Tlb) (n : Nat) : List Tlb := if l.contains e then l else (e :: l).take n

/-- TABLE_WALK (R337, R338): the hardware walks for the address `input.word` of `input.hart` and fills both caches; a walk
that fails fills nothing. -/
def execTableWalk (s : State) : Out :=
  let i := s.input.hart
  let c := coreOf i
  match walk s (spaceOf s i) s.input.word.toNat with
  | .error _ => .next s
  | .ok e =>
    let t := s.setCore c { s.core c with tlb := fillTlb (s.core c).tlb e 256 }
    .next (t.setDie (dieOfCore c) { t.die (dieOfCore c) with tlb := fillTlb (t.die (dieOfCore c)).tlb e 32768 })

/-! ## Waiting for events (R306) -/

def execWfi (s : State) : Out := needsPriv .wfi s (.next (s.wait .wfi))

/-- R328: a gating request; a reserved field or depth traps. -/
def execPgate (a : Reg) (s : State) : Out :=
  needsPriv (.pgate a) s <|
    if 2 ≤ (s.rx a).toNat then s.trapMe (cause 0x06) else .next (s.wait (.pgate (s.rx a).toNat))

/-- R306: the causes of items 4 to 6 of R296 that wait, with the privileges of their contexts. -/
def Hart.lateCauses (h : Hart) : List (Priv × TrapInfo) :=
  h.ch.toList.flatMap Channel.faults ++ h.storeFaults ++ (h.spineTrap.toList ++ h.preempt.map preemptTrap).map (Priv.user, ·)

/-- R306: a cause is ready that the level in force would take, or that its own context traps with. -/
def Hart.takesCause (h : Hart) : Bool :=
  h.queueFault.isSome || h.preempt.contains 1
  || h.lateCauses.any fun c => c.1 != .user || trapTo { h with priv := .user } c.2.cause == h.priv

/-- R306: what ends a `wfi`. -/
def Hart.wakes (h : Hart) : Bool := h.takesCause || h.watchReady

/-- WFI_WAKE (R306, R328): a `wfi`, or a `pgate` whose core does not gate, completes. -/
def execWfiWake (s : State) : Out :=
  let i := s.input.hart
  let h := s.hart i
  match h.mode with
  | .waiting .wfi _ | .waiting (.pgate _) _ =>
    if h.wakes && unitsMove s i then .next (s.setHart i (h.finish 0 0)) else .next s
  | _ => .next s

/-- MWAIT_WAKE (R158): a hart in `mwait` whose event bit is set completes. -/
def execMwaitWake (s : State) : Out :=
  let i := s.input.hart
  let h := s.hart i
  match h.mode with
  | .waiting (.mwait d sc) _ =>
    if h.watchReady && !watchBusy h && !h.midGather && unitsMove s i then
      match mwaitDone { s with cur := i } d sc with
      | .next t => .next { t with cur := s.cur }
      | o => o
    else .next s
  | _ => .next s

/-! ## Trap entry as a step of its own (R296) -/

/-- A hart that waits, or stands at a Spine point, has no scalar instruction at its boundary. -/
def Hart.noScalar (h : Hart) : Bool := h.atSpine || match h.mode with
  | .waiting .. => true
  | _ => false

/-- TRAP_ENTRY (R296, R297): the first cause that is ready at the boundary of `input.hart`: a queued instruction's fault, or,
where no scalar instruction stands at the boundary, one of items 4 to 6. Where one does, its own cause is known when it
executes, and the hart's next step chooses. A gathering group in progress commits first (R291). -/
def execTrapEntry (s : State) : Out :=
  let i := s.input.hart
  let h := s.hart i
  if !unitsMove s i || h.remote.isSome || h.midGather then .next s else
  match h.queueFault with
  | some t => .next (raise (s.setHart i h.wakePoint) i t)
  | none => .next (if h.noScalar then (lateTrap s i).getD s else s)

/-! ## User-level interrupts (R168 to R170) -/

/-- R301: the causes and units of the pending bits, in their order. -/
def uiPairs : List (Nat × Nat) :=
  ((List.range 7).map fun u => (1, u)) ++ ((List.range 32).map fun u => (2, u)) ++ ((List.range 16).map fun u => (3, u))
  ++ ((List.range 4).map fun u => (4, u + 1)) ++ [(5, 0)]

/-- R169: the event that is delivered first: lowest cause, then lowest unit. -/
def Hart.uiNext (h : Hart) : Option (Nat × Nat) :=
  uiPairs.find? fun p => h.uipend.getLsbD (uiBit p.1 p.2) && h.uw.uimask.getLsbD p.1

/-- R169: the hart can enter a handler now. -/
def Hart.uiReady (h : Hart) : Bool :=
  h.uw.uivec != 0 && !h.inh && h.priv == .user && h.remote.isNone && !h.atSpine
  && match h.mode with
    | .running | .waiting (.mwait ..) _ | .waiting (.sbwait ..) _ => true
    | _ => false

/-- R170 items 2 to 6, but for the acquire. -/
def Hart.uiEnter (h : Hart) (c u : Nat) : Hart :=
  let b := uiBit c u
  let w := at64 16 ((kget 0 h.uidetail b).toNat % 2 ^ 48) ||| at64 8 u ||| bitAt 4 true ||| at64 0 c
  let g := (h.setX 1 h.pc).setX 5 w
  { g with
    shadow := [h.getX 1, h.getX 5, h.getX 6, h.getX 7, h.getX 8, h.getX 9]
    uw := { h.uw with uicause := w }
    uipend := h.uipend &&& ~~~(BitVec.ofNat 60 (1 <<< b))
    pc := h.uw.uivec, mode := .running, paused := false, fetched := [] }

/-- R100, R170: the entry of hart `i`, an acquire at package scope. -/
def uiDeliver (s : State) (i c u : Nat) : State := acquire (s.setHart i ((s.hart i).uiEnter c u)) i 3

/-- R169: an event is to be delivered to the hart. -/
def Hart.uiDue (h : Hart) : Bool := h.uiReady && h.uiNext.isSome

/-- R169, R170: the delivery to hart `i`; in a guarded strip the implicit commit comes first. -/
def deliverUi (s : State) (i : Nat) : State :=
  let h := s.hart i
  if !unitsMove s i || !h.uiReady then s else
  match h.uiNext with
  | none => s
  | some (c, u) =>
    if !h.guarded then uiDeliver s i c u
    else if !h.drained then s
    else match bufferError s i with
      | some t => trapEnter (performSome s i) i t
      | none =>
        let (t, done) := commitStrip s i h.pc false
        if !done || storesOut t i then t else uiDeliver t i c u

/-- UI_DELIVERY (R169, R170). -/
def execUiDelivery (s : State) : Out := .next (deliverUi s s.input.hart)

/-! ## Gating (R328 to R330) -/

/-- R21, R329, R330: an event has come that moves a waiting hart on: a wake message that its core has not acted on yet, or a run of its
core's arbiter that is still to come. -/
def wakeDue (s : State) (i : Nat) : Bool :=
  let h := s.hart i
  (s.core (coreOf i)).arb || (lateTrap s i).isSome || h.uiDue || match h.mode with
    | .waiting (.mwait ..) _ => h.watchReady
    | .waiting .wfi _ | .waiting (.pgate _) _ => h.wakes
    | .waiting (.hbar n) _ =>
      let p := s.partOf (slotOfHart s i)
      gangIsIn p h.gid h.gangSize n (kget 0 p.gangIn (gangKey h.gid h.rank n))
    | _ => false

/-- R328, R330: the hart lets its core gate. -/
def letsGate (s : State) (i : Nat) : Bool :=
  let h := s.hart i
  (h.mode == .free && h.resv.isNone) ||
  ((match h.mode with
    | .waiting .. => !wakeDue s i
    | _ => false) && h.drained && h.channelsEmpty)

/-- R328: the depth that a hart in `pgate` asks for. -/
def Hart.gateAsked (h : Hart) : Option Nat := match h.mode with
  | .waiting (.pgate n) _ => some n
  | _ => none

/-- GATING_BEGIN (R328, R329): the core enters Draining at the smallest depth asked for. -/
def execGatingBegin (s : State) : Out :=
  let c := s.input.core
  let x := s.core c
  let asked := (hartsOf c).filterMap fun i => (s.hart i).gateAsked
  if x.gate == .active && !asked.isEmpty && (hartsOf c).all (letsGate s) then
    .next (s.setCore c { x with gate := .draining, gateDepth := asked.foldl min 1 })
  else .next s

/-- R329: every dirty L1 line of a core is written back, and its L1 is empty. -/
def drainL1 (s : State) (c : Nat) : State := (s.core c).l1.foldl (fun s l => cleanL1 s c false l.la) s

/-- DRAIN_COMPLETE (R329); a watch event of a line written back can end Draining (R330). -/
def execDrainComplete (s : State) : Out :=
  let c := s.input.core
  if (s.core c).gate == .draining then
    let t := drainL1 s c
    .next (if (t.core c).gate == .draining then t.setCore c { t.core c with gate := .commit } else t)
  else .next s

/-- GATE_COMMIT (R329): no wake message has come, which would have ended Commit. -/
def execGateCommit (s : State) : Out :=
  let c := s.input.core
  .next (if (s.core c).gate == .commit then s.setCore c { s.core c with gate := .gated } else s)

/-- WAKE_MESSAGE (R330); none once the hold-up sequence has begun (R372). -/
def execWakeMessage (s : State) : Out := .next (if s.hold.phase == .none then wakeCore s s.input.core else s)

/-- WAKING_COMPLETE (R329, R330); a core that the hold-up sequence has stopped stays as it is (R372). -/
def execWakingComplete (s : State) : Out :=
  let c := s.input.core
  .next (if s.hold.phase == .none && (s.core c).gate == .waking then activate s c else s)

end Sys2Proof.Machine
end

