-- ==== Sys2Proof/Machine/Context.lean ====
section
/-! DEFINITION. The hart context block and the frame area: `vqsave`, `vqload`, `chsave`, `chload` (R271, R272, R301 to R305).
What R302 and R271 give no place in memory, the machine keeps beside the block under the context's tag (log 30, DESIGN
CHOICE). -/

namespace Sys2Proof.Machine

/-! ## What the four instructions share (R303) -/

/-- R303: every queued instruction and every copy of the level in force has completed. -/
def Hart.levelDone (h : Hart) : Bool :=
  h.drained && h.ch.toList.all fun x => x.copies.all fun y => y.space.priv != h.priv

/-- R303: the fates common to the four save and load instructions, over an area of `n` bytes. -/
def saveArea (i : Instr) (a : Reg) (acc : Acc) (n : Nat) (s : State) (k : State → Out) : Out :=
  let va := s.rx a
  needsPriv i s <|
    if va.toNat % 64 ≠ 0 then s.trapMe (cause 0x02 va) else
    match checkRange s s.cur (spaceOf s s.cur) acc va n with
    | .error t => s.trapMe t
    | .ok _ => if s.me.levelDone then k s else .next s

/-- Little-endian bytes of words. -/
def bytesOf (l : List W64) : List Byte := l.flatMap fun w => toLE 8 w.toNat

/-- Words up to a count, zeros behind. -/
def pad (n : Nat) (l : List W64) : List W64 := (l ++ List.replicate (n - l.length) 0).take n

/-- The words of a wide value, lowest first. -/
def wideWords (v : VWord) : List W64 := (List.range 256).map fun j => (v >>> (64 * j)).setWidth 64
def ofWords (l : List W64) : VWord :=
  BitVec.ofNat 16384 (l.foldr (fun w (n : Nat) => w.toNat + n <<< 64) 0)

/-- `n` pieces of `w` bits in one word. -/
def packWord (w : Nat) (l : List Nat) : W64 := BitVec.ofNat 64 (l.foldr (fun x (n : Nat) => x + n <<< w) 0)

/-- The values at keys `0` to `n − 1` of a map, `per` to a word of pieces of `w` bits. -/
def mapWords (w per n : Nat) (get : Nat → Nat) : List W64 :=
  (List.range (n / per)).map fun j => packWord w ((List.range per).map fun i => get (per * j + i))

/-- The pieces of `w` bits in words. -/
def piecesOf (w : Nat) (l : List W64) : List Nat :=
  l.flatMap fun x => (List.range (64 / w)).map fun i => x.toNat / 2 ^ (w * i) % 2 ^ w

/-- A map of the nonzero pieces. -/
def mapOf {α : Type} (f : Nat → α) (l : List Nat) : KMap α :=
  (l.zipIdx.filter fun p => p.1 ≠ 0).map fun p => (p.2, f p.1)

/-! ## Writing the block (R301, R302) -/

/-- R302: a vector queue entry. -/
def QEntry.vecWords (e : QEntry) : List W64 :=
  [ first32 e.instr ||| at64 32 e.k, e.addr, match e.instr with
      | .vfuq .. => e.eps
      | _ => e.o1, e.o2, e.fw
  , at64 0 e.vl ||| at64 32 e.g.toNat ||| at64 34 e.ew.toNat ||| bitAt 36 e.stoch, e.srctr
  , at64 0 e.hid ]

/-- R302: a matrix queue entry. -/
def QEntry.matWords (e : QEntry) : List W64 :=
  [ BitVec.ofNat 64 (ofLE (encode e.instr)), e.addr, e.o1, e.o2, e.o3, e.fw
  , at64 0 e.sm ||| at64 9 e.sn ||| at64 18 e.sk ||| at64 27 e.k ||| at64 36 e.g.toNat ||| at64 38 e.ew.toNat
  , at64 0 e.vl ]

/-- R302: a pending copy. -/
def Copy.words (y : Copy) : List W64 :=
  [y.dst, y.src, y.ctl, y.stamp, y.seq, at64 0 y.vstart ||| bitAt 40 y.ord, 0, 0]

/-- R246, R302: a stream's declaration. -/
def Stream.words (t : Stream) : List W64 :=
  [at64 0 (fld t.src 54 0), t.stride, at64 0 t.len, t.buf, at64 0 t.slot ||| at64 32 t.nslots ||| at64 36 t.ew ||| at64 40 t.sb0]

/-- R302: a channel record. -/
def Channel.words (x : Channel) : List W64 :=
  pad 16 ([ x.seq
    , at64 0 x.copies.length ||| bitAt 5 x.stream.isSome ||| bitAt 6 (x.copies.any fun y => y.fault.isSome)
      ||| bitAt 7 x.lastFailed ||| bitAt 8 x.stopped
    , BitVec.ofNat 64 ((x.stream.map Stream.p).getD 0), BitVec.ofNat 64 ((x.stream.map Stream.k).getD 0) ]
    ++ (x.stream.map Stream.words).getD [])
  ++ pad 128 (x.copies.flatMap Copy.words)

/-- R301: the state words of a load queue. -/
def LoadQueue.words (q : LoadQueue) : List W64 :=
  [BitVec.ofNat 64 q.progress, BitVec.ofNat 64 q.released
  , at64 0 q.w.toNat ||| bitAt 2 q.bound ||| bitAt 3 q.consumer, 0, 0, 0, 0, 0]

/-- R301: the elements of a load queue: element e of group g at place (g mod 16) × L_eff + e. -/
def LoadQueue.data (q : LoadQueue) (leff : Nat) : List W64 :=
  (List.range 1024).map fun j =>
    (q.elems.find? fun p => p.1 % (16 * leff) == j && decide (q.released * leff ≤ p.1)).map (·.2) |>.getD 0

/-- R301: the checkpoint and the carry registers. -/
def Checkpoint.words (c : Checkpoint) : List W64 :=
  pad 64 (pad 32 c.xs ++ [c.restart, c.srctr, c.guard, c.vcarry] ++ (List.range 7).flatMap fun n =>
    match c.streams.find? (·.1 = n) with
    | some m => [BitVec.ofNat 64 m.2.1, BitVec.ofNat 64 m.2.2]
    | none => ([0, 0] : List W64))
  ++ (List.range 4).flatMap fun j =>
    if c.vcarry.getLsbD (8 * j + 7) then
      wideWords (((c.carries.find? (·.1 = fld c.vcarry (8 * j + 4) (8 * j))).map (·.2)).getD 0)
    else List.replicate 256 0

/-- R301: a platen bank. -/
def Bank.words (b : Bank) : List W64 :=
  mapWords 16 4 65536 (fun k => (kget 0 b.q k).toNat)
  ++ mapWords 16 4 2048 fun k => (kget 0 b.scale k).toNat + if b.bad.contains k then 512 else 0

/-- R301: the matrix part. -/
def Core.words (c : Core) : List W64 :=
  c.banks.toList.flatMap Bank.words ++ mapWords 32 2 196608 fun k => (kget 0 c.tiles k).toNat

/-- R302: the header. -/
def headerWords (h : Hart) (i : Nat) (img : List QEntry) (matrix : Bool) : List W64 :=
  let n := (img.filter fun e => isMatrix e.instr).length
  [ at64 0 1 ||| at64 32 (img.length - n) ||| at64 40 n ||| bitAt 48 matrix ||| bitAt 49 h.ckpt.isSome
  , at64 0 (popc8 h.slices) ||| bitAt 4 h.prot ||| at64 5 (hartIx i), at64 0 (fld h.sw.sctx 31 0), 0, 0, 0, 0, 0 ]

/-- R301: the words of a context from the watch to the reserved words before the queue images. -/
def contextWords (h : Hart) : List W64 :=
  pad 1 [at64 3 (fld h.watch.a 54 3) ||| bitAt 1 h.watch.event ||| bitAt 0 h.watch.armed] ++ pad 6 h.shadow
  ++ pad 1 [h.uipend.setWidth 64] ++ pad 64 ((List.range 60).map fun b => kget 0 h.uidetail b)
  ++ pad 4 (h.marks.map fun v => BitVec.ofNat 64 v)
  ++ [ h.ramo.addr, h.ramo.b, h.ramo.d
     , at64 0 (match h.ramo.op with
        | .add => 0
        | .swap => 1
        | .cas => 2
        | .or => 3
        | .min => 4
        | _ => 5) ||| bitAt 4 h.ramo.wide ||| bitAt 5 h.ramo.held ]
  ++ pad 6 h.ended ++ [h.watch.c, h.sw.smsave] ++ List.replicate 16 0

/-- R304: whether the context holds the matrix unit. -/
def Hart.ownsMatrix (h : Hart) : Bool := h.uw.mshape.getLsbD 63

/-- R301, R302: the two queue images. -/
def imageWords (img : List QEntry) : List W64 :=
  pad 2048 ((img.filter fun e => !isMatrix e.instr).flatMap QEntry.vecWords)
  ++ pad 128 ((img.filter fun e => isMatrix e.instr).flatMap QEntry.matWords)

/-- R301: the block of hart `i` without its matrix part, with the image of a level; `matrix` is what the header says. -/
def blockWords (s : State) (i : Nat) (img : List QEntry) (matrix : Bool) : List W64 :=
  let h := s.hart i
  pad 16384 (headerWords h i img matrix ++ (List.range 112).map (fun n => userWord s i n) ++ contextWords h
    ++ imageWords img ++ pad 1184 (h.ch.toList.flatMap Channel.words)
    ++ h.m.toList.flatMap wideWords ++ h.q.toList.flatMap LoadQueue.words
    ++ h.q.toList.flatMap (fun q => q.data h.leff)
    ++ pad 1088 (match h.ckpt with
      | some c => c.words
      | none => []))

/-- R301: the size of a block. -/
def blockBytes (matrix : Bool) : Nat := if matrix then 0x122000 else 0x20000

/-- R362: the poisoned words of the block, as byte offset and kind: a poisoned word that the block holds is poisoned there too. -/
def blockPoison (s : State) (i : Nat) (img : List QEntry) (matrix : Bool) : List (Nat × Nat) :=
  let h := s.hart i
  let place := fun (base : Nat) (l : List QEntry) (q : Nat) => (l.findIdx? fun e => e.seq = q).map fun j => base + 64 * j
  let vec := img.filter fun e => !isMatrix e.instr
  let mat := img.filter fun e => isMatrix e.instr
  (h.sram.filterMap fun m => (match m.1 with
    | .mask k w => some (0x7000 + 0x800 * k + 8 * w)
    | .queue n e => some (0xB100 + 0x2000 * n + 8 * (e % (16 * h.leff)))
    | .entry q => (place 0x700 vec q).orElse fun _ => place 0x4700 mat q
    | .checkpoint => if h.ckpt.isSome then some 0x13100 else none
    | .x _ | .cbook .. => none).map fun o => (o, m.2))
  ++ if matrix then (s.core (coreOf i)).accPoison.map fun m => (0x62000 + 8 * m.1, m.2) else []

/-- R362: the granule of an address of a hart poisoned. -/
def poisonTo (s : State) (i : Nat) (sp : Space) (va : W64) (k : Nat) : State :=
  match (locate s i sp false .store va).map Place.loc with
  | .ok (.mem pa) => { s with poison := kput s.poison (pa / 64) k }
  | .ok (.spad c o) => s.setCore c { s.core c with spadPoison := kput (s.core c).spadPoison (o / 8) k }
  | _ => s

/-- What the saved context of a hart keeps beside its blocks, under its tag. -/
def modKept (s : State) (i : Nat) (f : Kept → Kept) : State :=
  let k := (s.hart i).tag.toNat
  s.modPart (slotOfHart s i) fun p => { p with kept := kput p.kept k (f (kget {} p.kept k)) }

/-- What is kept of the context with a tag. -/
def keptOf (s : State) (i : Nat) (tag : Nat) : Kept := kget {} (s.partOf (slotOfHart s i)).kept tag

/-- R304: what `vqsave` changes in the hart. -/
def Hart.savedOut (h : Hart) : Hart :=
  let w := h.level h.priv
  { (h.setLevel h.priv { w with stat := w.stat &&& ~~~(bitAt 5 true), image := [] }).emptyChannels with saved := true }

def execVqsave (a : Reg) (s : State) : Out :=
  saveArea (.vqsave a) a .store (blockBytes s.me.ownsMatrix) s fun s =>
    let t := stopChannels s s.cur
    let h := t.me
    let img := (h.level h.priv).image
    let sp := spaceOf t t.cur
    let bs := bytesOf (blockWords t t.cur img h.ownsMatrix ++ if h.ownsMatrix then (t.core (coreOf t.cur)).words else [])
    let u := writeRange t t.cur sp (s.rx a) bs
    let u := (blockPoison t t.cur img h.ownsMatrix).foldl
      (fun u m => poisonTo u u.cur sp (s.rx a + BitVec.ofNat 64 m.1) m.2) u
    let u := modKept u u.cur fun k =>
      { k with img := img, ch := h.ch, dead := (h.ckpt.map Checkpoint.dead).getD false, task := h.task }
    .next (u.setMe u.me.savedOut).pass

/-! ## Reading the block (R302, R304) -/

/-- The words of a block from a byte offset. -/
def blkAt (l : List W64) (o : Nat) : W64 := l.getD (o / 8) 0
def blkFrom (l : List W64) (o n : Nat) : List W64 := (l.drop (o / 8)).take n

/-- R25, R147, R279: a word of the majors 0x20 to 0x2B, or one of the queued gathering instructions. -/
def vectorWord (w : W64) (i : Instr) : Bool :=
  (decide (0x20 ≤ fld w 6 1) && decide (fld w 6 1 ≤ 0x2B)) || match i with
    | .ginit | .gunite .. | .gfind .. | .grelabel .. => true
    | _ => false

/-- R302: a vector entry read, unless it holds no vector instruction or a reserved field is nonzero. -/
def vecEntry (sp : Space) (w : List W64) : Option QEntry :=
  let z := fun i => w.getD i 0
  let k := fld (z 0) 63 32
  match decode (toLE 4 (fld (z 0) 31 0)) with
  | .error _ => none
  | .ok (i, n) =>
    if n ≠ 4 || !vectorWord (z 0) i || fld (z 5) 63 37 ≠ 0 || fld (z 7) 63 12 ≠ 0 then none
    else some
      { instr := i, addr := z 1, seq := 0, o1 := z 2, o2 := z 3, fw := z 4, vl := fld (z 5) 31 0
        g := BitVec.ofNat 2 (fld (z 5) 33 32), ew := BitVec.ofNat 2 (fld (z 5) 35 34), stoch := (z 5).getLsbD 36
        srctr := z 6, hid := fld (z 7) 11 0, k := k, eps := z 2, dispatched := decide (k ≠ 0), space := sp }

/-- R63: a matrix instruction with a format word that rounds stochastically. -/
def stochastic (i : Instr) (fw : W64) : Bool := match i with
  | .mrd .. | .mwr .. | .mst .. => fwStoch fw
  | _ => false

/-- R302: a matrix entry read; `h` gives a stochastic one its values (R63; log 30, DESIGN CHOICE). -/
def matEntry (h : Hart) (i : Nat) (sp : Space) (w : List W64) : Option QEntry :=
  let z := fun i => w.getD i 0
  let k := fld (z 6) 35 27
  match decode (toLE 8 (z 0).toNat) with
  | .error _ => none
  | .ok (x, _) =>
    if !isMatrix x || fld (z 6) 63 40 ≠ 0 || fld (z 7) 63 32 ≠ 0 then none
    else some
      { instr := x, addr := z 1, seq := 0, o1 := z 2, o2 := z 3, o3 := z 4, fw := z 5, vl := fld (z 7) 31 0
        g := BitVec.ofNat 2 (fld (z 6) 37 36), ew := BitVec.ofNat 2 (fld (z 6) 39 38)
        sm := fld (z 6) 8 0, sn := fld (z 6) 17 9, sk := fld (z 6) 26 18, k := k
        stoch := stochastic x (z 5), srctr := h.uw.srctr, hid := i, dispatched := decide (k ≠ 0), space := sp }

/-- Entries of eight words each. -/
def entriesOf (f : List W64 → Option QEntry) : Nat → List W64 → Option (List QEntry)
  | 0, _ => some []
  | n + 1, l => do return (← f (l.take 8)) :: (← entriesOf f n (l.drop 8))

/-- R222: the two images in one program order, which the block does not hold: each in its own order, the lower address
first (log 31, DESIGN CHOICE). -/
def mergeImages : List QEntry → List QEntry → List QEntry
  | [], m => m
  | v :: vs, m => (m.takeWhile fun e => decide (e.addr.toNat < v.addr.toNat)) ++ v ::
      mergeImages vs (m.dropWhile fun e => decide (e.addr.toNat < v.addr.toNat))

/-- R207: the load queues that the entries of an image bind, in queue order; `open'` are the open bindings. -/
def bindImage : List QEntry → List Nat → List QEntry
  | [], _ => []
  | e :: r, open' =>
    let use := fun (x : Option Reg) => match x with
      | none => none
      | some x => if consumesQueue e.instr && decide (28 ≤ x.toNat) && open'.contains (x.toNat - 28)
        then some (x.toNat - 28) else none
    let qa := use (vshape e.instr).a
    let qb := use (vshape e.instr).b
    let left := open'.filter fun n => some n != qa && some n != qb
    let now := match loadDest e.instr with
      | some (_, true, d) => d.toNat :: left
      | _ => left
    { e with qa := qa, qb := qb } :: bindImage r now

/-- R302: the copies of a channel record. -/
def copiesOf (sp : Space) (ctx : BitVec 32) : Nat → List W64 → List Copy
  | 0, _ => []
  | n + 1, l =>
    let z := fun i => l.getD i 0
    { dst := z 0, src := z 1, ctl := z 2, stamp := z 3, seq := z 4, ord := (z 5).getLsbD 40, vstart := fld (z 5) 39 0
      space := sp, ctx := ctx } :: copiesOf sp ctx n (l.drop 8)

/-- R302: a channel record read. -/
def channelOf (sp : Space) (ctx : BitVec 32) (next : Nat) (w : List W64) : Channel :=
  let z := fun i => w.getD i 0
  let p := (z 2).toNat
  let k := (z 3).toNat
  { seq := z 0, lastFailed := (z 1).getLsbD 7, stopped := (z 1).getLsbD 8
    copies := copiesOf sp ctx (min 16 (fld (z 1) 4 0)) (w.drop 16)
    stream := if (z 1).getLsbD 5 then some
        { src := sext (BitVec.ofNat 55 (z 4).toNat), stride := z 5, len := fld (z 6) 47 0, buf := z 7, slot := fld (z 8) 31 0
          nslots := fld (z 8) 35 32, ew := fld (z 8) 37 36, sb0 := fld (z 8) 44 40, p := p, k := k
          starts := List.replicate 8 next, space := sp, ctx := ctx }
      else none }

/-- R304: no reserved field of a channel record is nonzero. -/
def channelOk (w : List W64) : Bool :=
  let z := fun i => w.getD i 0
  decide (fld (z 1) 4 0 ≤ 16) && fld (z 1) 63 9 == 0 && fld (z 4) 63 55 == 0 && fld (z 6) 63 48 == 0
  && ((List.range 7).all fun j => z (9 + j) == 0)
  && fld (z 8) 39 38 == 0 && fld (z 8) 63 45 == 0
  && (!(z 1).getLsbD 5 || (decide (2 ≤ fld (z 8) 35 32) && decide (fld (z 8) 35 32 ≤ 4)))
  && ((List.range (fld (z 1) 4 0)).all fun j =>
    fld (z (16 + 8 * j + 2)) 63 48 == 0 && fld (z (16 + 8 * j + 5)) 63 41 == 0 && z (16 + 8 * j + 6) == 0 && z (16 + 8 * j + 7) == 0)

/-- R301: a load queue read. -/
def queueOf (leff : Nat) (st data : List W64) : LoadQueue :=
  let p := (st.getD 0 0).toNat
  let r := (st.getD 1 0).toNat
  let w := st.getD 2 0
  { w := BitVec.ofNat 2 (fld w 1 0), bound := w.getLsbD 2, consumer := w.getLsbD 3, progress := p, released := r
    elems := (List.range (min (p - r * leff) 1024)).map fun j =>
      (r * leff + j, data.getD ((r * leff + j) % (16 * leff)) 0) }

/-- R301: a checkpoint read. -/
def checkpointOf (dead : Bool) (l : List W64) : Checkpoint :=
  let vc := l.getD 35 0
  { xs := l.take 32, restart := l.getD 32 0, srctr := l.getD 33 0, guard := l.getD 34 0, vcarry := vc, dead := dead
    carries := (List.range 4).filterMap fun j =>
      if vc.getLsbD (8 * j + 7) then some (fld vc (8 * j + 4) (8 * j), ofWords ((l.drop (64 + 256 * j)).take 256)) else none
    streams := (List.range 7).map fun n => (n, (l.getD (36 + 2 * n) 0).toNat, (l.getD (37 + 2 * n) 0).toNat) }

/-- R301: a platen bank read. -/
def savedBank (l : List W64) : Bank :=
  let sc := piecesOf 16 ((l.drop 16384).take 512)
  { q := mapOf (BitVec.ofNat 16) (piecesOf 16 (l.take 16384)), scale := mapOf (BitVec.ofNat 9) (sc.map (· % 512))
    bad := (sc.zipIdx.filter fun p => p.1.testBit 9).map (·.2) }

/-- R301, R304: the matrix part restored into a core, which hart `i` then owns. -/
def Core.restore (c : Core) (i : Nat) (l : List W64) : Core :=
  { c with
    banks := #v[savedBank l, savedBank (l.drop 16896)]
    tiles := mapOf (BitVec.ofNat 32) (piecesOf 32 (l.drop 33792)), accPoison := []
    owner := some i, lastOwner := some i }

/-- R304: user control words that `vqload` leaves alone. -/
def notRestored : List Nat := [0x000, 0x002, 0x013, 0x015, 0x016, 0x051]

/-- R304: whether the version is 1, no reserved field is nonzero, and the counts are in range. -/
def blockOk (l : List W64) : Bool :=
  let zero := fun o n => (blkFrom l o n).all (· == 0)
  let w0 := blkAt l 0
  fld w0 15 0 == 1 && fld w0 31 16 == 0 && decide (fld w0 39 32 ≤ 64) && decide (fld w0 44 40 ≤ 16)
  && fld w0 47 45 == 0 && fld w0 63 50 == 0 && fld (blkAt l 8) 63 7 == 0 && fld (blkAt l 16) 63 32 == 0 && zero 24 5
  && ((List.range 112).all fun n => blkAt l (0x40 + 8 * n) &&& ~~~(userLayout n) == 0)
  && fld (blkAt l 0x3C0) 63 55 == 0 && !(blkAt l 0x3C0).getLsbD 2 && fld (blkAt l 0x3F8) 63 60 == 0 && zero 0x5E0 4
  && decide (fld (blkAt l (0x40 + 8 * 0x36)) 2 0 ≤ 4) && decide (fld (blkAt l (0x40 + 8 * 0x68)) 2 0 ≤ 4)
  && fld (blkAt l 0x638) 63 6 == 0 && decide (fld (blkAt l 0x638) 3 0 ≤ 5)
  && fld (blkAt l 0x678) 63 55 == 0 && fld (blkAt l 0x678) 5 0 == 0 && zero 0x680 16
  && ((List.range 7).all fun n => channelOk (blkFrom l (0x4B00 + 0x480 * n) 144)) && zero 0x6A80 176
  && ((List.range 4).all fun n => fld (blkAt l (0xB010 + 64 * n)) 63 4 == 0 && zero (0xB018 + 64 * n) 5)
  && blkAt l 0x13210 &&& ~~~(userLayout 0x018) == 0 && blkAt l 0x13218 &&& ~~~(userLayout 0x019) == 0
  && zero 0x13290 14 && zero 0x15300 5536

/-- R304: no reserved field of a block's matrix part is nonzero. -/
def matrixOk (l : List W64) : Bool :=
  let scales := fun o => (blkFrom l o 512).all fun w => w &&& 0xFC00FC00FC00FC00 == 0
  !(blkAt l 0).getLsbD 48 || (scales 0x40000 && scales 0x61000)

/-- R304: the queue images of a block in program order: those that the context left, where the block still holds them (log 30,
DESIGN CHOICE). -/
def imagesOf (h : Hart) (i : Nat) (kept : Kept) (sp : Space) (l : List W64) : Option (List QEntry) :=
  let nv := fld (blkAt l 0) 39 32
  let nm := fld (blkAt l 0) 44 40
  if nv + nm = kept.img.length && blkFrom l 0x700 2176 == imageWords kept.img then some kept.img else do
    let v ← entriesOf (vecEntry sp) nv (blkFrom l 0x700 512)
    let m ← entriesOf (matEntry h i sp) nm (blkFrom l 0x4700 128)
    return bindImage (mergeImages v m) ((List.range 4).filter fun n => (blkAt l (0xB010 + 64 * n)).getLsbD 3
      && !(v.any fun e => match loadDest e.instr with
        | some (_, true, d) => d.toNat == n
        | _ => false))

/-- R304: the channel records of a block: a channel as the context left it, where the block still holds it (log 30, DESIGN CHOICE);
its starts follow the numbers that the entries of the image get from `next` on. -/
def channelsOf (kept : Kept) (sp : Space) (ctx : BitVec 32) (next : Nat) (img : List QEntry) (l : List W64) : Vector Channel 7 :=
  Vector.ofFn fun n : Fin 7 =>
    let w := blkFrom l (0x4B00 + 0x480 * n.val) 144
    let x := kept.ch[n]
    if x.words = w then
      { x with
        copies := x.copies.map fun y => { y with fault := none }
        stream := x.stream.map fun t => { t with
          fault := none, starts := t.starts.map fun q => next + img.countP fun e => e.seq < q } }
    else channelOf sp ctx (next + img.length) w

/-- R157, R301: the watch of a block; the resumption of a pre-empted context is an event. -/
def watchOf (s : State) (i : Nat) (l : List W64) : Watch :=
  let w := blkAt l 0x3C0
  let a := sext (BitVec.ofNat 55 (fld w 54 3 * 8))
  { a := a, c := blkAt l 0x670, armed := w.getLsbD 0
    event := w.getLsbD 1 || ((s.hart i).resumed && w.getLsbD 0)
    loc := match locate s i (userSpace s i) false .load a with
      | .ok p => some p.loc
      | .error _ => none }

/-- R304: the user control words of a block. -/
def wordsRestored (h : Hart) (l : List W64) : UserWords :=
  (userNumbers.filter fun n => !notRestored.contains n).foldl (fun w n => w.put n (blkAt l (0x40 + 8 * n))) h.uw

/-- R301: the held remote atomic of a block. -/
def ramoOf (l : List W64) : HeldRamo :=
  let w := blkAt l 0x638
  { addr := blkAt l 0x620, b := blkAt l 0x628, d := blkAt l 0x630, wide := w.getLsbD 4, held := w.getLsbD 5
    op := match fld w 3 0 with
      | 0 => .add
      | 1 => .swap
      | 2 => .cas
      | 3 => .or
      | 4 => .min
      | _ => .max }

/-- R304: the hart of a block, but for `cw.smsave`. -/
def loadHart (s : State) (i : Nat) (kept : Kept) (l : List W64) (img : List QEntry) : Hart :=
  let h := s.hart i
  let sp := userSpace s i
  let ctx := BitVec.ofNat 32 (fld (blkAt l 16) 31 0)
  let uw := wordsRestored h l
  let depth := fld (blkAt l (0x40 + 8 * 0x68)) 2 0
  let ck := (blkAt l 0).getLsbD 49
  let qs := (List.range 4).map fun n =>
    queueOf h.leff (blkFrom l (0xB000 + 64 * n) 8) (blkFrom l (0xB100 + 0x2000 * n) 1024)
  let next := h.nextSeq
  let g : Hart :=
    { h with
      uw := uw
      watch := watchOf s i l, shadow := blkFrom l 0x3C8 6
      uipend := (blkAt l 0x3F8).setWidth 60, uidetail := (List.range 60).map fun b => (b, blkAt l (0x400 + 8 * b))
      marks := (blkFrom l 0x600 (fld (blkAt l (0x40 + 8 * 0x36)) 2 0)).map fun w => w.toNat % 2 ^ 31
      ramo := ramoOf l, ended := blkFrom l 0x640 6
      m := Vector.ofFn fun n : Fin 8 => ofWords (blkFrom l (0x7000 + 0x800 * n.val) 256)
      q := Vector.ofFn fun n : Fin 4 => qs.getD n.val {}
      gs := ck, ckpt := if ck then some (checkpointOf kept.dead (blkFrom l 0x13100 1088)) else none
      rollbacks := 0, replay := false, committing := false, widest := 0, buf := []
      sram := h.sram.filter fun m => match m.1 with
        | .x _ | .cbook .. => true
        | _ => false
      ch := channelsOf kept sp ctx next img l
      chStopped := false
      frames := if h.frames.length = depth then h.frames
        else List.replicate depth { desc := 0, d := {}, cont := 0, held := true }
      nextSeq := next + img.length, resumed := false, task := kept.task
      sw := { h.sw with sctx := at64 0 ctx.toNat } }
  if img.isEmpty then g else
  let w := g.level g.priv
  g.setLevel g.priv { w with image := img.mapIdx fun j e => { e with seq := next + j }, stat := w.stat ||| bitAt 5 true }

/-- R304: the conditions on the grant and the matrix unit. -/
def blockFits (s : State) (l : List W64) : Bool :=
  let h := s.me
  let w := blkAt l 8
  let c := s.core (coreOf s.cur)
  !(h.level h.priv).qi && fld w 3 0 == popc8 h.slices && w.getLsbD 4 == h.prot
  && (!(blkAt l 0).getLsbD 48 || c.owner.isNone || c.owner == some s.cur)

/-- R304: a block that has been read restored. -/
def restoreBlock (s : State) (va : W64) (l : List W64) : Out :=
  let kept := keptOf s s.cur (fld (blkAt l 16) 31 0)
  if !blockOk l || !matrixOk l || !blockFits s l then s.trapMe (cause 0x06 va) else
  match imagesOf s.me s.cur kept (userSpace s s.cur) l with
  | none => s.trapMe (cause 0x06 va)
  | some img =>
    match admitDecl s s.cur (blkAt l 0x678) with
    | .error _ => s.trapMe (cause 0x06 ((leavesRegion (blkAt l 0x678) 272).getD va))
    | .ok t =>
      let t := t.setMe (loadHart t t.cur kept l img)
      let c := t.core (coreOf t.cur)
      .next (if (blkAt l 0).getLsbD 48 then t.setCore (coreOf t.cur) (c.restore t.cur (l.drop 16384)) else t).pass

/-- R304: the header tells whether the block has a matrix part. -/
def execVqload (a : Reg) (s : State) : Out :=
  let va := s.rx a
  saveArea (.vqload a) a .load 64 s fun s =>
    let sp := spaceOf s s.cur
    let s := homeRange s s.cur sp va 64
    match readRange s s.cur sp false va 64 with
    | .error t => s.trapMe t
    | .ok hd =>
      let n := blockBytes ((BitVec.ofNat 64 (ofLE (hd.take 8))).getLsbD 48)
      match checkRange s s.cur sp .load va n with
      | .error t => s.trapMe t
      | .ok _ =>
        let s := homeRange s s.cur sp va n
        match readRange s s.cur sp false va n with
        | .error t => s.trapMe t
        | .ok bs => restoreBlock s va (wordsOf (n / 8) bs)

/-! ## Chain frames (R271, R272, R305) -/

/-- R271: the code of a phase. -/
def Phase.code : Phase → Nat
  | .idle => 0
  | .inAdvance => 1
  | .inAdjoint => 2
  | .snapCopy => 3
  | .restoreCopy => 4

/-- R271: a frame in its 40 words. -/
def Frame.words (f : Frame) : List W64 :=
  let r := f.repairs.headD (0, 0)
  [ f.desc, at64 61 f.phase.code ||| bitAt 60 f.lvalid ||| bitAt 59 (!f.repairs.isEmpty) ||| at64 0 (f.act % 2 ^ 48)
  , at64 32 f.mism.toNat ||| at64 0 (f.live % 2 ^ 24), at64 0 (f.cvstart % 2 ^ 32), f.cont
  , at64 56 r.1 ||| at64 32 (r.2 % 2 ^ 24) ||| at64 0 f.reps.toNat, f.sx2, f.sx4 ]
  ++ mapWords 32 2 64 fun i => match f.slots.getD i (false, 0) with
    | (v, k) => (if v then 2 ^ 31 else 0) + k % 2 ^ 24

def execChsave (a : Reg) (s : State) : Out :=
  saveArea (.chsave a) a .store (320 * s.me.chdepth) s fun s =>
    let t := writeRange s s.cur (spaceOf s s.cur) (s.rx a) (bytesOf (s.me.frames.flatMap Frame.words))
    .next (modKept t t.cur fun k => { k with frames := s.me.frames }).pass

/-- R272: the schedule, the tallies and the signature entries written after `act` actions; none where the sequence is
shorter. -/
def replay (sigcheck : Bool) : Nat → Sched → List Nat → Nat → Option (Sched × List Nat × Nat)
  | 0, p, l, g => some (p, l, g)
  | n + 1, p, l, g => match p.next silentSteps with
    | none => none
    | some (a, p') => replay sigcheck n p'.settled (tallyAction l a) (match a with
        | .advance k => if sigcheck && decide (g ≤ k + 1) then k + 2 else g
        | .snap _ => if sigcheck then max g 1 else g
        | _ => g)

/-- R271: a phase from its code. -/
def phaseOf : Nat → Option Phase
  | 0 => some .idle
  | 1 => some .inAdvance
  | 2 => some .inAdjoint
  | 3 => some .snapCopy
  | 4 => some .restoreCopy
  | _ => none

/-- R267, R271: the repairs in progress: the target that the frame names, and behind it the interrupted RESTORE of the schedule
where that is another slot. -/
def repairsOf (rep : Bool) (slot k : Nat) (p : Sched) (slots : List (Bool × Nat)) : List (Nat × Nat) :=
  if !rep then [] else
  match p.next silentSteps with
  | some (.restore j, _) => if j = slot then [(slot, k)] else [(slot, k), (j, (slots.getD j (false, 0)).2)]
  | _ => [(slot, k)]

/-- R272: the slots' words of a frame. -/
def frameCells (w : List W64) : List Nat := piecesOf 32 ((w.drop 8).take 32)

/-- R271, R272: the phase of a frame that has no reserved field nonzero and no reserved phase. -/
def framePhase (w : List W64) : Option Phase :=
  let z := fun i => w.getD i 0
  if fld (z 1) 58 48 ≠ 0 || fld (z 2) 31 24 ≠ 0 || fld (z 3) 63 32 ≠ 0 || fld (z 5) 63 62 ≠ 0
    || (frameCells w).any (fun c => c / 2 ^ 24 % 128 ≠ 0) then none
  else phaseOf (fld (z 1) 63 61)

/-- R272: a frame with its descriptor; none where its act is beyond the length of the sequence. -/
def frameOf (sp : Space) (seq : W64) (w : List W64) (ph : Phase) (d : ChainDesc) : Option Frame := do
    let z := fun i => w.getD i 0
    let cells := frameCells w
    let act := fld (z 1) 47 0
    let r ← replay d.sigcheck act (Sched.start d.n d.s) [0, 0, 0, 0] 0
    let slots := cells.map fun c => (c.testBit 31, c % 2 ^ 24)
    return { desc := z 0, d := d, phase := ph, lvalid := (z 1).getLsbD 60, act := act, mism := BitVec.ofNat 32 (fld (z 2) 63 32)
             live := fld (z 2) 23 0, cvstart := fld (z 3) 31 0, cont := z 4, reps := BitVec.ofNat 32 (fld (z 5) 31 0)
             sx2 := z 6, sx4 := z 7, slots := slots, sched := r.1, tally := r.2.1, signed := r.2.2
             repairs := repairsOf ((z 1).getLsbD 59) (fld (z 5) 61 56) (fld (z 5) 55 32) r.1 slots
             seq := seq, space := sp }

/-- R272, R305: frames read, the outermost first: each is checked, and then names its descriptor in the context's address
space. -/
def framesOf (s : State) (i : Nat) : Nat → List W64 → Except TrapInfo (List Frame)
  | 0, _ => .ok []
  | n + 1, l => do
    let sp := userSpace s i
    match framePhase (l.take 40) with
    | none => .error (chainTrap 3)
    | some ph =>
      match leavesRegion (l.getD 0 0) 64 with
      | some v => .error (cause 0x06 v)
      | none =>
      let bs ← readRange s i sp false (l.getD 0 0) 64
      match frameOf sp ((s.hart i).chan 6).seq (l.take 40) ph (chainDescOf (wordsOf 8 bs)) with
      | none => .error (chainTrap 3)
      | some f =>
        let r ← framesOf s i n (l.drop 40)
        return f :: r

/-- R270, R305: the frames in place; the innermost is held until the return where the trap was at a Spine point. -/
def holdFrames (l : List Frame) : List Frame :=
  match l.getLast? with
  | none => []
  | some f => l.dropLast ++ [{ f with held := match f.phase with
      | .inAdvance | .inAdjoint => false
      | _ => true }]

def execChload (a : Reg) (s : State) : Out :=
  let va := s.rx a
  let n := s.me.chdepth
  saveArea (.chload a) a .load (320 * n) s fun s =>
    let s := homeRange s s.cur (spaceOf s s.cur) va (320 * n)
    match readRange s s.cur (spaceOf s s.cur) false va (320 * n) with
    | .error t => s.trapMe t
    | .ok bs =>
      let w := wordsOf (40 * n) bs
      let s := (List.range n).foldl (fun s j => homeRange s s.cur (userSpace s s.cur) (w.getD (40 * j) 0) 64) s
      match framesOf s s.cur n w with
      | .error t => s.trapMe t
      | .ok l =>
        let kept := (keptOf s s.cur s.me.tag.toNat).frames
        let l := if kept.flatMap Frame.words = w then kept else l
        .next (s.setMe { s.me with frames := holdFrames l }).pass

end Sys2Proof.Machine
end

