-- ==== Sys2Proof/Machine/Tasks.lean ====
section
/-! DEFINITION. Task queues, readiness, dispatch and the Proofer (R122, R165, R310, R313 to R319, R323 to R327, R351, R368,
R370). -/

namespace Sys2Proof.Machine

/-! ## Task descriptors (R122, R165) -/

/-- R122: the fields of a task descriptor in 16 words. -/
def taskOf (w : List W64) : TaskDesc :=
  let z := fun i => w.getD i 0
  { entry := z 0, args := z 1, nws := fld (z 2) 61 58, ndep := fld (z 2) 57 55, prio := fld (z 2) 54 52
    pref := fld (z 2) 51 48, min := fld (z 2) 47 44, gang := fld (z 2) 31 0, queue := fld (z 3) 35 32
    asid := BitVec.ofNat 16 (fld (z 3) 31 16), part := BitVec.ofNat 16 (fld (z 3) 15 0)
    deps := (List.range 4).map fun i => (z (4 + 2 * i), z (5 + 2 * i)), wstab := z 12, msdecl := z 13 }

/-- R122: a reserved field of a task descriptor is nonzero. -/
def taskReserved (w : List W64) : Bool :=
  let z := fun i => w.getD i 0
  fld (z 2) 63 62 != 0 || fld (z 2) 43 32 != 0 || fld (z 3) 63 36 != 0 || z 14 != 0 || z 15 != 0

/-- R165: a field outside the limits of status 1. -/
def TaskDesc.badLimits (t : TaskDesc) : Bool :=
  t.gang == 0 || decide (3072 < t.gang) || t.min == 0 || decide (8 < t.min) || t.pref == 0 || decide (8 < t.pref)
  || decide (t.pref < t.min) || decide (8 < t.nws) || decide (4 < t.ndep)

/-- The counters that a task uses. -/
def TaskDesc.counters (t : TaskDesc) : List (W64 × W64) := t.deps.take (Nat.min t.ndep 4)

/-- R318, R324: the address space of a task. -/
def taskSpace (s : State) (slot : Option Nat) (t : TaskDesc) : Space :=
  { priv := .user, asid := t.asid, slot := slot, ver := kget 0 (s.partOf slot).ver t.asid.toNat }

/-- R314: the supervisor address space that a queue's overflow area lies in. -/
def queueSpace (s : State) (slot : Option Nat) (q : TaskQueue) : Space :=
  { priv := .sup, asid := q.kasid, slot := slot, ver := kget 0 (s.partOf slot).ver q.kasid.toNat }

/-- The first hart of a die, whose engines act for it. -/
def dieHart (d : Nat) : Nat := 512 * d

/-- R318: the place of a counter; a window, the aperture and the reserved range trap. -/
def counterPlace (s : State) (i : Nat) (sp : Space) (va : W64) : Except TrapInfo Loc :=
  if va.toNat % 8 ≠ 0 then .error (cause 0x06 va) else
  match regionOf va.toNat with
  | .ordinary => do
    let p ← locate s i sp true .load va
    match p.loc with
    | .mem pa => return .mem pa
    | _ => .error (cause 0x06 va)
  | _ => .error (cause 0x06 va)

/-- R318: the checks of a task's counters. -/
def countersOk (s : State) (i : Nat) (sp : Space) : List (W64 × W64) → Except TrapInfo Unit
  | [] => .ok ()
  | c :: r => do
    let _ ← counterPlace s i sp c.1
    countersOk s i sp r

/-! ## Queues (R314, R315) -/

/-- A queue of a partition. -/
def Part.queue (p : Part) (q : Nat) : TaskQueue := kget {} p.queues q
def Part.setQueue (p : Part) (q : Nat) (x : TaskQueue) : Part := { p with queues := kput p.queues q x }
def setQueue (s : State) (slot : Option Nat) (q : Nat) (x : TaskQueue) : State := s.modPart slot fun p => p.setQueue q x

/-- R313: bit q of `cw.sqctl`. -/
def Part.enabled (p : Part) (q : Nat) : Bool := p.sqctl.getLsbD q

/-- R315: entry `j` of the overflow ring. -/
def TaskQueue.ringAddr (q : TaskQueue) (j : Nat) : W64 := q.ovf + BitVec.ofNat 64 (128 * (j % q.ovn))

/-- R315, R316: a range of the overflow area, which lies in memory. -/
def ringOk (s : State) (slot : Option Nat) (q : TaskQueue) (acc : Acc) (va : W64) : Except TrapInfo Unit :=
  match regionOf va.toNat with
  | .ordinary => checkRange s (dieHart q.home) (queueSpace s slot q) acc va 128
  | _ => .error (cause 0x06 va)

/-- R315, R316: an enqueue in queue order: on chip while there is room and nothing has spilled, else into the overflow area.
A spill that faults or finds no free entry answers the address for `cw.stval`. -/
def enqueue (s : State) (slot : Option Nat) (n : Nat) (bs : List Byte) : Except W64 State :=
  let q := (s.partOf slot).queue n
  let t := taskOf (wordsOf 16 bs)
  if q.olen = 0 ∧ q.chip.length < q.cap then .ok (setQueue s slot n { q with chip := q.chip ++ [{ desc := t, ready := t.ndep == 0 }] })
  else if q.ovn ≤ q.olen then .error q.ovf
  else
    let va := q.ringAddr (q.ohead + q.olen)
    match ringOk s slot q .store va with
    | .error f => .error f.val
    | .ok _ =>
      .ok (setQueue (writeRange s (dieHart q.home) (queueSpace s slot q) va bs) slot n { q with olen := q.olen + 1 })

/-- OVERFLOW_REFILL (R315): entries move back on chip in queue order; one that cannot be read stays where it is. -/
def refill (slot : Option Nat) (n : Nat) : Nat → State → State
  | 0, s => s
  | fuel + 1, s =>
    let q := (s.partOf slot).queue n
    if q.olen = 0 ∨ q.cap ≤ q.chip.length then s else
    let s := reachRange s (dieHart q.home) (queueSpace s slot q) true (q.ringAddr q.ohead) 128
    match readRange s (dieHart q.home) (queueSpace s slot q) true (q.ringAddr q.ohead) 128 with
    | .error _ => s
    | .ok bs =>
      let t := taskOf (wordsOf 16 bs)
      refill slot n fuel (setQueue s slot n { q with
        chip := q.chip ++ [{ desc := t, ready := t.ndep == 0 }], ohead := (q.ohead + 1) % q.ovn, olen := q.olen - 1 })

/-- The entry at place `k` of a queue leaves the chip. -/
def dropEntry (s : State) (slot : Option Nat) (n k : Nat) : State :=
  let q := (s.partOf slot).queue n
  refill slot n 512 (setQueue s slot n { q with chip := q.chip.eraseIdx k })

/-! ## `tspawn` (R165, R316) -/

/-- R316: the state of a queue as a `tspawn` of hart `i` and gang `g` finds it: held behind a spill of another hart of its
gang, behind an earlier waiter, or free to go on. -/
inductive SpillState where
  | held | behind | clear
deriving DecidableEq, Repr

/-- R316: a hart that waited and has not gone on from its `tspawn`: it is at it, or a handler that runs on it returns there. -/
def stillThere (s : State) (w : Nat × W64) : Bool :=
  let h := s.hart w.1
  match h.mode with
  | .free => false
  | .running | .waiting _ false => h.pc == w.2
  | _ => h.pc == w.2 || h.sup.pc == w.2 || h.fwl.pc == w.2

def spillState (s : State) (q : TaskQueue) (i g : Nat) : SpillState :=
  if q.spills.any fun x => x.2 == g && x.1 != i then .held
  else if (q.waiters.takeWhile fun w => w.1 != i).any fun w => (s.hart w.1).gid == g && stillThere s w then .behind
  else .clear

/-- R316: the harts that wait at a `tspawn` to a queue go on, when their gang's spills have been resolved. -/
def releaseSpawners (s : State) (slot : Option Nat) (n : Nat) : State :=
  let q := (s.partOf slot).queue n
  q.waiters.foldl (init := s) fun t w =>
    let h := t.hart w.1
    match h.mode with
    | .waiting (.tspawn m) hd =>
      if m = n && !(q.spills.any fun x => x.2 == h.gid) then
        wakeCore (t.setHart w.1 { h with mode := if hd then .trapped else .running }) (coreOf w.1)
      else t
    | _ => t

/-- R316: hart `i` has completed its `tspawn` to a queue, or has been stopped. -/
def endSpill (s : State) (slot : Option Nat) (n i : Nat) : State :=
  let q := (s.partOf slot).queue n
  releaseSpawners (setQueue s slot n { q with
    spills := q.spills.filter fun x => x.1 != i, waiters := q.waiters.filter fun w => w.1 != i }) slot n

/-- R316: hart `i` has completed its `tspawn`, whose descriptor may have named another queue before: nothing is left of it at any
queue. -/
def endSpills (s : State) (slot : Option Nat) (i : Nat) : State :=
  (List.range 16).foldl (init := s) fun t n =>
    let q := (t.partOf slot).queue n
    if q.spills.any (fun x => x.1 == i) || q.waiters.any (fun w => w.1 == i) then endSpill t slot n i else t

/-- R316: a `tspawn` of the moving hart meets a spill fault at an address. -/
def spawnFault (s : State) (slot : Option Nat) (n : Nat) (va : W64) : Out :=
  let q := (s.partOf slot).queue n
  (setQueue s slot n { q with
    spills := (q.spills.filter fun x => x.1 != s.cur) ++ [(s.cur, s.me.gid)]
    waiters := q.waiters.filter fun w => w.1 != s.cur }).trapMe (cause 0x0E va)

/-- R316: the moving hart waits behind a spill, at its place in the order. -/
def spawnWait (s : State) (slot : Option Nat) (n : Nat) : State :=
  let q := (s.partOf slot).queue n
  (setQueue s slot n { q with
    waiters := if q.waiters.any fun w => w.1 == s.cur then q.waiters else q.waiters ++ [(s.cur, s.me.pc)] }).wait (.tspawn n)

/-- R165: the status of a descriptor that is not enqueued, or 0. -/
def spawnStatus (s : State) (slot : Option Nat) (t : TaskDesc) : Nat :=
  if t.badLimits then 1
  else if t.part != (s.partOf slot).record.id || t.asid.toNat != fld s.me.sw.sasid 15 0 then 2
  else if !(s.partOf slot).enabled t.queue then 3
  else 0

/-- R165, R316: a `tspawn` with its descriptor read and checked. -/
def spawnBytes (d : Reg) (bs : List Byte) (s : State) : Out :=
  let slot := slotOfHart s s.cur
  let t := taskOf (wordsOf 16 bs)
  let st := spawnStatus s slot t
  let n := t.queue
  if st ≠ 0 then .next ((endSpills s slot s.cur).write d (BitVec.ofNat 64 st)) else
  match spillState s ((s.partOf slot).queue n) s.cur s.me.gid with
  | .held => .next (spawnWait s slot n)
  | .behind => .next s
  | .clear => match enqueue s slot n bs with
    | .error va => spawnFault s slot n va
    | .ok u => .next ((endSpills u slot u.cur).write d 0)

def execTspawn (d a : Reg) (s : State) : Out :=
  let va := s.rx a
  let sp := spaceOf s s.cur
  bindingFirst (.tspawn d a) s s.me.guarded <|
  if va.toNat % 64 ≠ 0 then s.trapMe (cause 0x02 va) else
  match checkRange s s.cur sp .load va 128 with
  | .error t => s.trapMe t
  | .ok _ => afterCommit (.tspawn d a) s fun s =>
    if !releaseReady s s.cur 3 then .next s else
    let s := release s s.cur 3
    let s := homeRange s s.cur sp va 128
    match readRange s s.cur sp false va 128 with
    | .error t => s.trapMe t
    | .ok bs =>
      let w := wordsOf 16 bs
      if taskReserved w then s.trapMe (cause 0x06 va) else
      match countersOk s s.cur (taskSpace s (slotOfHart s s.cur) (taskOf w)) (taskOf w).counters with
      | .error t => s.trapMe t
      | .ok _ => spawnBytes d bs s

/-! ## Enqueues by the host (R317) -/

/-- R317: an address-space identifier names an address space of a partition. -/
def asidNamed (s : State) (slot : Option Nat) (asid : BitVec 16) : Bool :=
  match tableWords s slot (fld (s.partOf slot).sasdir 51 24 <<< 24 ||| 256 * asid.toNat) 32 with
  | .ok r => recordOk r
  | .error _ => false

/-- R317: the descriptor at a physical address of the partition. -/
def hostDescriptor (s : State) (slot : Option Nat) (pa : Nat) : Option (List Byte) :=
  if pa % 64 ≠ 0 ∨ !ownsPa s slot pa ∨ !ownsPa s slot (pa + 127) then none
  else if (poisonAt s .home (.mem pa) 128).isSome then none
  else some (s.mem.bytes pa 128)

/-- R317: a swap on the doorbell of queue `n` with its operand: the state and the status. -/
def hostEnqueue (s : State) (slot : Option Nat) (n pa : Nat) : State × Nat :=
  match hostDescriptor s slot pa with
  | none => (s, 3)
  | some bs =>
    let w := wordsOf 16 bs
    let t := taskOf w
    if taskReserved w then (s, 3)
    else if t.badLimits then (s, 1)
    else if t.part != (s.partOf slot).record.id || !asidNamed s slot t.asid then (s, 2)
    else if !(s.partOf slot).enabled n then (s, 3)
    else match countersOk s (dieHart (homeDie pa)) (taskSpace s slot t) t.counters with
      | .error _ => (s, 3)
      | .ok _ => match enqueue s slot n bs with
        | .error _ => (s, 3)
        | .ok u => (u, 0)

/-! ## Enabling and disabling queues (R314, R327) -/

/-- R314: queue descriptor `n` in 32 words, or that it is refused. -/
def queueOfWords (p : Part) (kasid : BitVec 16) (w : List W64) : Option TaskQueue :=
  let z := fun i => w.getD i 0
  let cset : BitVec 768 := BitVec.ofNat 768 (((w.drop 4).take 12).foldr (fun x (n : Nat) => x.toNat + n <<< 64) 0)
  let cap := fld (z 0) 9 0
  if fld (z 0) 63 13 ≠ 0 || decide (5 < fld (z 0) 12 10) || cap = 0 || decide (512 < cap) || fld (z 1) 63 55 ≠ 0
    || fld (z 1) 6 0 ≠ 0 || fld (z 2) 63 32 ≠ 0 || z 3 ≠ 0 || (w.drop 16).any (· != 0)
    || cset == 0 || cset &&& ~~~p.record.cores != 0 then none
  else some
    { home := fld (z 0) 12 10, cap := cap, ovf := z 1, ovn := fld (z 2) 31 0, cset := cset, kasid := kasid }

/-- R314: the on-chip entries that the enabled queues of a partition homed on a die have. -/
def Part.capOn (p : Part) (d : Nat) : Nat :=
  (List.range 16).foldl (fun n q => if p.enabled q && (p.queue q).home == d then n + (p.queue q).cap else n) 0

/-- R348: a die's share of task-queue entries. -/
def PartRec.entries (r : PartRec) (d : Nat) : Nat := fld r.qent (10 * d + 9) (10 * d)

/-- R314: queue `n` turned on by hart `i`. -/
def enableQueue (s : State) (i n : Nat) : Except TrapInfo State := do
  let slot := slotOfHart s i
  let p := s.partOf slot
  if p.enabled n then return s
  else
    let kasid := BitVec.ofNat 16 (s.hart i).sw.skasid.toNat
    let sp := queueSpace s slot { kasid := kasid }
    let s := homeRange s i sp (p.sqtab + BitVec.ofNat 64 (256 * n)) 256
    let bs ← readRange s i sp false (p.sqtab + BitVec.ofNat 64 (256 * n)) 256
    match queueOfWords p kasid (wordsOf 32 bs) with
    | none => .error (cause 0x06)
    | some q =>
      let q := { q with spills := (p.queue n).spills, waiters := (p.queue n).waiters }
      let p' := { p.setQueue n q with sqctl := p.sqctl ||| bitAt n true }
      if p.record.entries q.home < p'.capOn q.home then .error (cause 0x06) else return s.modPart slot fun _ => p'

/-- R327: bytes of a hart's share zeroed. -/
def zeroShare (s : State) (i off n : Nat) : State :=
  let c := s.core (coreOf i)
  let o := hartIx i * 0x100000 + off
  s.setCore (coreOf i) (clearWords { c with spad := c.spad.filter fun b => b.1 < o || o + n ≤ b.1 } o n)

/-- R393: the part of a range that lies in the region of its lowest byte, behind which the range fails. -/
def inRegion (r : W64 × Nat × Nat) : W64 × Nat × Nat := (r.1, r.2.1, min r.2.2 (regionEnd r.1.toNat - r.1.toNat))

/-- R122: the ranges of a working-set table in declaration order: whether the tier is 1, and base, offset in the share and length. An
entry with a reserved field or value, or a tier-1 range that leaves the share, stages nothing (log 32, DEDUCED). -/
def workingSet (w : List W64) : List (Bool × W64 × Nat × Nat) :=
  match w with
  | a :: b :: r =>
    let off := fld b 59 40
    let n := fld b 31 0
    let tier := fld b 33 32
    let rest := workingSet r
    if fld a 63 55 ≠ 0 || fld b 63 60 ≠ 0 || fld b 39 34 ≠ 0 || decide (1 < tier) || (tier = 1 && decide (0x100000 < off + n))
      then rest else (tier == 1, inRegion (a, off, n)) :: rest
  | _ => []

/-- R80: the lines of a task's working-set table are reached by an engine of the die of hart `i`. -/
def reachTable (s : State) (i : Nat) (sp : Space) (t : TaskDesc) : State := reachRange s i sp true t.wstab (16 * min t.nws 8)

/-- R122, R324: the working-set table of a task; one that cannot be read, or that leaves its region (R393), is empty (log 32,
DEDUCED). A table that is not 64-byte aligned is read where it lies: R122 gives it no fate (log 76, DEDUCED). -/
def stageTable (s : State) (i : Nat) (sp : Space) (t : TaskDesc) : List W64 :=
  let n := min t.nws 8
  if n = 0 || (leavesRegion t.wstab (16 * n)).isSome then [] else
  match readRange s i sp true t.wstab (16 * n) with
  | .ok bs => wordsOf (2 * n) bs
  | .error _ => []

/-- R324: the ranges of a task that are staged on hart `i`, in declaration order: all of them for rank 0 and the tier-1 ranges for
another rank; `one` and `zero` say which tiers count. -/
def stageRanges (s : State) (i : Nat) (sp : Space) (t : TaskDesc) (zero one : Bool) : List (Bool × W64 × Nat × Nat) :=
  (workingSet (stageTable s i sp t)).filter fun g => if g.1 then one else zero

/-- R314, R323, R327: the reservation of hart `i` ends without a start: the bytes that staging wrote are zeroed, its charge is
released, and the requests made for it are withdrawn (R322). -/
def cancelBinding (s : State) (i : Nat) : State :=
  let h := s.hart i
  match h.resv with
  | none => s
  | some r =>
    let t := r.wrote.foldl (fun t x => zeroShare t i x.1 x.2) s
    setDecl (withdraw (t.setHart i { t.hart i with resv := none }) i) i none 0

/-- R314, R316: queue `n` of a partition turned off: its entries, and its bound tasks that have not started, are removed; a `tspawn`
that met a spill stays where it is. -/
def disableQueue (s : State) (slot : Option Nat) (n : Nat) : State :=
  let p := s.partOf slot
  if !p.enabled n then s else
  let bound := s.harts.filter fun x => slotOfHart s x.1 == slot && match x.2.resv with
    | some r => r.ctx.isNone && r.queue == n
    | none => false
  let t := bound.foldl (fun t x => cancelBinding t x.1) s
  let q := p.queue n
  t.modPart slot fun p =>
    { p.setQueue n { q with chip := [], ohead := 0, olen := 0, blk := false } with sqctl := p.sqctl &&& ~~~(bitAt n true) }

/-- QUEUE_ENABLE (R314): a write by `input.hart` that turns on queue `input.queue`; one that is refused changes nothing. -/
def execQueueEnable (s : State) : Out :=
  match enableQueue s s.input.hart (s.input.queue % 16) with
  | .ok t => .next t
  | .error _ => .next s

/-- QUEUE_DISABLE (R314). -/
def execQueueDisable (s : State) : Out :=
  .next (disableQueue s (slotOfHart s s.input.hart) (s.input.queue % 16))

/-! ## Readiness (R318, R368) -/

/-- R365, R368: the poison that the read of a counter consumes. -/
def counterPoison (s : State) (d : Nat) (sp : Space) (c : W64 × W64) : Option ErrEntry :=
  match counterPlace s (dieHart d) sp c.1 with
  | .error _ => none
  | .ok l => enginePoison s d l 8

/-- R318: one counter has reached its target; a counter that cannot be read has not. -/
def counterMet (s : State) (d : Nat) (sp : Space) (c : W64 × W64) : Bool :=
  match counterPlace s (dieHart d) sp c.1 with
  | .error _ => false
  | .ok l => (enginePoison s d l 8).isNone && decide (c.2.toNat ≤ ofLE (engineRead s d l 8))

/-- R80: a counter's line is reached by an engine of the home die. -/
def reachCounter (d : Nat) (sp : Space) (s : State) (c : W64 × W64) : State :=
  match counterPlace s (dieHart d) sp c.1 with
  | .error _ => s
  | .ok l => engineReach s d l 8

/-- R318: the counters of the entry at place `k` of a queue are read, as acquires of the home die. -/
def readCounters (s : State) (slot : Option Nat) (n k : Nat) : State :=
  let q := (s.partOf slot).queue n
  match q.chip[k]? with
  | none => s
  | some e =>
    if e.ready then s else
    let t := stepGeneration s q.home
    let sp := taskSpace t slot e.desc
    let t := e.desc.counters.foldl (reachCounter q.home sp) t
    let t := match e.desc.counters.findSome? (counterPoison t q.home sp) with
      | some x => logError t slot { x with act := 4 }
      | none => t
    if e.desc.counters.all (counterMet t q.home (taskSpace t slot e.desc)) then
      setQueue t slot n { q with chip := q.chip.set k { e with ready := true } }
    else t

/-- QUEUE_ENTRY_LOST (R368): an uncorrectable entry is removed and logged as kind 7 with the queue number. -/
def loseEntry (s : State) (slot : Option Nat) (n k : Nat) : State :=
  if ((s.partOf slot).queue n).chip.length ≤ k then s else
  logError (countError (dropEntry s slot n k) slot 16) slot ⟨7, 0, 4, 0, 0xFFF, n, 4⟩

/-- DEPENDENCE_READ (R318): `input.bad` says that the entry is found uncorrectable. -/
def execDependenceRead (s : State) : Out :=
  let i := s.input
  .next (if i.bad then loseEntry s (some i.slot) i.queue i.index else readCounters s (some i.slot) i.queue i.index)

/-- DEPENDENCE_TIMER (R318): the counters of every on-chip entry of a queue are read again. -/
def execDependenceTimer (s : State) : Out :=
  let i := s.input
  let n := ((s.part i.slot).queue i.queue).chip.length
  .next ((List.range n).foldl (fun t k => readCounters t (some i.slot) i.queue k) s)

/-! ## Dispatch (R319, R351, R370) -/

/-- A candidate: its priority, queue and place. -/
structure Candidate where
  prio : Nat
  queue : Nat
  place : Nat
  task : TaskDesc
  lines : Nat
deriving DecidableEq, Repr

def Candidate.before (a b : Candidate) : Bool :=
  a.prio < b.prio || (a.prio == b.prio && (a.queue < b.queue || (a.queue == b.queue && a.place ≤ b.place)))

/-- R319: the ready on-chip entries of a partition in their order. -/
def candidates (p : Part) : List Candidate :=
  sortBy Candidate.before ((List.range 16).flatMap fun q =>
    if p.enabled q then
      ((p.queue q).chip.zipIdx.filter fun e => e.1.ready).map fun e => ⟨e.1.desc.prio, q, e.2, e.1.desc, e.1.lines⟩
    else [])

/-- R319: the harts of a core set that are Free and not reserved, in order of hart index, then core number. -/
def freeHarts (s : State) (slot : Option Nat) (cset : BitVec 768) : List Nat :=
  let cores := (List.range 768).filter fun c => cset.getLsbD c && (s.partOf slot).record.ownsCore c
  (List.range 4).flatMap fun x => (cores.map fun c => 4 * c + x).filter fun i =>
    (s.hart i).mode == .free && (s.hart i).resv.isNone

/-- R370: the declaration of a task of queue `n` admitted for every rank; none is a refusal. A declaration that is not 64-byte
aligned is read where it lies (R122 gives it no fate; log 76, DEDUCED). -/
def admitGang (s : State) (slot : Option Nat) (n : Nat) (t : TaskDesc) : Option (Option MsDecl) :=
  if t.msdecl = 0 then some none else
  match readDecl s (dieHart ((s.partOf slot).queue n).home) (taskSpace s slot t) t.msdecl with
  | .ok (some d) =>
    let p := s.partOf slot
    if p.total + t.gang * contextCharge d ≤ p.record.hold then some (some d) else none
  | _ => none

/-- R351: the share of hart `i` zeroed when its owner changes. -/
def takeShare (s : State) (i : Nat) (part asid : BitVec 16) : State :=
  let c := s.core (coreOf i)
  if (c.shares.find? (·.1 = hartIx i)).map (·.2) = some (part, asid) then s else
  let t := zeroShare s i 0 0x100000
  t.setCore (coreOf i) { t.core (coreOf i) with shares := kput c.shares (hartIx i) (part, asid) }

/-- R310: the next context tag, never 0. -/
def nextTag (n : BitVec 32) : BitVec 32 := if n + 1 = 0 then 1 else n + 1

/-- R319: a hart reserved, with the wake message of R329. -/
def reserve (s : State) (i : Nat) (r : Reservation) (d : Option MsDecl) : State :=
  let s := { s with nextOrder := s.nextOrder + 1 }
  let c := (d.map contextCharge).getD 0
  let s := s.modPart (slotOfHart s i) fun p => { p with total := p.total + c }
  wakeCore (s.setHart i { s.hart i with resv := some { r with order := s.nextOrder }, decl := d, charge := c }) (coreOf i)

/-- R319: a gang of queue `n` bound to its harts, rank by rank; rank 0 stands for what was prefetched for the task (R324). -/
def bindRanks (slot : Option Nat) (c : Candidate) (gid : Nat) (d : Option MsDecl) : List (Nat × Nat) → State → State
  | [], s => s
  | (i, r) :: l, s =>
    let t := c.task
    let p := s.partOf slot
    let u := (takeShare s i p.record.id t.asid).modPart slot fun p => { p with nextTag := nextTag p.nextTag }
    bindRanks slot c gid d l (reserve u i
      { task := t, queue := c.queue, lines := if r = 0 then c.lines else 0, rank := r, gid := gid, tag := p.nextTag, prio := t.prio, min := t.min, pref := t.pref, decl := d } d)

/-- R319, R320: the candidates gone through; a queue of the list `blk` is held back. The ranks of a gang are bound all at once, and
each binding is an event of its core's arbiter. -/
def bindAll (slot : Option Nat) : List Candidate → List Nat → List (Nat × Nat) → State → State × List Nat
  | [], blk, _, s => (s, blk)
  | c :: r, blk, gone, s =>
    if blk.contains c.queue then bindAll slot r blk gone s else
    let t := c.task
    let free := freeHarts s slot ((s.partOf slot).queue c.queue).cset
    match if free.length < t.gang then none else admitGang s slot c.queue t with
    | none => bindAll slot r (c.queue :: blk) gone s
    | some d =>
      let gid := (s.partOf slot).nextGid
      let ranks := free.take t.gang
      let u := (ranks.foldl (fun u i => runPending u (coreOf i)) s).modPart slot fun p => { p with nextGid := gid + 1 }
      let u := ranks.foldl (fun u i => arbEvent u (coreOf i) id) (bindRanks slot c gid d ranks.zipIdx u)
      let before := (gone.filter fun g => g.1 = c.queue && g.2 < c.place).length
      let q := (u.partOf slot).queue c.queue
      bindAll slot r blk ((c.queue, c.place) :: gone)
        (setQueue u slot c.queue { q with chip := q.chip.eraseIdx (c.place - before) })

/-- DISPATCH_BIND (R319): the candidates of partition slot `input.slot` are gone through once. -/
def execDispatchBind (s : State) : Out :=
  let slot := some s.input.slot
  if s.hold.phase != .none then .next s else
  let r := bindAll slot (candidates (s.partOf slot)) [] [] s
  .next ((List.range 16).foldl (init := r.1) fun t n =>
    let q := (t.partOf slot).queue n
    if (t.partOf slot).enabled n then refill slot n 512 (setQueue t slot n { q with blk := r.2.contains n }) else t)

/-! ## The Proofer (R323 to R327) -/

/-- R324: the bytes staged into the scratchpad of a core for tasks that have not started. -/
def stagedOn (s : State) (c : Nat) : Nat :=
  (hartsOf c).foldl (fun n i => n + (((s.hart i).resv.map fun r => r.staged.foldl (· + ·) 0).getD 0)) 0

/-- Counts taken element by element, the greater of each pair. -/
def maxCounts : List Nat → List Nat → List Nat
  | a :: l, b :: m => max a b :: maxCounts l m
  | [], m => m
  | l, [] => l

/-- R323: a candidate is one of the first two whose queue's core set holds some core of the partition. -/
def prooferCandidate (p : Part) (c : Candidate) : Bool :=
  (List.range 768).any fun k => p.record.ownsCore k && ((p.queue c.queue).cset.getLsbD k)
    && (((candidates p).filter fun x => (p.queue x.queue).cset.getLsbD k).take 2).contains c

/-- R324: the bytes staged into memory-side segments for the candidates of a partition: unbound tasks, and bound ones that have not
started, where a gang's ranks share what is fetched for their task. -/
def stagedLines (s : State) (slot : Option Nat) : Nat :=
  let p := s.partOf slot
  let bound := s.harts.filterMap fun x => if slotOfHart s x.1 == slot then x.2.resv.bind fun r =>
    if r.ctx.isNone then some r else none else none
  let gangs := (bound.map Reservation.gid).eraseDups
  ((candidates p).filter (prooferCandidate p)).foldl (fun n c => n + c.lines) 0
  + gangs.foldl (fun n g => n + ((bound.filter fun r => r.gid == g).foldl
      (fun l r => maxCounts l (r.lines :: r.staged)) []).foldl (· + ·) 0) 0

/-- R324: both budgets of a partition have room for `m` more bytes; `spad` names the core whose scratchpad they go to. -/
def budgetRoom (s : State) (slot : Option Nat) (spad : Option Nat) (m : Nat) : Bool :=
  let r := (s.partOf slot).record
  decide (stagedLines s slot + m ≤ 2 ^ 20 * r.pmsc)
  && match spad with
    | some c => decide (stagedOn s c + m ≤ 1024 * r.pspad)
    | none => true

/-- R362: an 8-byte word of a scratchpad marked by the poison of a line that bytes were copied from. -/
def carryPoison (s : State) (c o n : Nat) (e : Option ErrEntry) : State :=
  match e with
  | none => s
  | some e => (List.range ((o + n - 1) / 8 + 1 - o / 8)).foldl (init := s) fun s j =>
    s.setCore c { s.core c with spadPoison := kput (s.core c).spadPoison (o / 8 + j) e.kind }

/-- R326, R362: `n` bytes from byte `lo` of a tier-1 range copied into the share of hart `i`, piece by piece, with their poison;
bytes that cannot be read leave the share as it is (log 32, DEDUCED). -/
def stageBytes (s : State) (i : Nat) (sp : Space) (r : W64 × Nat × Nat) (lo n : Nat) : Nat → State
  | 0 => s
  | fuel + 1 => if n = 0 then s else
    let va := r.1 + BitVec.ofNat 64 lo
    let k := lineStep va n
    let o := hartIx i * 0x100000 + r.2.1 + lo
    let t := match locate s i sp true .load va with
      | .error _ => s
      | .ok p =>
        match p.loc with
        | .fabric .. => s
        | l =>
          let t := engineReach s (dieOf i) l k
          carryPoison (writeHome t (.spad (coreOf i) o) (engineRead t (dieOf i) l k)) (coreOf i) o k
            (enginePoison t (dieOf i) l k)
    stageBytes t i sp r (lo + k) (n - k) fuel

/-- R324: the first range in declaration order that is not staged whole, with its number among those of tier 1 and the bytes staged
of it; `m` bytes of the tier-0 ranges have been fetched, and `g` holds the bytes staged of each tier-1 range. -/
def nextStage : List (Bool × W64 × Nat × Nat) → Nat → List Nat → Nat → Option ((Bool × W64 × Nat × Nat) × Nat × Nat)
  | [], _, _, _ => none
  | r :: l, m, g, n =>
    if r.1 then (if g.headD 0 < r.2.2.2 then some (r, n, g.headD 0) else nextStage l m g.tail (n + 1))
    else if m < r.2.2.2 then some (r, n, m)
    else nextStage l (m - r.2.2.2) g n

/-- A count of staged bytes set. -/
def putStaged (l : List Nat) (n x : Nat) : List Nat := (l ++ List.replicate (n + 1 - l.length) 0).set n x

/-- R324: the next 64 bytes, or what is left, of the bound task of hart `i` staged within the budgets, its ranges in declaration
order: of a tier-1 range into its share, and of a tier-0 range, which rank 0 stands for, as a count. -/
def stageBound (s : State) (i : Nat) (r : Reservation) : State :=
  let slot := slotOfHart s i
  let sp := r.space.getD (taskSpace s slot r.task)
  let s := reachTable s i sp r.task
  match nextStage (stageRanges s i sp r.task (r.rank == 0) true) r.lines r.staged 0 with
  | none => s
  | some ((one, g), n, k) =>
    let m := min 64 (g.2.2 - k)
    if !one then
      if !budgetRoom s slot none m then s else s.setHart i { s.hart i with resv := some { r with lines := r.lines + m } }
    else if !budgetRoom s slot (some (coreOf i)) m then s
    else
      let t := stageBytes s i sp g k m 2
      let r := { r with staged := putStaged r.staged n (k + m), space := some sp, wrote := (g.2.1 + k, m) :: r.wrote }
      t.setHart i { t.hart i with resv := some r }

/-- R323, R324: the next 64 bytes of an unbound candidate fetched into its home segments: only the count changes. -/
def prefetch (s : State) (slot : Option Nat) (n k : Nat) : State :=
  let p := s.partOf slot
  match (candidates p).find? fun c => c.queue == n && c.place == k with
  | none => s
  | some c =>
    if !prooferCandidate p c then s else
    let i := dieHart (p.queue n).home
    let sp := taskSpace s slot c.task
    let s := reachTable s i sp c.task
    match nextStage (stageRanges s i sp c.task true false) c.lines [] 0 with
    | none => s
    | some (g, _, x) =>
      let m := min 64 (g.2.2.2 - x)
      if !budgetRoom s slot none m then s else
      setQueue s slot n { p.queue n with chip := (p.queue n).chip.modify k fun e => { e with lines := e.lines + m } }

/-- PROOFER_STAGING (R324): the bound task of `input.hart`, or, where it has none, the candidate at place `input.index` of queue
`input.queue` of partition slot `input.slot`, is staged further. -/
def execProoferStaging (s : State) : Out :=
  let i := s.input.hart
  if s.hold.phase != .none then .next s else
  match (s.hart i).resv with
  | some r => .next (if r.ctx.isSome then s else stageBound s i r)
  | none => .next (prefetch s (some s.input.slot) s.input.queue s.input.index)

/-- R326: every byte of the tier-1 ranges that the Proofer has not staged is copied; no budget limits it. -/
def stageRest (s : State) (i : Nat) (r : Reservation) : State :=
  let sp := r.space.getD (taskSpace s (slotOfHart s i) r.task)
  let s := reachTable s i sp r.task
  (stageRanges s i sp r.task false true).zipIdx.foldl (init := s) fun t g =>
    let k := r.staged.getD g.2 0
    stageBytes t i sp g.1.2 k (g.1.2.2.2 - k) ((g.1.2.2.2 - k) / 64 + 2)

end Sys2Proof.Machine
end

