-- ==== Sys2Proof/Machine/Harts.lean ====
section
/-! DEFINITION. How contexts start and end on a hart: `hstart`, `hstop`, `tyield`, and the steps HART_START,
PREEMPTED_RESUME and TYIELD_RESOLVE (R21, R31, R33, R51, R161, R166, R252, R307, R308, R326, R351). -/

namespace Sys2Proof.Machine

/-! ## Starting (R51, R307) -/

/-- R51, R161: the user control words of a task's hart. -/
def taskWords (r : Reservation) : UserWords :=
  { gang := at64 32 r.gid ||| at64 16 r.rank ||| at64 0 r.task.gang
    lease := at64 0 r.min ||| at64 4 r.pref, grant := grantWord r.got false false }

/-- R51: the base of a hart's scratchpad share. -/
def shareStart (i : Nat) : W64 := BitVec.ofNat 64 (windowBase + hartIx i * 0x100000)

/-- R51: the scalar registers of a starting task. -/
def taskRegs (i : Nat) (r : Reservation) : Vector W64 32 :=
  ((((((Vector.replicate 32 (0 : W64)).set 10 r.task.args).set 11 (BitVec.ofNat 64 r.rank)).set 12
    (BitVec.ofNat 64 r.task.gang)).set 4 (shareStart i)).set 2 (shareStart i + 0xC0000))

/-- A level without a queue image. -/
def TrapLevel.noImage (w : TrapLevel) : TrapLevel := { w with stat := w.stat &&& ~~~(bitAt 5 true), image := [] }

/-- R51, R307, R313: a hart with nothing of an earlier context; the trap words of the levels stay. -/
def Hart.fresh (h : Hart) : Hart :=
  { sw := { h.sw with sctx := 0, sswz := 0, sdefct := 0 }
    sup := h.sup.noImage, fwl := h.fwl.noImage, nextSeq := h.nextSeq, decl := h.decl, charge := h.charge }

/-- R51: a task starts on its hart. -/
def startTask (i : Nat) (r : Reservation) (h : Hart) : Hart :=
  let g := h.fresh
  { g with
    mode := .running, pc := evenAddr r.task.entry, x := taskRegs i r, uw := taskWords r
    sw := { g.sw with sctx := at64 0 r.tag.toNat, sasid := at64 0 r.task.asid.toNat, smsave := r.task.msdecl &&& bits 54 6 }
    task := some r.task, prio := r.prio, leaseMin := r.min, leasePref := r.pref, order := r.order }

/-- R307: a saved context starts on its hart; the registers that R307 does not name hold open values (log 9, DESIGN CHOICE). -/
def startContext (ticks : Nat) (area : W64) (r : Reservation) (h : Hart) : Hart :=
  let g := h.fresh
  { g with
    mode := .running, priv := .sup, pc := evenAddr r.resume
    x := (Vector.ofFn fun n : Fin 32 => Config.freeWord (32 * ticks + n.val)).set 10 area
    uw := { grant := grantWord r.got r.prot false }
    sw := { g.sw with sasid := at64 0 r.task.asid.toNat }
    resumed := true, prio := r.prio, leaseMin := r.min, leasePref := r.pref, order := r.order }

/-- R33, R307, R321: the slices given let the hart start. -/
def Reservation.ready (r : Reservation) : Bool :=
  if r.ctx.isSome then popc8 r.got == r.min else decide (r.min ≤ popc8 r.got)

/-- HART_START (R51, R165, R307, R322, R326): a reserved hart that has its slices starts; the die generation steps before its
first fetch, and the requests made for it are withdrawn. -/
def startHart (s : State) (i : Nat) (context : Bool) : State :=
  let h := s.hart i
  match h.resv with
  | none => s
  | some r =>
    if !r.ready || (context && r.ctx.isNone) || s.hold.phase != .none || (s.core (coreOf i)).gate != .active then s else
    let t := withdraw s i
    let t := match r.ctx with
      | some a => t.setHart i (startContext s.ticks a r (t.hart i))
      | none =>
        let t := stageRest t i r
        t.setHart i (startTask i r (t.hart i))
    stepGeneration t (dieOf i)

def execHartStart (s : State) : Out := .next (startHart s s.input.hart false)

/-- PREEMPTED_RESUME (R33): a saved context gets exactly its slices and resumes. -/
def execPreemptedResume (s : State) : Out := .next (startHart s s.input.hart true)

/-- R307: the reservation that a resume header names, or that it is refused. -/
def headerReservation (s : State) (slot : Option Nat) (area : W64) (w : List W64) : Option Reservation :=
  let z := fun i => w.getD i 0
  let n := fld (z 1) 3 0
  let part := BitVec.ofNat 16 (fld (z 2) 15 0)
  if fld (z 1) 63 8 ≠ 0 || fld (z 2) 63 32 ≠ 0 || (w.drop 3).any (· != 0) || n = 0 || decide (8 < n)
    || part != (s.partOf slot).record.id then none
  else some
    { ctx := some area, resume := z 0, prot := (z 1).getLsbD 4, prio := fld (z 1) 7 5, min := n, pref := n
      task := { asid := BitVec.ofNat 16 (fld (z 2) 31 16), part := part } }

/-- R307: the target is a Free hart of the partition that nothing has reserved. -/
def startable (s : State) (slot : Option Nat) (i : Nat) : Bool :=
  slot.isSome && slotOfHart s i == slot && (s.hart i).mode == .free && (s.hart i).resv.isNone

def execHstart (a b : Reg) (s : State) : Out :=
  needsPriv (.hstart a b) s <|
    let va := s.rx a
    let i := (s.rx b).toNat
    let slot := slotOfHart s s.cur
    let sp := spaceOf s s.cur
    match checkRange s s.cur sp .load va 64 with
    | .error t => s.trapMe t
    | .ok _ =>
      let s := homeRange s s.cur sp va 64
      match readRange s s.cur sp false va 64 with
      | .error t => s.trapMe t
      | .ok bs =>
        match headerReservation s slot va (wordsOf 8 bs), startable s slot i with
        | some r, true =>
          .next (arbEvent s (coreOf i) fun s => reserve (takeShare s i r.task.part r.task.asid) i r none).pass
        | _, _ => s.trapMe (cause 0x06)

/-! ## Ending (R308) -/

/-- R308: the hart of an ended context. -/
def Hart.ended' (h : Hart) : Hart :=
  { h.fresh with sw := { h.sw with sctx := 0, smsave := 0 }, x := h.x, decl := none, charge := 0 }

/-- R308, R31, R50, R220, R316, R370: what ends with a context besides its hart. -/
def endContext (s : State) (i : Nat) : State :=
  let h := s.hart i
  let slot := slotOfHart s i
  let c := s.core (coreOf i)
  let t := setDecl s i none 0
  let t := if c.owner = some i then t.setCore (coreOf i) { t.core (coreOf i) with owner := none } else t
  let t := if h.saved then t else t.modPart slot fun p =>
    { p with gangOut := p.gangOut ++ [(h.gid, h.rank)], kept := p.kept.filter fun k => k.1 != h.tag.toNat }
  let t := endSpills t slot i
  t.setHart i (t.hart i).ended'

/-- R252: copies of the hart are on their way. -/
def Hart.copiesOut (h : Hart) : Bool :=
  !h.chStopped && h.ch.toList.any fun x => x.copies.any fun y => y.fault.isNone

/-- R308, R320: `hstop` of the issuing hart's own id: its queues drain, an open strip is committed, and then the context ends,
which is an event for the core's arbiter. -/
def stopSelf (s : State) : Out :=
  if s.me.copiesOut || !s.me.drained then .next s
  else match if s.me.gs then bufferError s s.cur else none with
    | some t => (performSome s s.cur).trapMe t
    | none =>
      let (t, done) := if s.me.gs then commitStrip s s.cur s.me.pc false else (s, true)
      if !done || t.fab.requests.any fun r => r.hart == t.cur && r.store then .next t
      else .next (arbEvent t (coreOf t.cur) fun t => endContext t t.cur)

/-- R308: `hstop` of another hart. -/
def stopOther (s : State) (i : Nat) : State :=
  let h := s.hart i
  if !h.live || h.preempt.contains 1 then s
  else wakeCore (s.setHart i { h with preempt := h.preempt ++ [1] }) (coreOf i)

def execHstop (a : Reg) (s : State) : Out :=
  needsPriv (.hstop a) s <|
    let i := (s.rx a).toNat
    let slot := slotOfHart s s.cur
    if i = s.cur then stopSelf s
    else if slot.isNone || slotOfHart s i != slot then s.trapMe (cause 0x06)
    else .next (stopOther s i).pass

/-! ## `tyield` (R166) -/

/-- R166: a ready task of equal or higher priority waits for a hart or for slices of hart `i`'s core. -/
def demand (s : State) (i : Nat) : Bool :=
  let c := coreOf i
  let p := s.partOf (slotOfHart s i)
  let prio := (s.hart i).prio
  ((candidates p).any fun x => decide (x.prio ≤ prio) && (p.queue x.queue).cset.getLsbD c)
  || (hartsOf c).any fun j => j != i && match (s.hart j).resv with
      | some r => decide (r.prio ≤ prio)
      | none => match waiterOf j (s.hart j) with
        | some w => decide (w.prio ≤ prio)
        | none => false

/-- R166: a `tyield` of a handler waits like one of a task (log 67, DEDUCED). -/
def execTyield (s : State) : Out := if demand s s.cur then .next (s.wait .tyield) else .next s.pass

/-- TYIELD_RESOLVE (R166, R329): the hart is pre-empted with code 2, or its `tyield` completes. -/
def execTyieldResolve (s : State) : Out :=
  let i := s.input.hart
  let h := s.hart i
  if s.hold.phase != .none then .next s else
  match h.mode with
  | .waiting .tyield _ =>
    if demand s i then
      .next (if h.preempt.contains 2 then s else wakeCore (s.setHart i { h with preempt := h.preempt ++ [2] }) (coreOf i))
    else .next (wakeCore (s.setHart i { (h.finish 0 0) with preempt := h.preempt.erase 2 }) (coreOf i))
  | _ => .next s

end Sys2Proof.Machine
end

