-- ==== Sys2Proof/Machine/Partitions.lean ====
section
/-! DEFINITION. Partition records, their checks, and the moves and clearing of resources (R346 to R350). -/

namespace Sys2Proof.Machine

/-! ## Records (R348) -/

/-- R348: the fields of a record in 64 words. -/
def partRecOf (w : List W64) : PartRec :=
  let z := fun i => w.getD i 0
  { id := BitVec.ofNat 16 (fld (z 0) 15 0), key := BitVec.ofNat 32 (fld (z 1) 31 0)
    segs := BitVec.ofNat 48 (fld (z 2) 47 0), hold := fld (z 3) 31 0
    pshare := fld (z 4) 35 32, pmsc := fld (z 4) 31 16, pspad := fld (z 4) 15 0, qent := z 5
    asdir := at64 24 (fld (z 6) 51 24), kasid := BitVec.ofNat 16 (fld (z 6) 15 0), wtab := at64 11 (fld (z 7) 51 11)
    cores := BitVec.ofNat 768 (((w.drop 8).take 12).foldr (fun x (n : Nat) => x.toNat + n <<< 64) 0)
    fifos := BitVec.ofNat 96 ((z 20).toNat + fld (z 21) 31 0 <<< 64) }

/-- R348: a reserved field of a record is nonzero. -/
def recordReserved (w : List W64) : Bool :=
  let z := fun i => w.getD i 0
  fld (z 0) 63 16 != 0 || fld (z 1) 63 32 != 0 || fld (z 2) 63 48 != 0 || fld (z 3) 63 32 != 0 || fld (z 4) 63 36 != 0
  || fld (z 5) 63 60 != 0 || fld (z 6) 63 52 != 0 || fld (z 6) 23 16 != 0 || fld (z 7) 63 52 != 0 || fld (z 7) 10 0 != 0
  || fld (z 21) 63 32 != 0 || (w.drop 22).any (· != 0)

/-- The number of set bits below `n`. -/
def countBits (n : Nat) (f : Nat → Bool) : Nat := (List.range n).countP f

/-- The other valid slots' records. -/
def otherRecords (s : State) (slot : Nat) : List PartRec :=
  (s.parts.filter fun p => p.1 != slot && p.2.record.id != 0).map fun p => p.2.record

/-- R349: status 1. -/
def recordBad (s : State) (slot : Nat) (w : List W64) : Bool :=
  let r := partRecOf w
  recordReserved w || r.id == 0 || r.key == 0 || (otherRecords s slot).any (fun o => o.key == r.key || o.id == r.id)
  || r.pshare == 0 || decide (15 < r.pshare) || decide (4096 < r.pspad)
  || decide (128 * countBits 48 r.segs.getLsbD < r.pmsc) || (List.range 6).any fun d => decide (512 < r.entries d)

/-- R349: status 2. -/
def recordTaken (s : State) (slot : Nat) (r : PartRec) : Bool :=
  let o := otherRecords s slot
  o.any (fun x => x.cores &&& r.cores != 0 || x.segs &&& r.segs != 0 || x.fifos &&& r.fifos != 0)
  || decide (192 * 2 ^ 20 < o.foldl (fun n x => n + x.hold) r.hold)
  || (List.range 6).any fun d => decide (512 < o.foldl (fun n x => n + x.entries d) (r.entries d))

/-! ## Resources that change hands (R349 status 3) -/

/-- R346, R350: the resources that leave or join: where the slot gets another partition, each that either owns. -/
def moved {w : Nat} (a b : PartRec) (f : PartRec → BitVec w) : List Nat :=
  (List.range w).filter fun n => if a.id = b.id then (f a ^^^ f b).getLsbD n else (f a ||| f b).getLsbD n

/-- The cores that leave or join. -/
def movedCores (a b : PartRec) : List Nat := moved a b PartRec.cores
/-- The segments that leave or join. -/
def movedSegs (a b : PartRec) : List Nat := moved a b PartRec.segs
/-- FIFO f of die d as 16 d + f, those that leave or join. -/
def movedFifos (a b : PartRec) : List Nat := moved a b PartRec.fifos

/-- R349: a hart of the core is not Free, or is reserved. -/
def coreBusy (s : State) (c : Nat) : Bool :=
  (hartsOf c).any fun i => (s.hart i).live || (s.hart i).resv.isSome

/-- R349: a FIFO holds a command or a result entry, or runs a command. -/
def fifoBusy (s : State) (f : Nat) : Bool :=
  match (s.die (f / 16)).fifos[f % 16]? with
  | none => false
  | some x => !x.cmds.isEmpty || x.run.isSome || !x.results.isEmpty || !x.waiting.isEmpty

/-- The segments of the pages of a range. -/
def rangeSegments (s : State) (sp : Space) (va : W64) (n : Nat) : List Nat :=
  (List.range (if n = 0 then 0 else (va.toNat % 65536 + n + 65535) / 65536)).filterMap fun j =>
    let a := va.toNat / 65536 * 65536 + 65536 * j
    match walk s sp a with
    | .ok e => some (segmentOf (e.pa a))
    | .error _ => none

/-- R349: the ranges that a task names. -/
def TaskDesc.names (s : State) (slot : Option Nat) (t : TaskDesc) : List (W64 × Nat) :=
  let i := 0
  let sp := taskSpace s slot t
  [(t.entry, 4), (t.args, 1), (t.wstab, 16 * t.nws)] ++ t.counters.map (fun c => (c.1, 8))
  ++ (if t.nws = 0 then [] else match readRange s i sp true t.wstab (16 * t.nws) with
    | .ok bs => (List.range t.nws).map fun j =>
        ((wordsOf (2 * t.nws) bs).getD (2 * j) 0, fld ((wordsOf (2 * t.nws) bs).getD (2 * j + 1) 0) 31 0)
    | .error _ => [])
  ++ (if t.msdecl = 0 then [] else (t.msdecl, 272) :: match readDecl s i sp t.msdecl with
    | .ok (some d) => d.ranges
    | _ => [])

/-- R315: the tasks in the overflow area of a queue. -/
def ringTasks (s : State) (slot : Nat) (q : TaskQueue) : List TaskDesc :=
  (List.range q.olen).filterMap fun j =>
    match readRange s (dieHart q.home) (queueSpace s (some slot) q) true (q.ringAddr (q.ohead + j)) 128 with
    | .ok bs => some (taskOf (wordsOf 16 bs))
    | .error _ => none

/-- R307, R349: the task that a reservation is for; none for the context of an `hstart`. -/
def Reservation.bound (r : Reservation) : Option TaskDesc := if r.ctx.isNone then some r.task else none

/-- R349: the tasks that a partition has not finished: queued, bound, running, or pre-empted. -/
def unfinished (s : State) (slot : Nat) : List TaskDesc :=
  ((List.range 16).flatMap fun q =>
    ((s.part slot).queue q).chip.map QTask.desc ++ ringTasks s slot ((s.part slot).queue q))
  ++ (s.part slot).kept.filterMap (fun k => k.2.task)
  ++ s.harts.flatMap fun p => if slotOfHart s p.1 == some slot then p.2.task.toList ++ (p.2.resv.bind Reservation.bound).toList
    else []

/-- R349: the segments that an enabled queue descriptor or an unfinished task names. -/
def namedSegments (s : State) (slot : Nat) : List Nat :=
  let p := s.part slot
  ((List.range 16).flatMap fun q => if p.enabled q then
      rangeSegments s (queueSpace s (some slot) (p.queue q)) (p.queue q).ovf (128 * (p.queue q).ovn) else [])
  ++ (unfinished s slot).flatMap fun t =>
    (t.names s (some slot)).flatMap fun r => rangeSegments s (taskSpace s (some slot) t) r.1 r.2

/-- R349: status 3. -/
def resourcesBusy (s : State) (slot : Nat) (r : PartRec) : Bool :=
  let o := (s.part slot).record
  let leaving := (movedSegs o r).filter o.segs.getLsbD
  (movedCores o r).any (coreBusy s) || (movedFifos o r).any (fifoBusy s)
  || (!leaving.isEmpty && (namedSegments s slot).any fun g => leaving.contains g)

/-! ## RESOURCE_CLEAR (R350) -/

/-- R350: a core that changes owner; the clock, the gate and the issue ramp are not the owner's. -/
def clearCore (s : State) (slot : Nat) (c : Nat) : State :=
  let x := s.core c
  let t := s.setCore c { ({} : Core) with gate := x.gate, gateDepth := x.gateDepth, ramp := x.ramp, lost := x.lost }
  let t := (hartsOf c).foldl (fun t i => t.setHart i {}) t
  let d := dieOfCore c
  t.setDie d { t.die d with tlb := (t.die d).tlb.filter fun e => e.slot != some slot }

/-- R350: a segment that changes owner: no cache holds a line of it, and its module is zero. -/
def clearSegment (s : State) (g : Nat) : State :=
  { s with
    cores := s.cores.map fun p => (p.1, { p.2 with l1 := p.2.l1.filter fun l => segmentOf (64 * l.la) != g })
    dies := s.dies.map fun p => (p.1, { p.2 with lines := p.2.lines.filter fun l => segmentOf (64 * l.la) != g })
    mem := s.mem.filter fun b => segmentOf b.1 != g
    poison := s.poison.filter fun e => segmentOf (64 * e.1) != g }

/-- R350: a Collator FIFO that changes owner. -/
def clearFifo (s : State) (f : Nat) : State :=
  let d := s.die (f / 16)
  s.setDie (f / 16) { d with fifos := d.fifos.setIfInBounds (f % 16) {} }

/-- R349, R350: the resources of a slot moved to the owner that a record names. -/
def moveResources (s : State) (slot : Nat) (r : PartRec) : State :=
  let o := (s.part slot).record
  let t := (movedCores o r).foldl (fun t c => clearCore t slot c) s
  let t := (movedSegs o r).foldl clearSegment t
  (movedFifos o r).foldl clearFifo t

/-! ## The commands (R349) -/

/-- R349: a command ended with a status. -/
def endCommand (s : State) (slot op st : Nat) : State :=
  { s with fw := { s.fw with fpSlot := slot, fpOp := op, fpStatus := st, fpBusy := false } }

/-- R349: a command that is under way; the old key stays in force until busy clears. -/
def beginPartCommand (s : State) (slot op : Nat) (key : BitVec 32) : State :=
  { s with fw := { s.fw with fpSlot := slot, fpOp := op, fpStatus := 0, fpBusy := true, fpKey := key } }

/-- R335, R348: the directory base and supervisor asid loaded into a partition's harts. -/
def loadAsids (s : State) (slot : Nat) (r : PartRec) : State :=
  let cores := (List.range 768).filter fun c => r.cores.getLsbD c
  let t := (cores.flatMap hartsOf).foldl (init := s) fun t i =>
    t.setHart i { t.hart i with sw := { (t.hart i).sw with skasid := at64 0 r.kasid.toNat } }
  t.setPart slot { t.part slot with sasdir := r.asdir }

/-- R349: the record of a slot in memory. -/
def recordWords (s : State) (slot : Nat) : List W64 :=
  wordsOf 64 (s.mem.bytes (fld s.fw.fptab 51 15 <<< 15 ||| 512 * slot) 512)

/-- PARTITION_APPLY (R349, R350): op 1 on a slot. A slot that gets another partition starts with that partition's state. -/
def partitionApply (s : State) (slot : Nat) : State :=
  let w := recordWords s slot
  let r := partRecOf w
  if recordBad s slot w then endCommand s slot 1 1
  else if recordTaken s slot r then endCommand s slot 1 2
  else if resourcesBusy s slot r then endCommand s slot 1 3
  else
    let o := (s.part slot).record
    let t := moveResources s slot r
    let p := if o.id = r.id then t.part slot else {}
    let t := t.setPart slot { p with record := { r with key := o.key } }
    beginPartCommand (loadAsids t slot r) slot 1 r.key

/-- PARTITION_DISSOLVE (R349): op 2 on a slot: an apply of a record that owns nothing; the key stays until busy clears. -/
def partitionDissolve (s : State) (slot : Nat) : State :=
  let o := (s.part slot).record
  if resourcesBusy s slot {} then endCommand s slot 2 3
  else beginPartCommand ((moveResources s slot {}).setPart slot { record := { id := o.id, key := o.key } }) slot 2 0

/-- PARTITION_COMMAND_DONE (R349): clearing has finished and the new key takes effect. -/
def partCommandDone (s : State) : State :=
  if !s.fw.fpBusy then s else
  let n := s.fw.fpSlot
  let p := s.part n
  endCommand (s.setPart n (if s.fw.fpOp = 1 then { p with record := { p.record with key := s.fw.fpKey } } else {}))
    n s.fw.fpOp 0

/-- R347: a write to `cw.fpcmd`; while busy it is refused, and an op other than 1 and 2 stores nothing. -/
def fpcmdWrite (s : State) (v : W64) : Except TrapInfo State :=
  let op := fld v 3 0
  let slot := fld v 21 16
  if s.fw.fpBusy then .error (cause 0x06)
  else if op = 1 then .ok (partitionApply s slot)
  else if op = 2 then .ok (partitionDissolve s slot)
  else .ok s

/-- A control-word write as a step of its own: one that is refused changes nothing. -/
def written (s : State) (r : Except TrapInfo State) : Out :=
  match r with
  | .ok t => .next t
  | .error _ => .next s

def execPartitionApply (s : State) : Out := .next (if s.fw.fpBusy then s else partitionApply s (s.input.slot % 64))
def execPartitionDissolve (s : State) : Out := .next (if s.fw.fpBusy then s else partitionDissolve s (s.input.slot % 64))
def execPartitionCommandDone (s : State) : Out := .next (partCommandDone s)

end Sys2Proof.Machine
end

