-- ==== Sys2Proof/Machine/Fabric.lean ====
section
/-! DEFINITION. Requests that arrive from the fabric, the deduplication table, and how this package's own requests end (R217
to R219, R317, R354 to R360). -/

namespace Sys2Proof.Machine

/-! ## Errors found where a granule lies (R361, R362, R365) -/

/-- R365: the log entry of a detection. -/
def detected (kind addr store core : Nat) : ErrEntry := ⟨kind, addr, store, core, 0xFFF, 0, 1⟩

/-- R365: the partition that owns the storage that holds a granule, and for a line its home segment. -/
def ownerOf (s : State) : Granule → Option Nat
  | .line pa | .dieLine _ pa => slotOfSegment s (segmentOf pa)
  | .l1Line c _ | .scratch c _ | .acc c _ | .column c _ _ => slotOfCore s c
  | .vreg h _ | .xreg h _ | .mask h .. | .loadQueue h .. | .codebook h .. | .entry h .. | .checkpoint h => slotOfHart s h
  | .task p _ _ => some p
  | .holdBuffer .. | .other => none

/-- R362: a word of a hart's storage poisoned, with the log entry; none where it is poisoned already. -/
def markSram (s : State) (i k : Nat) (m : Sram) : Option (State × ErrEntry) :=
  let h := s.hart i
  if (h.mark m).isSome then none
  else some (s.setHart i { h with sram := (m, k) :: h.sram }, detected k 0 3 (coreOf i))

/-- R362: a line's copy in a list poisoned. -/
def markLine (ls : List Line) (la k : Nat) : Option (List Line) :=
  match findLine ls la with
  | none => none
  | some l => if l.poison.isSome then none else some ({ l with poison := some k } :: dropLine ls la)

/-- R361, R362: a granule poisoned by an error of a kind, with its log entry; none where it does not exist or is poisoned
already. -/
def markGranule (s : State) (g : Granule) (k : Nat) : Option (State × ErrEntry) :=
  match g with
  | .line pa =>
    if (segPoison s (pa / 64)).isSome then none
    else some ({ s with poison := kput s.poison (pa / 64) k }, detected k (lineBase pa) 0 0)
  | .l1Line c pa => (markLine (s.core c).l1 (pa / 64) k).map fun l =>
      (s.setCore c { s.core c with l1 := l }, detected k (lineBase pa) 0 0)
  | .dieLine d pa => (markLine (s.die d).lines (pa / 64) k).map fun l =>
      (s.setDie d { s.die d with lines := l }, detected k (lineBase pa) 0 0)
  | .scratch c o =>
    let x := s.core c
    if x.spadPoison.any (·.1 = o / 8) then none
    else some (s.setCore c { x with spadPoison := kput x.spadPoison (o / 8) k }, detected k (o / 8 * 8) 1 c)
  | .vreg i w =>
    let h := s.hart i
    if h.vpoison.any (·.1 = w) then none
    else some (s.setHart i { h with vpoison := kput h.vpoison w k }, detected k 0 3 (coreOf i))
  | .xreg i r => if r = 0 then none else markSram s i k (.x r.toNat)
  | .mask i m w => if 8 ≤ m || 256 ≤ w then none else markSram s i k (.mask m w)
  | .loadQueue i n e => if 4 ≤ n then none else markSram s i k (.queue n e)
  | .codebook i t w => if 16 ≤ t || 4 ≤ w then none else markSram s i k (.cbook t w)
  | .entry i m n =>
    let h := s.hart i
    match (if m then h.mq else h.vq)[n]? with
    | none => none
    | some e => markSram s i k (.entry e.seq)
  | .checkpoint i => if (s.hart i).ckpt.isNone then none else markSram s i k .checkpoint
  | .acc c w =>
    let x := s.core c
    if x.accPoison.any (·.1 = w) then none
    else some (s.setCore c { x with accPoison := kput x.accPoison w k }, detected k 0 2 c)
  | .column c b n =>
    let x := s.core c
    match x.banks[b]? with
    | none => none
    | some y =>
      if y.parity.contains n then none
      else some (s.setCore c { x with banks := x.banks.setIfInBounds b { y with parity := n :: y.parity } }, detected 4 0 2 c)
  | .holdBuffer n w =>
    if s.hold.spoiled.contains (n, w) || !(s.hold.phase == .stopped || s.hold.phase == .writtenBack) then none
    else some ({ s with hold := { s.hold with spoiled := (n, w) :: s.hold.spoiled } }, detected k 0 5 0)
  | .task .. | .other => none

/-- R364, R365: an error found where a granule lies, without a consumer: counted once, and logged for the partition that owns the
storage. -/
def foundAt (s : State) (g : Granule) (k : Nat) : State :=
  match markGranule s g k with
  | none => s
  | some (t, e) => logError (countError t (ownerOf s g) 16) (ownerOf s g) e

/-- R365: an error that the access which consumes it finds: counted once, and the consumption alone makes its entry (log 11, DEDUCED). -/
def latentAt (s : State) (g : Granule) (k : Nat) : State :=
  match markGranule s g k with
  | none => s
  | some (t, _) => countError t (ownerOf s g) 16

/-- R360, R361: an end-to-end mismatch of a line where a copy of it is verified: the copy is poisoned, and the mismatch counts in
`cw.fe2e`. -/
def mismatchAt (s : State) (g : Granule) (consumed : Bool) : State :=
  match g with
  | .line _ | .l1Line .. | .dieLine .. =>
    if (markGranule s g 5).isNone then s else
    let t := if consumed then latentAt s g 5 else foundAt s g 5
    { t with fw := { t.fw with fe2e := BitVec.ofNat 64 (min (fld t.fw.fe2e 31 0 + 1) 0xFFFFFFFF) } }
  | _ => s

/-! ## Arriving requests (R219, R354, R357, R358) -/

/-- What a target address reaches. -/
inductive Target where
  | mem (pa : Nat)
  | scratch (core off : Nat)
  | doorbell (q : Nat)
deriving DecidableEq, Repr

/-- R354: `n` bytes at a target address of a partition. -/
def targetOf (s : State) (slot : Nat) (a n : Nat) : Option Target :=
  let c := (a - 0x2000000000000) / spadBytes
  let o := (a - 0x2000000000000) % spadBytes
  if a < 0xC0000000000 then
    if ownsPa s (some slot) a && ownsPa s (some slot) (a + n - 1) then some (.mem a) else none
  else if 0x2000000000000 ≤ a ∧ a < 0x2000000000000 + 768 * spadBytes then
    if (s.part slot).record.ownsCore c && decide (o + n ≤ spadBytes) then some (.scratch c o) else none
  else if 0x4000000000000 ≤ a ∧ a < 0x4000000000080 ∧ a % 8 = 0 ∧ n ≤ 8 then some (.doorbell ((a - 0x4000000000000) / 8))
  else none

/-- R346, R357: the slot of the partition whose key a request carries; 0 is no partition's key. -/
def slotOfKey (s : State) (k : BitVec 32) : Option Nat :=
  (s.parts.find? fun p => k != 0 && p.2.record.id != 0 && p.2.record.key == k).map (·.1)

/-- R358: `cw.ffence.mode` has revocation in it. -/
def revokes (s : State) : Bool := decide (2 ≤ fld s.fw.ffence 1 0)

/-- R219: the entry for a request. -/
def dedupFind (s : State) (r : RemoteReq) : Option Dedup :=
  s.fab.dedup.find? fun e => e.key == r.key && e.source == r.source && e.hart == r.hart && e.tag == r.tag && e.seq == r.seq

/-- R219: the entries that the table holds (the spec's least number). -/
def dedupSize : Nat := 65536

/-- R219: an entry recorded. -/
def dedupAdd (s : State) (r : RemoteReq) (v : Option W64) : State :=
  { s with fab := { s.fab with dedup := s.fab.dedup ++ [⟨r.key, r.source, r.hart, r.tag, r.seq, v⟩] } }

/-- R219: a request that is applied at most once; `apply` answers the old value, or a failure that records nothing. -/
def once (s : State) (r : RemoteReq) (apply : State → State × RemoteResult) : State × RemoteResult :=
  match dedupFind s r with
  | some e => match e.result with
    | some v => (s, .value v)
    | none => (s, .expired)
  | none =>
    if r.retry then (dedupAdd s r none, .expired)
    else if dedupSize ≤ s.fab.dedup.length then (s, .busy)
    else match apply s with
      | (t, .value v) => (dedupAdd t r (some v), .value v)
      | x => x

/-- R81: the copies that the home die's L1 caches hold of the line of an atomic go before its read. -/
def homeRecall (s : State) (l : Loc) : State := match l with
  | .mem pa => recallL1 s (homeDie pa) none (pa / 64)
  | _ => s

/-- R354, R360: a request served at a place of the package: loads and stores at the home segment or the banks. An atomic that
consumes an error is answered as a failure and not recorded. -/
def serve (s : State) (r : RemoteReq) (l : Loc) : State × RemoteResult :=
  let s := scratchWake s l
  let n := r.width
  match r.op with
  | .load => (s, .bytes (homeBytes s l n))
  | .store => (writeHome s l (toLE n r.data.toNat), .ack)
  | .atomic op => once s r fun s =>
    let s := homeRecall s l
    match poisonAt s .home l n with
    | some e => (logError s (slotOfKey s r.key) { e with act := 4 }, .targetFault)
    | none =>
    let old := ofLE (homeBytes s l n)
    (writeHome s l (toLE n (amoNew op n old r.data.toNat r.cmp.toNat)), .value (BitVec.ofNat 64 old))

/-- R219, R317: a request at a doorbell: only a 64-bit swap enqueues, and every atomic is answered under the rules of R219. -/
def ring (s : State) (slot q : Nat) (r : RemoteReq) : State × RemoteResult :=
  match r.op with
  | .atomic op => once s r fun s =>
    if op = .swap ∧ r.width = 8 then
      let t := hostEnqueue s (some slot) q r.data.toNat
      (t.1, .value (BitVec.ofNat 64 t.2))
    else (s, .value 3)
  | .load => (s, .bytes (toLE r.width 3))
  | .store => (s, .ack)

/-- R354, R357, R358: a request as this package answers it, with the poison mark that goes with the answer. -/
def answerRequest (s : State) (r : RemoteReq) (mismatch : Bool) : State × RemoteResult × Bool :=
  match if revokes s && s.fab.revoked.contains r.key then none else slotOfKey s r.key with
  | none => (s, .keyRevoked, false)
  | some slot =>
    let place := fun (l : Loc) =>
      let t := match l with
        | .mem pa => if mismatch then mismatchAt s (.line pa) false else s
        | _ => s
      let x := serve t r l
      (x.1, x.2, match r.op with
        | .load => (poisonAt x.1 .home l r.width).isSome
        | _ => false)
    match targetOf s slot r.addr r.width with
    | none => (s, .targetFault, false)
    | some (.doorbell q) =>
      let x := ring s slot q r
      (x.1, x.2, false)
    | some (.mem pa) => place (.mem pa)
    | some (.scratch c o) => place (.spad c o)

/-- The request that arrives served and answered; with node 0 no port is enabled, and after an input loss nothing is served. -/
def arrive (s : State) (r : RemoteReq) : State :=
  if fld s.fw.fnode 15 0 = 0 || s.hold.phase != .none || r.width = 0 || decide (8 < r.width) then s else
  let x := answerRequest s r s.input.bad
  post x.1 (.answer x.2.1 x.2.2)

/-- REMOTE_REQUEST_ARRIVAL (R354): the request `input.request`; `input.bad` is an end-to-end mismatch at the fabric egress. -/
def execRemoteRequestArrival (s : State) : Out :=
  match s.input.request with
  | none => .next s
  | some r => .next (arrive s r)

/-- DOORBELL_ENQUEUE (R317): the same for a request that rings a doorbell. -/
def execDoorbellEnqueue (s : State) : Out :=
  match s.input.request with
  | none => .next s
  | some r => .next (if 0x4000000000000 ≤ r.addr ∧ r.addr < 0x4000000000080 then arrive s r else s)

/-- DEDUP_ENTRY_EXPIRY (R219): the entry or tombstone at place `input.index` has reached its age. -/
def execDedupEntryExpiry (s : State) : Out :=
  .next { s with fab := { s.fab with dedup := s.fab.dedup.eraseIdx s.input.index } }

/-! ## The package's own requests (R357 to R359) -/

/-- R357: a request is over, and its late answers are discarded. -/
def dropRequest (s : State) (id : Nat) : State :=
  { s with fab := { s.fab with
    requests := s.fab.requests.filter fun r => r.id != id, orphaned := s.fab.orphaned.filter (· != id) } }

/-- R359: a result that is not a failure. -/
def goodResult : RemoteResult → Bool
  | .value _ | .bytes _ | .poisoned _ | .ack => true
  | _ => false

/-- R359: a request ends with a result: that of a vector element or an engine waits for its unit, a store of the front end reports its
failure at the hart's next boundary, a load or atomic completes. -/
def finishRequest (s : State) (r : Request) (x : RemoteResult) : State :=
  let s := dropRequest s r.id
  let h := s.hart r.hart
  if r.engine then { s with fab := { s.fab with answers := kput s.fab.answers r.id x } }
  else if r.store then
    if goodResult x then s
    else wakeCore (s.setHart r.hart { h with storeFaults := h.storeFaults ++ [(r.priv, remoteTrap r.va x)] }) (coreOf r.hart)
  else match h.remote with
    | some w => if w.id = r.id then s.setHart r.hart { h with remote := some { w with result := some x } } else s
    | none => s

/-- Whether a response answers a request of its kind. -/
def fits (m : Message) (x : RemoteResult) : Bool :=
  match m, x with
  | .load _ _ _ n _, .bytes b => decide (n ≤ b.length)
  | .load .., .poisoned _ | .store .., .ack | .atomic .., .value _ | .atomic .., .expired | .atomic .., .busy => true
  | _, .keyRevoked | _, .targetFault => true
  | _, _ => false

/-- REMOTE_RESPONSE (R219, R347, R357): the response `input.result` to request `input.index`; a request that has ended is not found,
and with node 0 no port is enabled. After BUSY the request is sent again, unless its port has gone down (R356). -/
def execRemoteResponse (s : State) : Out :=
  match s.fab.requests.find? fun r => r.id = s.input.index with
  | none => .next s
  | some r =>
    if fld s.fw.fnode 15 0 = 0 || !fits r.msg s.input.result then .next s
    else if s.input.result = .busy then
      let l := s.fab.requests.map fun q => if q.id = r.id then { q with busy := true } else q
      let t := { s with fab := { s.fab with requests := l } }
      .next (if s.fab.orphaned.contains r.id then t else post t r.msg)
    else .next (finishRequest s r s.input.result)

/-- PORT_DOWN (R356): port `input.index` goes down; its requests in flight are never sent again. -/
def execPortDown (s : State) : Out :=
  let p := s.input.index % 32
  let lost := (s.fab.requests.filter fun r => r.port = p && !s.fab.orphaned.contains r.id).map Request.id
  .next { s with fab := { s.fab with
    down := s.fab.down ||| BitVec.ofNat 32 (1 <<< p), orphaned := s.fab.orphaned ++ lost } }

/-- R358: a request named failed. -/
def nameFailed (s : State) (id fail : Nat) : State :=
  match s.fab.requests.find? fun r => r.id = id with
  | none => s
  | some r => finishRequest s r (if fail = 3 && r.busy then .busy else .named (BitVec.ofNat 8 fail))

/-- LINK_DOWN_TIMEOUT (R358): 8 µs after the port of request `input.index` went down. -/
def execLinkDownTimeout (s : State) : Out :=
  .next (if s.fab.orphaned.contains s.input.index then nameFailed s s.input.index 1 else s)

/-- PATH_LOST_TIMEOUT (R358): armed in modes 1 and 3, for a request that no response has come to. -/
def execPathLostTimeout (s : State) : Out :=
  .next (if s.fw.ffence.getLsbD 0 && !(s.fab.requests.any fun r => r.id == s.input.index && r.busy) then
    nameFailed s s.input.index 2 else s)

/-- PEER_SILENT_TIMEOUT (R219, R358): a request still answered with BUSY ends with state 3. -/
def execPeerSilentTimeout (s : State) : Out := .next (nameFailed s s.input.index 3)

/-- KEY_REVOCATION (R358): the fabric manager revokes the key in `input.word`. -/
def execKeyRevocation (s : State) : Out :=
  let k := BitVec.ofNat 32 s.input.word.toNat
  .next (if s.fab.revoked.contains k then s else { s with fab := { s.fab with revoked := s.fab.revoked ++ [k] } })

end Sys2Proof.Machine
end

