-- ==== Sys2Proof/Machine/Reliability.lean ====
section
/-! DEFINITION. Scrubbing and the error log (R361 to R365), and the hold-up sequence and store (R372 to R379). -/

namespace Sys2Proof.Machine

/-! ## SCRUB_READ (R361, R362, R364, R365) -/

/-- R361: what a scrub finds uncorrectable: of kind 1, or of kind 3 where a module's ECC found it. -/
def scrubBad (s : State) (g : Granule) (module : Bool) : State :=
  match g with
  | .task p q k => loseEntry s (some p) q k
  | .other => logError (countError s none 16) none (detected 1 0 5 0)
  | .line _ => foundAt s g (if module then 3 else 1)
  | _ => foundAt s g 1

/-- SCRUB_READ (R361): `input.granule` is found correctable, or with `input.bad` uncorrectable; `input.index` is not 0 where
module ECC found it. -/
def execScrubRead (s : State) : Out :=
  let g := s.input.granule
  .next (if s.input.bad then scrubBad s g (s.input.index != 0) else countError s (ownerOf s g) 0)

/-! ## The stop (R293, R372 item 1) -/

/-- R37, R291, R372: the pairs or finds of the gathering instruction that a hart has performed commit before it stops. -/
def commitGather (s : State) (i : Nat) : State :=
  match (s.hart i).vq with
  | [] => s
  | e :: _ =>
    match gatherDest e.instr with
    | none => s
    | some d =>
      let hi := e.done.foldl (fun n p => max n (p.1 + 1)) e.k
      match groupOf i e (gatherStep i e d) s e.k hi with
      | .ok (t, k, f) => settle t i 0 e k f
      | .error _ => s

/-- R366, R372: an open strip at the stop: it is rolled back, which does not count. A checkpoint that is not used again, or that is
in error, is no restart point: the hart stops where it is, and its held stores are performed or not (log 27, DEDUCED). -/
def stopStrip (s : State) (i : Nat) : State :=
  let h := s.hart i
  match if h.guarded then h.ckpt else none with
  | none => s
  | some c =>
    if c.dead then performSome s i
    else if h.ckptPoison then
      performSome (reportError s i { cause := 0x09, err := some ⟨8, 0, 3, coreOf i, 0xFFF, 0, 0⟩ } 4) i
    else s.setHart i { h.rollback c with rollbacks := h.rollbacks }

/-- R372: one hart stops: an open strip is rolled back, a remote access is abandoned, and the channels stop. -/
def stopHart (s : State) (i : Nat) : State :=
  let h := s.hart i
  if !h.live then s else
  let t := stopStrip (stopChannels (if h.midGather then commitGather s i else s) i) i
  t.setHart i { t.hart i with remote := none, fetched := [] }

/-- R372, R379: the whole package stops; an erase of the store stops where it is, with each byte erased or not (log 9, DESIGN CHOICE). -/
def holdStop (s : State) : State :=
  if s.hold.phase != .none then s else
  let t := s.harts.foldl (fun t p => stopHart t p.1) s
  let store := if s.hold.erasing then (s.hold.store.filter fun b => Config.newer s.ticks b.1) else s.hold.store
  { t with
    hold := { s.hold with phase := .stopped, store := store, erasing := false }
    fab := { t.fab with requests := [], orphaned := [], answers := [] } }

/-- INPUT_LOSS (R372). -/
def execInputLoss (s : State) : Out := .next (holdStop s)

/-- R388: the temperature of a die, which nothing in the spec fixes (log 9, DESIGN CHOICE). -/
def dieTemp (s : State) (d : Nat) : BitVec 16 := Config.temperature s.ticks d

/-- DIE_CRITICAL (R388): the sensor of die `input.index` is read; at or above `cw.fthermal.crit` the hold-up sequence starts. -/
def execDieCritical (s : State) : Out :=
  .next (if (BitVec.ofNat 16 (fld s.fw.fthermal 31 16)).toInt ≤ (dieTemp s (s.input.index % 20)).toInt then holdStop s else s)

/-- HOLDUP_WRITEBACK (R372 item 2). -/
def execHoldupWriteback (s : State) : Out :=
  if s.hold.phase != .stopped then .next s else
  let t := (List.range 6).foldl writeBack (s.cores.foldl (fun t c => cleanCore t c.1) s)
  .next { t with hold := { t.hold with phase := .writtenBack } }

/-! ## Items (R373, R374, R376, R378) -/

/-- Bytes of an item; none where a byte cannot be read (R373). -/
abbrev ItemBytes := List (Option Byte)

/-- Words of an item. -/
def itemOf (l : List W64) : ItemBytes := (bytesOf l).map some

/-- Words of which some are poisoned. -/
def poisonedWords (l : List W64) (bad : Nat → Bool) : ItemBytes :=
  l.zipIdx.flatMap fun p => (toLE 8 p.1.toNat).map fun b => if bad p.2 then none else some b

/-- R373, R374, R393: byte `k` of a range in the context's address space; none where it is poisoned, cannot be read, or lies outside
the region of the range's lowest byte. -/
def rangeByte (s : State) (i : Nat) (sp : Space) (base : W64) (k : Nat) : Option Byte :=
  let va := base + BitVec.ofNat 64 k
  if regionEnd base.toNat ≤ base.toNat + k then none else
  match locate s i sp false .load va with
  | .error _ => none
  | .ok p =>
    match p.loc with
    | .fabric .. => none
    | l => if (poisonAt s .home l 1).isSome then none else (homeBytes s l 1).head?

/-- R378: the stop point's pc and its flags. -/
def stopWords (h : Hart) : List W64 :=
  pad 8 [ if h.atSpine then (h.frames.getLast?.map Frame.cont).getD 0 else h.pc
        , at64 0 h.priv.code ||| bitAt 2 h.atSpine ]

/-- R294: the trap words of a level in the order of their numbers. -/
def TrapLevel.words (w : TrapLevel) : List W64 := [w.tvec, w.cause, w.val, w.pc, w.stat, w.elem, w.seq, w.scratch]

/-- R378: the vector registers, 32 bytes a lane; a lane at or above L_eff is 0. -/
def vregItem (h : Hart) : ItemBytes :=
  h.v.toList.zipIdx.flatMap fun p =>
    poisonedWords ((wideWords p.1).mapIdx fun j w => if j < 4 * h.leff then w else 0)
      fun j => h.vpoison.any (·.1 = 256 * p.2 + j)

/-- R378: a context record. -/
def recordItem (s : State) (i : Nat) (d : MsDecl) : ItemBytes :=
  let h := s.hart i
  let c := s.core (coreOf i)
  let own := h.ownsMatrix
  let img := if h.sup.qi then h.sup.image else (h.vq ++ h.mq).map QEntry.stopped
  let u := if d.mask then s else s.setHart i ({ h with m := Vector.replicate 8 0, q := Vector.replicate 4 {} }.unmark fun m =>
    match m with
    | .mask .. | .queue .. => true
    | _ => false)
  -- the marks of R362 by the number of the word in the record: of the block, of the scalar registers, of the codebooks
  let marks := (blockPoison u i img false).map (fun m => m.1 / 8) ++ h.sram.filterMap fun m => match m.1 with
    | .x r => some (16384 + r)
    | .cbook t w => if d.cbook then some (16640 + 4 * t + w) else none
    | .mask .. | .queue .. | .entry _ | .checkpoint => none
  poisonedWords (blockWords u i img (d.acc && own)
    ++ pad 32 (h.x.toList) ++ stopWords h ++ h.sup.words
    ++ pad 16 [at64 0 (fld h.sw.sasid 15 0), at64 0 (fld h.sw.sswz 1 0), at64 0 (fld h.sw.sctx 31 0)]
    ++ pad 192 (h.frames.flatMap Frame.words)
    ++ (if d.cbook then mapWords 16 4 256 fun k => (kget 0 h.cb k).toNat else List.replicate 64 0)
    ++ List.replicate 192 0) (fun j => marks.contains j)
  ++ (if d.vreg then vregItem h else [])
  ++ (if d.acc then
      (if own then itemOf (c.words.take 33792) ++ poisonedWords (c.words.drop 33792) fun j => c.accPoison.any (·.1 = j)
        else List.replicate 0x102000 (some 0))
    else [])

/-- An item with its directory fields. -/
structure Item where
  hart : Nat
  kind : Nat
  range : Nat
  base : W64
  bytes : ItemBytes
deriving DecidableEq, Repr

/-- R373: the items of one context. -/
def itemsOf (s : State) (i : Nat) (d : MsDecl) : List Item :=
  ⟨i, 1, 0, 0, recordItem s i d⟩ ::
  (d.ranges.zipIdx.filter fun r => r.1.2 ≠ 0).map fun r =>
    ⟨i, 2, r.2, r.1.1, (List.range r.1.2).map fun k => rangeByte s i (userSpace s i) r.1.1 k⟩

/-- R370, R373: the resident contexts with a declaration, by hold-up priority, then by hart id. -/
def savedContexts (s : State) : List (Nat × MsDecl) :=
  sortBy (fun a b => a.2.prio < b.2.prio || (a.2.prio == b.2.prio && a.1 ≤ b.1))
    (s.harts.filterMap fun p => if p.2.live then p.2.decl.map fun d => (p.1, d) else none)

/-! ## The store (R375 to R377) -/

/-- R376: a directory entry in 32 bytes; its priority field has 3 bits (log 59, DEDUCED). -/
def Item.entry (s : State) (x : Item) (off : Nat) : List Byte :=
  let h := s.hart x.hart
  bytesOf [ at64 0 off ||| at64 28 x.kind ||| at64 32 x.range ||| at64 36 x.hart
      ||| at64 48 (s.partOf (slotOfHart s x.hart)).record.id.toNat
    , at64 0 h.tag.toNat ||| at64 32 x.bytes.length, x.base
    , at64 0 (fld h.sw.sasid 15 0) ||| at64 16 ((h.decl.map MsDecl.prio).getD 0 % 8) ]

/-- 56 bytes with their CRC in the last 8 of 64. -/
def sealed (l : List Byte) : List Byte :=
  let b := (l ++ List.replicate (56 - l.length) 0).take 56
  b ++ toLE 8 (crc32 b).toNat

/-- R377: one chunk with its trailer. -/
def chunk (gen : BitVec 32) (j : Nat) (l : ItemBytes) : List Byte :=
  let b := l.map fun x => x.getD 0
  b ++ List.replicate ((64 - b.length % 64) % 64) 0
  ++ sealed (bytesOf [ at64 0 (crc32 b).toNat ||| at64 32 j
      , at64 0 b.length ||| bitAt 32 (l.any Option.isNone), at64 0 gen.toNat ])

/-- R377: the chunks of an item, numbered from `j`. -/
def chunks (gen : BitVec 32) (j : Nat) (l : ItemBytes) : Nat → List Byte
  | 0 => []
  | fuel + 1 => if l.isEmpty then [] else chunk gen j (l.take 65536) ++ chunks gen (j + 1) (l.drop 65536) fuel

/-- R377: an item as the store holds it. -/
def Item.stored (s : State) (x : Item) (gen : BitVec 32) (idx off : Nat) : List Byte :=
  let c := (x.bytes.length + 65535) / 65536
  sealed (bytesOf [at64 0 0x4D455449 ||| at64 32 gen.toNat, BitVec.ofNat 64 idx] ++ x.entry s off)
  ++ chunks gen 0 x.bytes c
  ++ sealed (bytesOf [at64 0 0x544D4F43 ||| at64 32 gen.toNat, BitVec.ofNat 64 idx, BitVec.ofNat 64 c])

/-- R375: the items with their offsets in the store. -/
def placeItems : List Item → Nat → List (Item × Nat)
  | [], _ => []
  | x :: r, off => (x, off) :: placeItems r (off + charge x.bytes.length)

/-- R376: the package header in 64 bytes. -/
def packageHeader (gen : BitVec 32) (n used : Nat) (dir : List Byte) : List Byte :=
  sealed (bytesOf [ at64 0 0x53484C56 ||| at64 32 1, at64 0 gen.toNat, BitVec.ofNat 64 n, at64 0 (crc32 dir).toNat
    , BitVec.ofNat 64 used ])

/-- R361, R363, R373: item `n` as it leaves the hold-up buffers, with the bytes of their poisoned words unreadable. -/
def Item.buffered (s : State) (x : Item) (n : Nat) : Item :=
  { x with bytes := (s.hold.spoiled.filter fun p => p.1 = n).foldl (init := x.bytes) fun b p =>
      b.mapIdx fun k y => if k / 8 = p.2 then none else y }

/-- R373, R375: everything that the sequencer writes, in order, as offsets and bytes. -/
def holdWrites (s : State) : List (Nat × List Byte) :=
  let l := placeItems ((savedContexts s).flatMap fun p => itemsOf s p.1 p.2) 0x200000
  let dir := l.flatMap fun p => p.1.entry s p.2
  let used := l.foldl (fun n p => n + charge p.1.bytes.length) 0
  [(0, packageHeader s.hold.gen l.length used dir ++ List.replicate 4032 0), (0x1000, dir)]
  ++ l.zipIdx.map fun p => (p.1.2, (p.1.1.buffered s p.2).stored s s.hold.gen p.2 p.1.2)

/-- The writes up to `n` bytes. -/
def cutWrites : Nat → List (Nat × List Byte) → List (Nat × List Byte)
  | _, [] => []
  | n, (o, b) :: r => if n = 0 then [] else (o, b.take n) :: cutWrites (n - b.length) r

/-- The store with writes made. -/
def putWrites (m : Memory) (l : List (Nat × List Byte)) : Memory := l.foldl (fun m p => m.writeBytes p.1 p.2) m

/-- HOLDUP_WRITE (R373): all is written, or with `input.bad` the first `input.index` bytes, after which the time of R372 is
over. -/
def execHoldupWrite (s : State) : Out :=
  if s.hold.phase != .writtenBack then .next s else
  let w := holdWrites s
  .next { s with hold := { s.hold with
    phase := .written, spoiled := [], store := putWrites s.hold.store (if s.input.bad then cutWrites s.input.index w else w) } }

/-- HOLDUP_OFF (R372 item 4, R380): the package powers down. Only the hold-up store and its generation survive. -/
def execHoldupOff (s : State) : Out :=
  if s.hold.phase == .none || s.hold.phase == .off then .next s else
  .next
    { ticks := s.ticks, input := s.input, schedule := s.schedule
      hold := { s.hold with gen := s.hold.gen + 1, erasing := false, phase := .off } }

/-! ## Firmware's view of the store (R379) -/

/-- STORE_ERASE (R379): 1 written to `cw.fhsctl.erase`. -/
def startErase (s : State) : State :=
  if s.hold.phase == .none then { s with hold := { s.hold with erasing := true } } else s

def execStoreErase (s : State) : Out := .next (startErase s)

/-- ERASE_COMPLETE (R379). -/
def execEraseComplete (s : State) : Out :=
  .next (if s.hold.erasing then { s with hold := { s.hold with store := [], erasing := false } } else s)

/-- R379: a read of `cw.fhsdata`, and the pointer behind it. -/
def fhsRead (s : State) : State × W64 :=
  let p := fld s.fw.fhsptr 27 3 <<< 3
  ({ s with fw := { s.fw with fhsptr := BitVec.ofNat 64 ((p + 8) % 2 ^ 28) } },
   if s.hold.erasing then 0 else BitVec.ofNat 64 (ofLE (s.hold.store.bytes p 8)))

/-- FHSDATA_READ (R379): the read as a step of its own. -/
def execFhsdataRead (s : State) : Out := .next (fhsRead s).1

end Sys2Proof.Machine
end

