-- ==== Sys2Proof/Machine/Boot.lean ====
section
/-! DEFINITION. Clock, throttle, ramps and energy (R382 to R388), SHA-512, Ed25519, the boot ROM, measurement and
attestation (R389 to R392). -/

namespace Sys2Proof.Machine

/-! ## Clock and throttle (R382, R383, R385, R388) -/

/-- SUPPLY_SAG (R382): the sag clock falls by 1/16, down to 8/16. -/
def execSupplySag (s : State) : Out :=
  .next { s with power := { s.power with sagClock := max 8 (s.power.sagClock - 1) } }

/-- CLOCK_RECOVERY_STEP (R382): the sag clock rises by 1/16. -/
def execClockRecoveryStep (s : State) : Out :=
  .next { s with power := { s.power with sagClock := min 16 (s.power.sagClock + 1) } }

/-- R382: the running clock. -/
def clockOf (p : Power) : Nat := min p.sagClock p.limClock

/-- R383, R388: a die is at or above the throttle temperature. -/
def hotDie (s : State) : Bool :=
  (List.range 20).any fun d => decide ((BitVec.ofNat 16 (fld s.fw.fthermal 15 0)).toInt ≤ (dieTemp s d).toInt)

/-- R383: one period with an estimate in mW. -/
def controllerStep (p : Power) (limit est : Nat) (hot : Bool) : Power :=
  if hot || decide (1000 * limit < est) then
    if p.step < 15 then { p with step := p.step + 1 }
    else if 8 < p.limClock then { p with limClock := p.limClock - 1 } else p
  else if est < 950 * limit then
    if p.limClock < 16 then { p with limClock := p.limClock + 1 }
    else if 0 < p.step then { p with step := p.step - 1 } else p
  else p

/-- POWER_CONTROLLER_PERIOD (R383): `input.word` is the estimate in mW. -/
def execPowerControllerPeriod (s : State) : Out :=
  .next { s with power := controllerStep s.power (fld s.fw.fplim 11 0) s.input.word.toNat (hotDie s) }

/-- ENERGY_CALIBRATION (R385, R387): `input.word` is the power measured over the last millisecond in mW; the factors that make the
sums agree are open (log 9, DESIGN CHOICE). -/
def execEnergyCalibration (s : State) : Out :=
  .next { s with power := { s.power with
    mw := BitVec.ofNat 32 s.input.word.toNat, calibration := Config.scaleFactors s.ticks s.input.word } }

/-- R386: a hart of the core is Running or Waiting, and the core is not in a gated state. -/
def coreInUse (s : State) (c : Nat) : Bool :=
  !(s.core c).gatedNow && (hartsOf c).any fun i => match (s.hart i).mode with
    | .running | .waiting .. => true
    | _ => false

/-- RAMP_STEP (R386): the core's issue fraction moves by one step towards 16/16 while the core is in use, towards 1/16 while it
is not; ramp time 0 disables ramps. -/
def execRampStep (s : State) : Out :=
  let c := s.input.core
  let x := s.core c
  let r := if fld s.fw.framp 15 0 = 0 then 16 else if coreInUse s c then min 16 (x.ramp + 1) else max 1 (x.ramp - 1)
  .next (s.setCore c { x with ramp := r })

/-! ## SHA-512 (R390, R391) -/

/-- Round constants 0 to 19. -/
def shaK0 : List W64 :=
  [ 0x428A2F98D728AE22, 0x7137449123EF65CD, 0xB5C0FBCFEC4D3B2F, 0xE9B5DBA58189DBBC
  , 0x3956C25BF348B538, 0x59F111F1B605D019, 0x923F82A4AF194F9B, 0xAB1C5ED5DA6D8118
  , 0xD807AA98A3030242, 0x12835B0145706FBE, 0x243185BE4EE4B28C, 0x550C7DC3D5FFB4E2
  , 0x72BE5D74F27B896F, 0x80DEB1FE3B1696B1, 0x9BDC06A725C71235, 0xC19BF174CF692694
  , 0xE49B69C19EF14AD2, 0xEFBE4786384F25E3, 0x0FC19DC68B8CD5B5, 0x240CA1CC77AC9C65 ]

/-- Round constants 20 to 39. -/
def shaK1 : List W64 :=
  [ 0x2DE92C6F592B0275, 0x4A7484AA6EA6E483, 0x5CB0A9DCBD41FBD4, 0x76F988DA831153B5
  , 0x983E5152EE66DFAB, 0xA831C66D2DB43210, 0xB00327C898FB213F, 0xBF597FC7BEEF0EE4
  , 0xC6E00BF33DA88FC2, 0xD5A79147930AA725, 0x06CA6351E003826F, 0x142929670A0E6E70
  , 0x27B70A8546D22FFC, 0x2E1B21385C26C926, 0x4D2C6DFC5AC42AED, 0x53380D139D95B3DF
  , 0x650A73548BAF63DE, 0x766A0ABB3C77B2A8, 0x81C2C92E47EDAEE6, 0x92722C851482353B ]

/-- Round constants 40 to 59. -/
def shaK2 : List W64 :=
  [ 0xA2BFE8A14CF10364, 0xA81A664BBC423001, 0xC24B8B70D0F89791, 0xC76C51A30654BE30
  , 0xD192E819D6EF5218, 0xD69906245565A910, 0xF40E35855771202A, 0x106AA07032BBD1B8
  , 0x19A4C116B8D2D0C8, 0x1E376C085141AB53, 0x2748774CDF8EEB99, 0x34B0BCB5E19B48A8
  , 0x391C0CB3C5C95A63, 0x4ED8AA4AE3418ACB, 0x5B9CCA4F7763E373, 0x682E6FF3D6B2B8A3
  , 0x748F82EE5DEFB2FC, 0x78A5636F43172F60, 0x84C87814A1F0AB72, 0x8CC702081A6439EC ]

/-- Round constants 60 to 79. -/
def shaK3 : List W64 :=
  [ 0x90BEFFFA23631E28, 0xA4506CEBDE82BDE9, 0xBEF9A3F7B2C67915, 0xC67178F2E372532B
  , 0xCA273ECEEA26619C, 0xD186B8C721C0C207, 0xEADA7DD6CDE0EB1E, 0xF57D4F7FEE6ED178
  , 0x06F067AA72176FBA, 0x0A637DC5A2C898A6, 0x113F9804BEF90DAE, 0x1B710B35131C471B
  , 0x28DB77F523047D84, 0x32CAAB7B40C72493, 0x3C9EBE0A15C9BEBC, 0x431D67C49C100D4C
  , 0x4CC5D4BECB3E42B6, 0x597F299CFC657E2A, 0x5FCB6FAB3AD6FAEC, 0x6C44198C4A475817 ]

/-- The 80 round constants. -/
def shaK : List W64 := shaK0 ++ shaK1 ++ shaK2 ++ shaK3

/-- The initial hash value. -/
def shaInit : List W64 :=
  [ 0x6A09E667F3BCC908, 0xBB67AE8584CAA73B, 0x3C6EF372FE94F82B, 0xA54FF53A5F1D36F1
  , 0x510E527FADE682D1, 0x9B05688C2B3E6C1F, 0x1F83D9ABFB41BD6B, 0x5BE0CD19137E2179 ]

/-- Big-endian words of a list of bytes. -/
def wordsBE : Nat → List Byte → List W64
  | 0, _ => []
  | n + 1, bs => BitVec.ofNat 64 (ofLE (bs.take 8).reverse) :: wordsBE n (bs.drop 8)

/-- The message schedule from its last 16 words, newest first, for `n` more words. -/
def shaSchedule : Nat → List W64 → List W64
  | 0, w => w
  | n + 1, w =>
    let a := w.getD 14 0
    let b := w.getD 1 0
    let s0 := a.rotateRight 1 ^^^ a.rotateRight 8 ^^^ (a >>> 7)
    let s1 := b.rotateRight 19 ^^^ b.rotateRight 61 ^^^ (b >>> 6)
    shaSchedule n ((w.getD 15 0 + s0 + w.getD 6 0 + s1) :: w)

/-- One round. -/
def shaRound (v : List W64) (kw : W64 × W64) : List W64 :=
  match v with
  | [a, b, c, d, e, f, g, h] =>
    let s1 := e.rotateRight 14 ^^^ e.rotateRight 18 ^^^ e.rotateRight 41
    let t1 := h + s1 + ((e &&& f) ^^^ (~~~e &&& g)) + kw.1 + kw.2
    let s0 := a.rotateRight 28 ^^^ a.rotateRight 34 ^^^ a.rotateRight 39
    let t2 := s0 + ((a &&& b) ^^^ (a &&& c) ^^^ (b &&& c))
    [t1 + t2, a, b, c, d + t1, e, f, g]
  | _ => v

/-- One block of 128 bytes. -/
def shaBlock (h : List W64) (bs : List Byte) : List W64 :=
  let w := (shaSchedule 64 (wordsBE 16 bs).reverse).reverse
  (h.zip ((shaK.zip w).foldl shaRound h)).map fun p => p.1 + p.2

/-- Blocks of a padded message. -/
def shaBlocks : Nat → List W64 → List Byte → List W64
  | 0, h, _ => h
  | n + 1, h, bs => shaBlocks n (shaBlock h (bs.take 128)) (bs.drop 128)

/-- SHA-512 (FIPS 180-4; log 33, PRESUMED): the padding is one bit, zeros, and the length in bits as 128 bits. -/
def sha512 (bs : List Byte) : List Byte :=
  let z := (239 - bs.length % 128) % 128
  let p := bs ++ [0x80] ++ List.replicate z 0 ++ (toLE 16 (8 * bs.length)).reverse
  (shaBlocks (p.length / 128) shaInit p).flatMap fun w => (toLE 8 w.toNat).reverse

/-! ## Ed25519 (R390, R392; log 10, PRESUMED: RFC 8032) -/

/-- The prime of the field. -/
def edP : Nat := 2 ^ 255 - 19
/-- The order of the base point. -/
def edL : Nat := 2 ^ 252 + 27742317777372353535851937790883648493
/-- The curve constant. -/
def edD : Nat := 37095705934669439343138083508754565189542113879843219016388785533085940283555

/-- `b` to the power `e` in the field, over the low `n` bits of `e`. -/
def edPow (b : Nat) : Nat → Nat → Nat
  | 0, _ => 1
  | n + 1, e =>
    let r := edPow (b * b % edP) n (e / 2)
    if e % 2 = 1 then b * r % edP else r

/-- The inverse in the field. -/
def edInv (a : Nat) : Nat := edPow a 255 (edP - 2)

/-- A point in extended coordinates. -/
structure EdPoint where
  x : Nat
  y : Nat
  z : Nat
  t : Nat
deriving DecidableEq, Repr

/-- The neutral point. -/
def edZero : EdPoint := ⟨0, 1, 1, 0⟩

/-- The sum of two points. -/
def edAdd (p q : EdPoint) : EdPoint :=
  let a := (p.y + (edP - p.x)) * (q.y + (edP - q.x)) % edP
  let b := (p.y + p.x) * (q.y + q.x) % edP
  let c := 2 * p.t * q.t % edP * edD % edP
  let d := 2 * p.z * q.z % edP
  let e := (b + (edP - a)) % edP
  let f := (d + (edP - c)) % edP
  let g := (d + c) % edP
  let h := (b + a) % edP
  ⟨e * f % edP, g * h % edP, f * g % edP, e * h % edP⟩

/-- The multiple of a point by the low `n` bits of `k`. -/
def edMul (p : EdPoint) : Nat → Nat → EdPoint
  | 0, _ => edZero
  | n + 1, k =>
    let q := edMul (edAdd p p) n (k / 2)
    if k % 2 = 1 then edAdd p q else q

/-- The base point. -/
def edBase : EdPoint :=
  let x := 15112221349535400772501151409588531511454012693041857206046113283949847762202
  let y := 46316835694926478169428394003475163141307993866256225615783033603165251855960
  ⟨x, y, 1, x * y % edP⟩

/-- Two points are the same point. -/
def EdPoint.same (p q : EdPoint) : Bool := p.x * q.z % edP == q.x * p.z % edP && p.y * q.z % edP == q.y * p.z % edP

/-- The 32 bytes of a point. -/
def EdPoint.bytes (p : EdPoint) : List Byte :=
  let i := edInv p.z
  toLE 32 (p.y * i % edP + p.x * i % edP % 2 * 2 ^ 255)

/-- The point that 32 bytes encode. -/
def edPoint (bs : List Byte) : Option EdPoint :=
  let n := ofLE bs
  let y := n % 2 ^ 255
  let sign := n / 2 ^ 255
  let u := (y * y + edP - 1) % edP
  let v := (edD * (y * y % edP) + 1) % edP
  let xx := u * edInv v % edP
  let r := edPow xx 253 ((edP + 3) / 8)
  let x := if r * r % edP = xx then r else r * edPow 2 253 ((edP - 1) / 4) % edP
  if bs.length ≠ 32 ∨ edP ≤ y ∨ x * x % edP ≠ xx ∨ (x = 0 ∧ sign = 1) then none
  else
    let x := if x % 2 = sign then x else edP - x
    some ⟨x, y, 1, x * y % edP⟩

/-- R390: `sig` is a valid Ed25519 signature of `msg` under the public key `pub`. -/
def ed25519Valid (pub msg sig : List Byte) : Bool :=
  match edPoint pub, edPoint (sig.take 32) with
  | some a, some r =>
    let s := ofLE (sig.drop 32)
    let k := ofLE (sha512 (sig.take 32 ++ pub ++ msg)) % edL
    sig.length == 64 && decide (s < edL)
    && (edMul (edMul edBase 253 s) 4 8).same (edMul (edAdd r (edMul a 253 k)) 4 8)
  | _, _ => false

/-- The secret scalar of a seed, and the prefix that its signatures use. -/
def edSecret (seed : BitVec 256) : Nat × List Byte :=
  let h := sha512 (toLE 32 seed.toNat)
  (2 ^ 254 + ofLE (h.take 32) % 2 ^ 254 / 8 * 8, h.drop 32)

/-- The public key of a seed. -/
def ed25519Public (seed : BitVec 256) : List Byte := (edMul edBase 255 (edSecret seed).1).bytes

/-- R392: the Ed25519 signature of `msg` by the key of a seed, 64 bytes. -/
def ed25519Sign (seed : BitVec 256) (msg : List Byte) : List Byte :=
  let pub := ed25519Public seed
  let r := ofLE (sha512 ((edSecret seed).2 ++ msg)) % edL
  let rb := (edMul edBase 253 r).bytes
  let k := ofLE (sha512 (rb ++ pub ++ msg)) % edL
  rb ++ toLE 32 ((r + k * (edSecret seed).1) % edL)

/-! ## Firmware images (R390) -/

/-- R390: word `i` of an image's header. -/
def headWord (img : List Byte) (i : Nat) : W64 := BitVec.ofNat 64 (ofLE ((img.drop (8 * i)).take 8))

/-- R390: the body of an image. -/
def imageBody (img : List Byte) : List Byte := (img.drop 192).take (headWord img 2).toNat

/-- R390: the digest that is signed and measured. -/
def imageDigest (img : List Byte) : List Byte := sha512 (img.take 128 ++ imageBody img)

/-- IMAGE_VERIFY (R390). -/
def imageOk (img : List Byte) : Bool :=
  let pub := (img.drop 0x40).take 32
  decide (192 + (headWord img 2).toNat ≤ img.length)
  && headWord img 0 == 0x4D4952564C4F5644 && headWord img 5 == 1
  && ((img.drop 0x30).take 16).all (· == 0) && ((img.drop 0x60).take 32).all (· == 0)
  && sha512 pub == Config.vendorKeyHash && decide (Config.minSvn ≤ (headWord img 1).toNat)
  && ed25519Valid pub (imageDigest img) ((img.drop 0x80).take 64)

/-! ## Measurement registers (R391) -/

/-- R391: a register extended with 64 data bytes. -/
def extendReg (b : Boot) (i : Nat) (data : List Byte) : Boot :=
  { b with meas := b.meas.set i (sha512 (b.meas.getD i [] ++ data)) }

/-- R389, R391: a register locked. -/
def lockReg (b : Boot) (i : Nat) : Boot := { b with lock := b.lock ||| BitVec.ofNat 8 (1 <<< i) }

/-! ## PACKAGE_RESET (R389) -/

/-- R389: the bytes of an image put where its header says, in local memory. -/
def loadImageBytes (m : Memory) (a : Nat) : List Byte → Memory
  | [] => m
  | b :: r => loadImageBytes (if localMem a then m.write a b else m) (a + 1) r

/-- R389: the ROM starts an image that it has accepted. -/
def startImage (s : State) (img : List Byte) : State :=
  let t := { s with
    mem := loadImageBytes s.mem (headWord img 3).toNat (imageBody img)
    boot := { lockReg (extendReg s.boot 0 (imageDigest img)) 0 with stage := .started, svn := headWord img 1 } }
  t.setHart 0 { t.hart 0 with mode := .running, priv := .fw, pc := headWord img 4 }

/-- PACKAGE_RESET (R389, R390): everything is as after package reset, but for the hold-up store; then the boot ROM tries image
slots A and B of the boot flash, `input.bytesA` and `input.bytesB`. -/
def packageReset (s : State) : State :=
  let t : State :=
    { ticks := s.ticks, input := s.input, schedule := s.schedule
      hold := { store := s.hold.store, gen := s.hold.gen } }
  if imageOk s.input.bytesA then startImage t s.input.bytesA
  else if imageOk s.input.bytesB then startImage t s.input.bytesB
  else { t with boot := { t.boot with stage := .noFirmware } }

def execPackageReset (s : State) : Out := .next (packageReset s)

/-! ## Measurement by firmware and attestation (R391, R392) -/

/-- R391: a write to `cw.fmext`: the register is extended with 64 bytes of memory. The extend of register 1, stage 1's own, locks
it (log 34, DEDUCED). -/
def fmextWrite (s : State) (v : W64) : Except TrapInfo State :=
  let pa := fld v 51 6 <<< 6
  let i := fld v 2 0
  if !localMem pa then .error (cause 0x06 (BitVec.ofNat 64 pa)) else
  if s.boot.lock.getLsbD i then .error (cause 0x06) else
  match enginePoison s (dieOf s.cur) (.mem pa) 64 with
  | some e => .error (poisonTrap (BitVec.ofNat 64 pa) e)
  | none =>
    let s := toHome s (dieOf s.cur) (.mem pa)
    let b := extendReg s.boot i (s.mem.bytes pa 64)
    .ok { s with boot := if i = 1 then lockReg b 1 else b, fw := { s.fw with fmext := v &&& (bits 51 6 ||| bits 2 0) } }

/-- MEASUREMENT_EXTEND (R391): the write of `input.word` as a step of its own. -/
def execMeasurementExtend (s : State) : Out := written s (fmextWrite s s.input.word)

/-- R391: word `w` of item `i`. -/
def measWord (s : State) (i w : Nat) : W64 :=
  if i < 8 then (wordsOf 8 (s.boot.meas.getD i [])).getD w 0
  else if i = 8 then (wordsOf 4 (ed25519Public Config.identitySeed)).getD w 0
  else if i = 9 then (if w = 0 then Config.serial else 0) else 0

/-- R392: the signed part of a report. -/
def reportBody (s : State) (nonce : List Byte) : List Byte :=
  bytesOf [0x5454415453545441, Config.serial, s.boot.svn, 0] ++ (nonce ++ List.replicate 32 0).take 32
  ++ s.boot.meas.flatMap id

/-- R392: a report. -/
def report (s : State) (nonce : List Byte) : List Byte :=
  let b := reportBody s nonce
  b ++ ed25519Sign Config.identitySeed (sha512 b)

/-- ATTESTATION_REQUEST (R389, R392): a class-2 request with the nonce `input.bytesA`. -/
def execAttestationRequest (s : State) : Out :=
  match s.boot.stage with
  | .rom => .next s
  | .noFirmware => .next { s with fab := { s.fab with outbox := s.fab.outbox ++ [.noFirmware] } }
  | .started =>
    .next { s with fab := { s.fab with outbox := s.fab.outbox ++ [.report (report s s.input.bytesA)] } }

end Sys2Proof.Machine
end

