-- ==== Sys2Proof/Machine/Collator.lean ====
section
/-! DEFINITION. The Collator: the endpoint instructions and the steps of its commands (R254 to R259). One BUCKET_START step is
a whole bucket, unless a member lies in a fabric window, whose accesses take steps of their own (log 26, DESIGN CHOICE). -/

namespace Sys2Proof.Machine

/-! ## Endpoints (R254, R255) -/

/-- A FIFO of a die. -/
def State.fifo (s : State) (d f : Nat) : Fifo := (s.die d).fifos[f]?.getD {}
def State.setFifo (s : State) (d f : Nat) (x : Fifo) : State :=
  s.setDie d { s.die d with fifos := (s.die d).fifos.setIfInBounds f x }

/-- R254: the FIFO that an endpoint value names for the moving hart. -/
def endpoint (s : State) (v : W64) : Option Nat :=
  let f := fld v 3 0
  if v &&& ~~~(0xF0F : W64) ≠ 0 || fld v 11 8 ≠ 1 then none
  else match slotOfHart s s.cur with
    | none => none
    | some p => if (s.part p).record.fifos.getLsbD (16 * dieOf s.cur + f) then some f else none

/-- R254: the commands that a FIFO holds, the one that runs or waits to post among them. -/
def Fifo.held (x : Fifo) : Nat := x.cmds.length + (if x.run.isSome then 1 else 0) + x.waiting.length

def execEpush (a b : Reg) (s : State) : Out :=
  let d := dieOf s.cur
  let va := s.rx b
  bindingFirst (.epush a b) s s.me.guarded <|
  match endpoint s (s.rx a) with
  | none => s.trapMe (cause 0x06)
  | some f =>
    if va.toNat % 64 ≠ 0 then s.trapMe (cause 0x02 va)
    else if 8 ≤ (s.fifo d f).held then .next s
    else handOver (.epush a b) s fun s =>
      let s := homeRange s s.cur (spaceOf s s.cur) va 64
      match readRange s s.cur (spaceOf s s.cur) false va 64 with
      | .error t => s.trapMe t
      | .ok bs =>
        let x := s.fifo d f
        let c : ColCmd := { addr := va, raw := bs, hart := s.cur, ctx := s.me.tag, weight := s.me.uw.colarb, space := spaceOf s s.cur }
        .next (s.setFifo d f { x with cmds := x.cmds ++ [c] }).pass

def execEpop (d a : Reg) (s : State) : Out :=
  let die := dieOf s.cur
  match endpoint s (s.rx a) with
  | none => s.trapMe (cause 0x06)
  | some f =>
    let x := s.fifo die f
    match x.results with
    | [] => .next (s.write d 0)
    | r :: rest => if addPending s.me then .next s else .next ((acquire (s.setFifo die f { x with results := rest }) s.cur 3).write d r)

def execEprobe (d a : Reg) (s : State) : Out :=
  match endpoint s (s.rx a) with
  | none => s.trapMe (cause 0x06)
  | some f =>
    let x := s.fifo (dieOf s.cur) f
    .next (s.write d (at64 0 x.results.length ||| at64 8 (8 - x.held)))

/-! ## Starting a command (R256) -/

/-- R256: the formats of a bucket. -/
def bucketFmt (n : Nat) : Option Fmt :=
  match Fmt.ofCode n with
  | some .fp32 => some .fp32
  | some .bf16 => some .bf16
  | some .fp16 => some .fp16
  | some .fp64 => some .fp64
  | some .s32 => some .s32
  | some .s64 => some .s64
  | some .z32 => some .z32
  | _ => none

/-- R80, R357, R363: `k` bytes of one line that a command reads; in a fabric window they are a request of number `x`. -/
def lineRead (s : State) (c : ColCmd) (l : Loc) (va : W64) (k x : Nat) : Except Halt (State × List Byte) :=
  match l with
  | .fabric _ node a => do
    match ← exchange s c.asked (askLoad s c.hart x node a k va) with
    | .bytes b => return (s, b.take k)
    | r => .error (.trap (remoteTrap va r))
  | l => do
    (consume s (dieOf c.hart) va l k).mapError .trap
    let t := engineReach s (dieOf c.hart) l k
    return (t, engineRead t (dieOf c.hart) l k)

/-- R256: a table of a command, line by line; a line in a fabric window is a request of number `x`, and two more for each later
line. -/
def tableLines (s : State) (c : ColCmd) (va : W64) (n x : Nat) : Nat → Except Halt (State × List Byte)
  | 0 => .ok (s, [])
  | fuel + 1 => if n = 0 then .ok (s, []) else do
    let k := lineStep va n
    let p ← (locate s c.hart c.space true .load va).mapError .trap
    let (s, here) ← lineRead s c p.loc va k x
    let (s, rest) ← tableLines s c (va + BitVec.ofNat 64 k) (n - k) (x + 2) fuel
    return (s, here ++ rest)

/-- R256, R393: a table of a command. -/
def commandTable (s : State) (c : ColCmd) (va : W64) (n x : Nat) : Except Halt (State × List Byte) :=
  match leavesRegion va n with
  | some v => .error (.trap (cause 0x06 v))
  | none => tableLines s c va n x (n / 64 + 2)

/-- R365: a command or bucket that fails because of an error it consumed. -/
def failedItem (s : State) (c : ColCmd) (t : TrapInfo) : State :=
  match t.err with
  | none => s
  | some e => logError s (slotOfHart s c.hart) { e with act := 4 }

/-- R256: a member's buffer base is an aperture address or a fabric-window address; an address that cannot be translated
is left to R258. -/
def memberOk (s : State) (c : ColCmd) (base : W64) : Bool :=
  match regionOf base.toNat with
  | .aperture _ => true
  | .window | .reserved => false
  | .ordinary => match locate s c.hart c.space true .load base with
    | .error _ => true
    | .ok p => match p.loc with
      | .fabric .. => true
      | _ => false

/-- Pairs of words. -/
def pairsOf : List W64 → List (W64 × W64)
  | a :: b :: r => (a, b) :: pairsOf r
  | _ => []

/-- R256: a bucket list entry, when its fields are allowed. -/
def bucketOf (w : List W64) : Option (W64 × Nat × Nat × Nat) :=
  let z := fun i => w.getD i 0
  let fmt := fld (z 1) 35 32
  let op := fld (z 1) 39 36
  match bucketFmt fmt with
  | none => none
  | some f =>
    if fld (z 1) 63 40 ≠ 0 || z 2 ≠ 0 || z 3 ≠ 0 || fld (z 1) 31 0 = 0 || 3 < op || (op = 3 && !f.isInt) then none
    else some (z 0, fld (z 1) 31 0, fmt, op)

/-- The bucket list of `n` entries. -/
def bucketsOf : Nat → List W64 → Option (List (W64 × Nat × Nat × Nat))
  | 0, _ => some []
  | n + 1, w => match bucketOf (w.take 4), bucketsOf n (w.drop 4) with
    | some b, some r => some (b :: r)
    | _, _ => none

/-- Bytes of an element of a bucket. -/
def bucketBytes (fmt : Nat) : Nat := ((Fmt.ofCode fmt).getD .fp32).width / 8

/-- R256: the header word of a command. -/
def ColCmd.head (c : ColCmd) : W64 := BitVec.ofNat 64 (ofLE (c.raw.take 8))
def ColCmd.word (c : ColCmd) (n : Nat) : W64 := BitVec.ofNat 64 (ofLE ((c.raw.drop (8 * n)).take 8))
def ColCmd.hasStamp (c : ColCmd) : Bool := c.head.getLsbD 8
def ColCmd.hasUi (c : ColCmd) : Bool := c.head.getLsbD 9
def ColCmd.hasRes (c : ColCmd) : Bool := c.head.getLsbD 10
def ColCmd.stampa (c : ColCmd) : W64 := c.word 3

/-- R256: the checks of the command block itself. -/
def ColCmd.ok (c : ColCmd) : Bool :=
  let w := c.head
  fld w 63 48 == 0 && fld w 15 11 == 0 && fld w 7 0 == 1 && decide (1 ≤ fld w 47 32) && decide (fld w 47 32 ≤ 64)
  && decide (1 ≤ fld w 31 16) && decide (fld w 31 16 ≤ 64) && (!c.hasStamp || c.stampa.toNat % 8 == 0)
  && c.word 4 == 0 && c.word 5 == 0 && c.word 6 == 0 && c.word 7 == 0

/-- R256: a command read and checked; a fault rejects it. -/
def startCommand (s : State) (c : ColCmd) : Except Halt (State × ColRun) := do
  if !c.ok then .error (.trap (cause 0)) else
  let p := fld c.head 31 16
  let nb := fld c.head 47 32
  let (s, r) ← commandTable s c (c.word 1) (16 * p) 0
  let (s, l) ← commandTable s c (c.word 2) (32 * nb) 1
  let ring := pairsOf (wordsOf (2 * p) r)
  match bucketsOf nb (wordsOf (4 * nb) l) with
  | none => .error (.trap (cause 0))
  | some bs =>
    if ring.any (fun m => m.2.toNat % 8 != 0 || !memberOk s c m.1)
      || bs.any (fun b => ring.any fun m => (m.1 + b.1).toNat % bucketBytes b.2.2.1 != 0) then .error (.trap (cause 0))
    else return (s, { cmd := { c with asked := [] }, ring := ring, buckets := bs })

/-- The engines of the package work (R372). -/
def enginesMove (s : State) : Bool := s.hold.phase == .none

/-- COLLATOR_COMMAND_START: the oldest command of an idle FIFO is read in full and starts, or is rejected. -/
def commandStart (s : State) (d f : Nat) : State :=
  let x := s.fifo d f
  match x.cmds with
  | [] => s
  | c :: rest =>
    if !enginesMove s || x.run.isSome || !x.waiting.isEmpty then s else
    match startCommand s c with
    | .ok (t, r) => (forget t c.asked).setFifo d f { x with cmds := rest, run := some r }
    | .error (.trap e) =>
      (failedItem (forget s c.asked) c e).setFifo d f
        { x with cmds := rest, run := some { cmd := { c with asked := [] }, ring := [], buckets := [], rejected := true } }
    | .error h => h.send s c.hart fun t n id =>
      t.setFifo d f { x with cmds := { c with asked := kput c.asked n id } :: rest }

def execCollatorCommandStart (s : State) : Out := .next (commandStart s s.input.die s.input.queue)

/-! ## A bucket (R257, R258) -/

/-- The numbers of a bucket's accesses: a ready word's read and write-back, an element's read and write; and that of their requests,
among which the stamp's is 0 (log 26, DESIGN CHOICE). -/
def readyIx (i : Nat) : Nat := i
def clearIx (i : Nat) : Nat := 64 + i
def elemIx (i e : Nat) : Nat := 128 * (e + 1) + i
def writeIx (i e : Nat) : Nat := 128 * (e + 1) + 64 + i
def askIx (j x : Nat) : Nat := 1 + j + 64 * x

/-- R341: the place of an access of number `x` to a member; its elements, from number 128 on, lie on no device-ordered page. -/
def memberPlace (s : State) (c : ColCmd) (acc : Acc) (va : W64) (x : Nat) : Except Halt Place :=
  (if 128 ≤ x then commandPlace s c.hart c.space true acc va else locate s c.hart c.space true acc va).mapError .trap

/-- A read of one aligned element or word of a member, the access of number `x` of bucket `j`. -/
def memberRead (s : State) (c : ColCmd) (j : Nat) (va : W64) (n x : Nat) : Except Halt (State × Nat) := do
  let p ← memberPlace s c .load va x
  let (s, b) ← lineRead s c p.loc va n (askIx j x)
  return (s, ofLE b)

/-- A write of one element or word of a member, the access of number `x` of bucket `j`. -/
def memberWrite (s : State) (c : ColCmd) (j : Nat) (va : W64) (n x v : Nat) : ElemOut := do
  let p ← memberPlace s c .store va x
  pieceWrite s c.hart p.loc (toLE n v) c.asked (askIx j x) va

/-- Numbers read one after the other. -/
def readEach (f : State → Nat → Except Halt (State × Nat)) : State → List Nat → Except Halt (State × List Nat)
  | s, [] => .ok (s, [])
  | s, i :: r => do
    let (s, v) ← f s i
    let (s, l) ← readEach f s r
    return (s, v :: l)

/-- Accesses made one after the other, up to the first that cannot be made. -/
def makeEach (f : State → Nat → ElemOut) : State → List Nat → State × Option Halt
  | s, [] => (s, none)
  | s, i :: r => match f s i with
    | .ok t => makeEach f t r
    | .error h => (s, some h)

/-- R257: `OP`, rounded RNE in the wide format. -/
def ringOp (wide : Fmt) (op a b : Nat) : Nat :=
  if wide.isInt then
    let x := BitVec.ofNat wide.width a
    let y := BitVec.ofNat wide.width b
    let less := if wide.isSigned then y.slt x else y.ult x
    if op = 0 then (x + y).toNat else if op = 1 then (if less then b else a)
    else if op = 2 then (if less then a else b) else a ||| b
  else
    let x := decodeFloat wide a
    let y := decodeFloat wide b
    let r := if op = 0 then Exact.add false x y else if op = 1 then Exact.minimum x y else Exact.maximum x y
    (encodeFloat wide .rne true 0 r).bits

/-- R257: the reduction of an element's values, listed in ring order. -/
def ringReduce (fmt : Fmt) (op : Nat) : List Nat → Nat
  | [] => 0
  | v :: r =>
    let wide := if fmt = .fp16 || fmt = .bf16 then Fmt.fp32 else fmt
    let conv := fun x => if wide = fmt then x else (encodeFloat wide .rne true 0 (decodeFloat fmt x)).bits
    let t := r.foldl (fun a b => ringOp wide op a (conv b)) (conv v)
    if wide = fmt then t else (encodeFloat fmt .rne true 0 (decodeFloat wide t)).bits

/-- The members of a ring in the order of R257 for chunk `c`. -/
def ringOrder (p c : Nat) : List Nat := (List.range p).map fun t => (c + 1 + t) % p

/-- R257: the address of element `e` of a bucket in a member's buffer, with the check of R393. -/
def memberAddr (base off : W64) (e n : Nat) : Except TrapInfo W64 :=
  let b := base + off
  let va := b + BitVec.ofNat 64 (n * e)
  if outOfRegion b va || regionEnd b.toNat < va.toNat + n then .error (cause 0x06 va) else .ok va

/-- A bucket: its offset, length, format and operation. -/
abbrev Bucket := W64 × Nat × Nat × Nat

/-- R257: the final value of one element. -/
def elementValue (s : State) (r : ColRun) (j : Nat) (b : Bucket) (e : Nat) : Except Halt (State × Nat) := do
  let p := r.ring.length
  let fmt := (Fmt.ofCode b.2.2.1).getD .fp32
  let n := fmt.width / 8
  let q := (b.2.1 + p - 1) / p
  let (s, vs) ← readEach (fun s i => do
    let va ← (memberAddr (r.ring.getD i (0, 0)).1 b.1 e n).mapError .trap
    memberRead s r.cmd j va n (elemIx i e)) s (ringOrder p (e / q))
  return (s, ringReduce fmt b.2.2.2 vs)

/-- R257: one element's value written to a member. -/
def elementWrite (r : ColRun) (j : Nat) (b : Bucket) (e v : Nat) (s : State) (i : Nat) : ElemOut := do
  let n := bucketBytes b.2.2.1
  let va ← (memberAddr (r.ring.getD i (0, 0)).1 b.1 e n).mapError .trap
  memberWrite s r.cmd j va n (writeIx i e) v

/-- R257: the address of a member's ready word of bucket `j`. -/
def readyAddr (r : ColRun) (j i : Nat) : W64 := (r.ring.getD i (0, 0)).2 + BitVec.ofNat 64 (8 * j)

/-- R257: whether every ready word of a bucket reads nonzero. -/
def bucketReady (s : State) (r : ColRun) (j : Nat) : Except Halt (State × Bool) := do
  let (s, vs) ← readEach (fun s i => memberRead s r.cmd j (readyAddr r j i) 8 (readyIx i)) s (List.range r.ring.length)
  return (s, vs.all (· != 0))

/-- R257: the elements of a bucket that is ready; none while it is not. -/
def bucketValues (s : State) (r : ColRun) (j : Nat) (b : Bucket) : Except Halt (State × Option (List Nat)) := do
  let (s, ready) ← bucketReady s r j
  if !ready then return (s, none) else
  let (s, vs) ← readEach (fun s e => elementValue s r j b e) s (List.range b.2.1)
  return (s, some vs)

/-- R257: the values of a bucket written to every member. -/
def writeValues (s : State) (r : ColRun) (j : Nat) (b : Bucket) (vs : List Nat) : State × Option Halt :=
  makeEach (fun s k => elementWrite r j b (k / r.ring.length) (vs.getD (k / r.ring.length) 0) s (k % r.ring.length)) s
    (List.range (vs.length * r.ring.length))

/-- R257: the ready words of a bucket written back to 0. -/
def clearReady (s : State) (r : ColRun) (j : Nat) : State × Option Halt :=
  makeEach (fun s i => memberWrite s r.cmd j (readyAddr r j i) 8 (clearIx i) 0) s (List.range r.ring.length)

/-- R258: whether an access of a failed bucket had its final value written is open (log 9, DESIGN CHOICE). -/
def failBucket (s : State) (r : ColRun) (j : Nat) (b : Bucket) : State :=
  let value := fun (e : Nat) => match kget none (r.values.map fun p => (p.1, some p.2)) j with
    | some vs => vs[e]?
    | none => (elementValue s r j b e).toOption.map (·.2)
  (List.range b.2.1).foldl (init := s) fun t e => match value e with
    | none => t
    | some v => (List.range r.ring.length).foldl (init := t) fun t i =>
      if Config.newer s.ticks (elemIx i e) then ((elementWrite r j b e v t i).toOption).getD t else t

/-- The running command of a FIFO replaced, with the request that it waits for sent (R357). -/
def waitRun (s : State) (d f : Nat) (r : ColRun) (h : Halt) : State :=
  let put := fun (t : State) (r : ColRun) => t.setFifo d f { t.fifo d f with run := some r }
  h.send (put s r) r.cmd.hart fun t x id => put t { r with cmd := { r.cmd with asked := kput r.cmd.asked x id } }

/-- The requests of bucket `j` of a command are of no more use. -/
def ColRun.dropAsked (r : ColRun) (j : Nat) : ColRun :=
  { r with cmd := { r.cmd with asked := r.cmd.asked.filter fun p => p.1 = 0 || (p.1 - 1) % 64 ≠ j } }

/-- R257: a bucket that has run, or has failed at `t`. -/
def endBucket (s : State) (d f : Nat) (r : ColRun) (j : Nat) (t : Option TrapInfo) : State :=
  let r' := { r.dropAsked j with values := r.values.filter (·.1 != j), reduced := r.reduced.filter (· != j) }
  let s := (match t with
    | some e => failedItem s r.cmd e
    | none => s)
  s.setFifo d f { s.fifo d f with run := some (match t with
    | some _ => { r' with failed := some (r.failed.getD j) }
    | none => { r' with done := j :: r.done }) }

/-- R257: the last part of bucket `j`: its ready words. -/
def finishBucket (s : State) (d f : Nat) (r : ColRun) (j : Nat) : State :=
  let c := clearReady s r j
  match c.2 with
  | none => endBucket c.1 d f r j none
  | some (.trap t) => endBucket c.1 d f r j (some t)
  | some h => waitRun s d f r h

/-- R257, R258: bucket `j`, whose elements have the values `vs`, written back. -/
def storeBucket (s : State) (d f : Nat) (r : ColRun) (j : Nat) (b : Bucket) (vs : List Nat) : State :=
  let w := writeValues s r j b vs
  match w.2 with
  | none => finishBucket w.1 d f { r with reduced := j :: r.reduced } j
  | some (.trap t) => endBucket (failBucket s r j b) d f r j (some t)
  | some h => waitRun s d f r h

/-- R257, R258: bucket `j` of a running command reduced and written back, as far as the fabric has answered. -/
def runBucket (s : State) (d f : Nat) (r : ColRun) (j : Nat) (b : Bucket) : State :=
  if r.reduced.contains j then finishBucket s d f r j else
  match r.values.find? (·.1 = j) with
  | some p => storeBucket s d f r j b p.2
  | none => match bucketValues s r j b with
    | .ok (t, some vs) => storeBucket t d f { r with values := kput r.values j vs } j b vs
    | .ok (t, none) => t.setFifo d f { t.fifo d f with run := some (r.dropAsked j) }
    | .error (.trap t) => endBucket (failBucket s r j b) d f r j (some t)
    | .error h => waitRun s d f r h

/-- R257: a bucket has begun to be written back. -/
def ColRun.begun (r : ColRun) (j : Nat) : Bool := r.reduced.contains j || r.values.any (·.1 = j)

/-- BUCKET_START: a bucket of the running command that has neither run nor failed; a failure starts no further one, and at most four
run at once. -/
def bucketStart (s : State) (d f j : Nat) : State :=
  match (s.fifo d f).run with
  | none => s
  | some r =>
    if !enginesMove s || r.rejected || r.done.contains j || r.failed == some j
      || (!r.begun j && (r.failed.isSome || decide (4 ≤ ((List.range r.buckets.length).filter r.begun).length))) then s else
    match r.buckets[j]? with
    | none => s
    | some b => runBucket s d f r j b

def execBucketStart (s : State) : Out := .next (bucketStart s s.input.die s.input.queue s.input.index)

/-! ## Completion (R255, R257) -/

/-- R255: a result entry. -/
def resultEntry (c : ColCmd) (status idx : Nat) : W64 :=
  bitAt 63 true ||| at64 56 (idx % 64) ||| at64 48 status ||| (c.addr &&& 0xFFFFFFFFFFFF)

/-- R257: the stamp of a command, when it can be written. -/
def writeStamp (s : State) (c : ColCmd) (v : W64) : ElemOut := do
  if (leavesRegion c.stampa 8).isSome then .error (.trap (cause 0x06 c.stampa)) else
  let p ← (locate s c.hart c.space true .store c.stampa).mapError .trap
  pieceWrite s c.hart p.loc (toLE 8 v.toNat) c.asked 0 c.stampa

/-- R257: cause 3 of a posted command. -/
def postUi (s : State) (f : Nat) (u : Option (Nat × BitVec 32 × W64)) : State :=
  match u with
  | none => s
  | some (i, tag, a) => uiEvent s i tag 3 f (a &&& 0xFFFFFFFFFFFF)

/-- R257: a result entry posted, or left waiting for room. -/
def postResult (s : State) (d f : Nat) (e : W64) (u : Option (Nat × BitVec 32 × W64)) : State :=
  let x := s.fifo d f
  if x.results.length < 8 then postUi (s.setFifo d f { x with results := x.results ++ [e] }) f u
  else s.setFifo d f { x with waiting := [(e, u)] }

/-- COLLATOR_COMPLETION: a command that is rejected, failed or done posts its completion. -/
def commandDone (s : State) (d f : Nat) : State :=
  let x := s.fifo d f
  match x.run with
  | none => s
  | some r =>
    if !enginesMove s || (List.range r.buckets.length).any r.begun
      || !(r.rejected || r.failed.isSome || (List.range r.buckets.length).all fun j => r.done.contains j) then s else
    let c := r.cmd
    let n := x.count + 1
    let freed := s.setFifo d f { x with run := none, count := n }
    let status := if r.rejected then 2 else if r.failed.isSome then 1 else 0
    let u := if c.hasUi then some (c.hart, c.ctx, c.addr) else none
    let post := fun (t : State) (lost : Bool) =>
      if c.hasRes || lost then
        postResult t d f (resultEntry c (if lost && status == 0 then 3 else status) (r.failed.getD 0)) u
      else postUi t f u
    if c.hasStamp && c.stampa.toNat % 8 == 0 then match writeStamp freed c n with
      | .ok t => post (forget t c.asked) false
      | .error (.trap _) => post (forget freed c.asked) true
      | .error h => waitRun s d f r h
    else post freed false

def execCollatorCompletion (s : State) : Out := .next (commandDone s s.input.die s.input.queue)

/-- RESULT_ENTRY_POST: a result entry that waited for room. -/
def execResultEntryPost (s : State) : Out :=
  let d := s.input.die
  let f := s.input.queue
  let x := s.fifo d f
  match x.waiting with
  | [] => .next s
  | (e, u) :: r =>
    if !enginesMove s || 8 ≤ x.results.length then .next s
    else .next (postUi (s.setFifo d f { x with results := x.results ++ [e], waiting := r }) f u)

end Sys2Proof.Machine
end

