-- ==== Sys2Proof/Machine/Control.lean ====
section
/-! DEFINITION. The control words as the CW instructions read and write them (R4, R139, R159, R160), the supervisor and
firmware words (R294, R295, R313, R335, R347, R364, R371, R379, R385, R388, R391), and the steps that write or read one word. -/

namespace Sys2Proof.Machine

/-! ## Reading (R159) -/

/-- R295: `cw.sbar`. -/
def sbarWord (s : State) (i : Nat) : W64 :=
  let n := fld (s.hart i).sw.sbarNum 4 0
  at64 35 n ||| (s.bar (coreOf i) (BitVec.ofNat 5 n)).word

/-- R313: `cw.sqstat`. -/
def sqstatWord (p : Part) : W64 :=
  (List.range 16).foldl (init := 0) fun w q =>
    let x := p.queue q
    w ||| bitAt (32 + q) (!x.chip.isEmpty || x.olen != 0) ||| bitAt (16 + q) (!x.spills.isEmpty) ||| bitAt q x.blk

/-- R295: the oldest orphan event as `cw.sorphan` gives it, and `cw.sorphtag`. -/
def orphanWord (p : Part) : W64 := match p.orphans with
  | [] => 0
  | e :: _ => bitAt 63 true ||| bitAt 62 p.orphOvf ||| at64 0 (fld e.detail 47 0)
def orphanTag (e : Orphan) : W64 := at64 36 e.unit ||| at64 32 e.cause ||| at64 0 e.tag.toNat

/-- R365: whether a hart reads firmware's log in place of its partition's. -/
def readsFw (s : State) (i : Nat) : Bool := (s.hart i).priv == .fw

/-- R364: the log that a hart reads, and whether entries were lost. -/
def logOf (s : State) (i : Nat) : List ErrEntry × Bool :=
  if readsFw s i then (s.errs, s.errOvf) else
  ((s.partOf (slotOfHart s i)).errs, (s.partOf (slotOfHart s i)).errOvf)

/-- R364: an entry as `cw.serrlog` and `cw.serrinfo` give it. -/
def logWord (e : ErrEntry) (ovf : Bool) : W64 :=
  bitAt 63 true ||| bitAt 62 ovf ||| at64 58 e.kind ||| at64 0 (e.addr % 2 ^ 52)
def infoWord (e : ErrEntry) : W64 :=
  at64 44 e.store ||| at64 32 (if 1 ≤ e.store ∧ e.store ≤ 3 then e.core else 0) ||| at64 20 e.hart ||| at64 12 e.unit
  ||| at64 8 e.act

/-- R294: trap word `n` of a level. -/
def TrapLevel.word (w : TrapLevel) (n : Nat) : W64 := w.words.getD n 0

/-- R388: `cw.ftemp`. -/
def ftempWord (s : State) : W64 :=
  let hot := (List.range 20).foldl (fun m d => max m (dieTemp s d).toInt) (dieTemp s 0).toInt
  at64 32 (BitVec.ofInt 16 hot).toNat ||| at64 16 (dieTemp s s.fw.ftempSel).toNat ||| at64 0 s.fw.ftempSel

/-- R295, R313, R335, R364, R371: supervisor word `n`. -/
def supWord (s : State) (i n : Nat) : W64 :=
  let h := s.hart i
  let p := s.partOf (slotOfHart s i)
  match n with
  | 0x408 => h.sw.syield
  | 0x409 => h.sw.sctx
  | 0x40A => h.sw.sswz
  | 0x40B => sbarWord s i
  | 0x40C => orphanWord p
  | 0x40D => h.sw.sorphtag
  | 0x440 => p.sasdir
  | 0x441 => h.sw.sasid
  | 0x442 => h.sw.skasid
  | 0x443 => at64 0 (kget 0 p.ver (fld h.sw.sasid 15 0)).toNat
  | 0x480 => p.sqtab
  | 0x481 => p.sqctl
  | 0x482 => sqstatWord p
  | 0x483 => h.sw.sdefct
  | 0x484 => at64 24 p.record.pspad ||| at64 8 p.record.pmsc ||| at64 0 p.record.pshare
  | 0x4C0 => if readsFw s i then s.serrcnt else p.serrcnt
  | 0x4C1 => match logOf s i with
    | ([], _) => 0
    | (e :: _, o) => logWord e o
  | 0x4C2 => h.sw.serrinfo
  | 0x4C3 => h.sw.smsave
  | 0x4C4 => at64 32 p.record.hold ||| at64 0 p.total
  | 0x4C5 => at64 0 h.charge
  | _ => if n < 0x408 then h.sup.word (n - 0x400) else 0

/-- R347, R379, R385, R388, R391: firmware word `n`. -/
def fwWord (s : State) (i n : Nat) : W64 :=
  let f := s.fw
  match n with
  | 0x808 => (s.hart i).sw.fdeleg
  | 0x840 => f.fptab
  | 0x841 => bitAt 63 f.fpBusy ||| at64 16 f.fpSlot ||| at64 8 f.fpStatus ||| at64 0 f.fpOp
  | 0x842 => f.ffence
  | 0x843 => f.fnode
  | 0x844 => f.fe2e
  | 0x880 => f.fplim
  | 0x881 => at64 40 (clockOf s.power) ||| at64 32 s.power.step ||| at64 0 s.power.mw.toNat
  | 0x882 => f.framp
  | 0x883 => f.fthermal
  | 0x884 => ftempWord s
  | 0x885 => at64 8 s.boot.lock.toNat ||| f.fmSel
  | 0x886 => measWord s (fld f.fmSel 3 0) (fld f.fmSel 6 4)
  | 0x887 => f.fmext
  | 0x8C0 => at64 32 s.hold.gen.toNat ||| bitAt 1 s.hold.erasing
  | 0x8C1 => f.fhsptr
  | 0x8C2 => (fhsRead s).2
  | _ => if n < 0x808 then (s.hart i).fwl.word (n - 0x800) else 0

/-- R159: the value of word `n` at hart `i`. -/
def cwValue (s : State) (i n : Nat) : W64 :=
  if n < 0x400 then userWord s i n else if n < 0x800 then supWord s i n else fwWord s i n

/-- R295: a read of `cw.sorphan` pops an entry. -/
def popOrphan (s : State) (i : Nat) : State :=
  let slot := slotOfHart s i
  match (s.partOf slot).orphans with
  | [] => s
  | e :: r =>
    let t := s.modPart slot fun p => { p with orphans := r, orphOvf := false }
    t.setHart i { t.hart i with sw := { (t.hart i).sw with sorphtag := orphanTag e } }

/-- R365: a read of `cw.serrlog` pops an entry. -/
def popLog (s : State) (i : Nat) : State :=
  match (logOf s i).1 with
  | [] => s
  | e :: r =>
    let t := if readsFw s i then { s with errs := r, errOvf := false }
      else s.modPart (slotOfHart s i) fun p => { p with errs := r, errOvf := false }
    t.setHart i { t.hart i with sw := { (t.hart i).sw with serrinfo := infoWord e } }

/-- R295, R365, R379: what a read of word `n` changes. -/
def readEffect (s : State) (i n : Nat) : State :=
  if n = 0x40C then popOrphan s i else if n = 0x4C1 then popLog s i else if n = 0x8C2 then (fhsRead s).1 else s

/-! ## Writing user words (R4, R159) -/

/-- The RW bits of user word `n`. -/
def userWritable (n : Nat) : W64 :=
  if [0x012, 0x014, 0x018, 0x019, 0x01A, 0x01F, 0x020, 0x028, 0x029, 0x02A, 0x02B, 0x030, 0x031, 0x032, 0x033, 0x040, 0x042,
      0x048, 0x058, 0x061].contains n then userLayout n else 0

/-- R34, R223, R259: the value that a field stores. -/
def userClamp (n : Nat) (v : W64) : W64 :=
  if n = 0x014 then at64 0 (max 1 (min 16 v.toNat))
  else if n = 0x058 then (if v = 0 then 1 else v)
  else if n = 0x061 then at64 0 (min 256 v.toNat) else v

/-- R277: the words whose write closes every open mark. -/
def gatherBase (n : Nat) : Bool := decide (0x030 ≤ n) && decide (n ≤ 0x033)

/-- R217, R277: user word `n` of a hart written. -/
def Hart.putUser (h : Hart) (n : Nat) (v : W64) : Hart :=
  if userWritable n = 0 then h else
  let g := { h with uw := h.uw.put n (userClamp n (v &&& userWritable n)) }
  if n = 0x048 then { g with uw := { g.uw with ramostat := 0 } }
  else if gatherBase n then { g with marks := [] } else g

/-! ## Writing supervisor words -/

/-- R294: trap word `n` of a level written; `p` is the level, `w` the bits written with 1. -/
def TrapLevel.put (x : TrapLevel) (p : Priv) (n : Nat) (v w : W64) : TrapLevel :=
  match n with
  | 0 => { x with tvec := v &&& bits 54 1 }
  | 1 => { x with cause := v &&& bits 4 0 }
  | 2 => { x with val := v }
  | 3 => { x with pc := v }
  | 4 =>
    let pp := if p = .fw then min 2 (fld v 1 0) else min 1 (fld v 1 0)
    let clear := w.getLsbD 5
    { x with
      stat := (v &&& (bits 15 6 ||| bits 4 4)) ||| at64 0 pp ||| bitAt 5 (x.qi && !clear)
      image := if clear then [] else x.image }
  | 5 => { x with elem := v &&& bits 39 0 }
  | 6 => { x with seq := v }
  | 7 => { x with scratch := v }
  | _ => x

/-- R295: a barrier's state from its code. -/
def barStateOf : Nat → BarState
  | 0 => .idle
  | 1 => .armed
  | 2 => .complete
  | _ => .broken

/-- R295: a write to `cw.sbar`. -/
def sbarWrite (s : State) (i : Nat) (v : W64) : State :=
  let n := fld v 39 35
  let c := coreOf i
  let st := barStateOf (fld v 34 33)
  let t := s.setHart i { s.hart i with sw := { (s.hart i).sw with sbarNum := at64 0 n } }
  let t := t.setBar c (BitVec.ofNat 5 n) { count := BitVec.ofNat 32 (fld v 31 0), p := v.getLsbD 32, st := st }
  match st with
  | .complete => releaseWaiters t c n 0
  | .broken => releaseWaiters t c n 2
  | .idle | .armed => t

/-- R351: a context takes ownership of the share that a write to `cw.sswz` makes it run in. -/
def sswzWrite (s : State) (i : Nat) (v : W64) : State :=
  let h := s.hart i
  let z := fld v 1 0
  let t := s.setHart i { h with sw := { h.sw with sswz := at64 0 z } }
  let c := t.core (coreOf i)
  let owner := ((t.partOf (slotOfHart t i)).record.id, BitVec.ofNat 16 (fld h.sw.sasid 15 0))
  t.setCore (coreOf i) { c with shares := kput c.shares (hartIx i ^^^ z) owner }

/-- R314: a write to `cw.sqctl`: the queues that it turns off, then those that it turns on; one that is refused changes nothing. -/
def sqctlWrite (s : State) (i : Nat) (v : W64) : Except TrapInfo State :=
  let off := ((List.range 16).filter fun q => !v.getLsbD q).foldl (fun t q => disableQueue t (slotOfHart t i) q) s
  ((List.range 16).filter fun q => v.getLsbD q).foldlM (fun t q => enableQueue t i q) off

/-- R364: `cw.serrcnt`, the partition's or firmware's. -/
def serrcntWrite (s : State) (i : Nat) (v : W64) : State :=
  if readsFw s i then { s with serrcnt := v } else s.modPart (slotOfHart s i) fun p => { p with serrcnt := v }

/-- R207: an image that a write of a `qi` bit discards takes its load-queue consumers with it. -/
def Hart.dropConsumers (h : Hart) (img : List QEntry) (clear : Bool) : Hart :=
  if !clear then h else
  { h with q := h.q.mapIdx fun n x => if img.any fun e => e.qa == some n || e.qb == some n then { x with consumer := false } else x }

/-- Supervisor word `n` of hart `i` written. The words of a partition (`cw.sasdir`, `cw.sver`, `cw.sqtab`) have no home on a core that
no partition owns: a write by firmware there is dropped and they read 0 (log 78, DEDUCED). -/
def supPut (s : State) (i n : Nat) (v w : W64) : Except TrapInfo State :=
  let h := s.hart i
  let sw := fun (f : SysWords → SysWords) => s.setHart i { h with sw := f h.sw }
  let part := fun (f : Part → Part) => s.modPart (slotOfHart s i) f
  match n with
  | 0x408 => .ok (sw fun x => { x with syield := if fld v 31 0 = 0 then 1 else v &&& bits 31 0 })
  | 0x409 => .ok (sw fun x => { x with sctx := v &&& bits 31 0 })
  | 0x40A => .ok (sswzWrite s i v)
  | 0x40B => .ok (sbarWrite s i v)
  | 0x440 => .ok (part fun p => { p with sasdir := v &&& bits 51 24 })
  | 0x441 => .ok (sw fun x => { x with sasid := v &&& bits 15 0 })
  | 0x442 => .ok (sw fun x => { x with skasid := v &&& bits 15 0 })
  | 0x443 => .ok (setVersions s (slotOfHart s i) (fld h.sw.sasid 15 0) (BitVec.ofNat 8 (fld v 7 0)))
  | 0x480 => .ok (part fun p => { p with sqtab := v &&& bits 54 12 })
  | 0x481 => sqctlWrite s i v
  | 0x4C0 => .ok (serrcntWrite s i v)
  | 0x4C3 => admitDecl s i (v &&& bits 54 6)
  | _ => .ok (if n < 0x408 then s.setHart i
      { h.dropConsumers h.sup.image (n == 0x404 && w.getLsbD 5) with sup := h.sup.put .sup (n - 0x400) v w } else s)

/-! ## Writing firmware words -/

/-- R388: a critical temperature at or below the throttle temperature is refused. -/
def fthermalOk (v : W64) : Bool :=
  decide ((BitVec.ofNat 16 (fld v 15 0)).toInt < (BitVec.ofNat 16 (fld v 31 16)).toInt)

/-- Firmware word `n` written by hart `i`. -/
def fwPut (s : State) (i n : Nat) (v w : W64) : Except TrapInfo State :=
  let h := s.hart i
  let fw := fun (f : FwWords → FwWords) => { s with fw := f s.fw }
  match n with
  | 0x808 => .ok (s.setHart i { h with sw := { h.sw with fdeleg := v &&& (bits 20 18 ||| bits 16 0) } })
  | 0x840 => .ok (fw fun x => { x with fptab := v &&& bits 51 15 })
  | 0x841 => fpcmdWrite s v
  | 0x842 => .ok (fw fun x => { x with ffence := if fld v 1 0 = 0 then 3 else v &&& bits 1 0 })
  | 0x843 => .ok (fw fun x => { x with fnode := v &&& bits 15 0 })
  | 0x844 => .ok (fw fun x => { x with fe2e := v &&& bits 31 0 })
  | 0x880 => .ok (fw fun x => { x with fplim := at64 0 (max 1200 (min 2400 (fld v 11 0))) })
  | 0x882 => .ok (fw fun x => { x with framp := (v &&& bits 31 0) ||| bitAt 16 (fld v 31 16 == 0) })
  | 0x883 => if fthermalOk v then .ok (fw fun x => { x with fthermal := v &&& bits 31 0 }) else .error (cause 0x06)
  | 0x884 => .ok (fw fun x => { x with ftempSel := min 19 (fld v 4 0) })
  | 0x885 => .ok (fw fun x => { x with fmSel := v &&& bits 6 0 })
  | 0x887 => fmextWrite s v
  | 0x8C0 => .ok (if v.getLsbD 1 then startErase s else s)
  | 0x8C1 => .ok (fw fun x => { x with fhsptr := v &&& bits 27 3 })
  | _ => .ok (if n < 0x808 then s.setHart i
      { h.dropConsumers h.fwl.image (n == 0x804 && w.getLsbD 5) with fwl := h.fwl.put .fw (n - 0x800) v w } else s)

/-- R159: word `n` of hart `i` written with value `v`; `w` holds the bits written with 1 into W1C bits. -/
def cwPut (s : State) (i n : Nat) (v w : W64) : Except TrapInfo State :=
  if n < 0x400 then .ok (s.setHart i ((s.hart i).putUser n v))
  else if n < 0x800 then supPut s i n v w else fwPut s i n v w

/-! ## The CW instructions (R139, R159, R160) -/

/-- R160: the words whose access waits for the queues. -/
def drainsFirst (n : Nat) : Bool :=
  n == 0x01F || (decide (0x028 ≤ n) && decide (n ≤ 0x02B)) || n == 0x020 || n == 0x01A || n == 0x061
  || (decide (0x030 ≤ n) && decide (n ≤ 0x036))

/-- R139, R292: the privilege that word `n` needs. -/
def cwAllowed (p : Priv) (n : Nat) : Bool := n < 0x400 || (p == .sup && n < 0x800) || p == .fw

/-- R139, R160, R206: an access to word `n`: the privilege check, then the waits. -/
def cwAccess (i : Instr) (n : Nat) (s : State) (k : State → Out) : Out :=
  if !cwAllowed s.me.priv n then s.privileged i
  else if (n == 0x010 || n == 0x011) && s.me.firstFaultPending then .next s
  else if drainsFirst n then whenDrained i s k else k s

/-- The old value of the word that a CW instruction returns, and the state after its read. -/
def execCwr (c : BitVec 12) (d : Reg) (s : State) : Out :=
  cwAccess (.cwr c d) c.toNat s fun s =>
    .next ((readEffect s s.cur c.toNat).write d (cwValue s s.cur c.toNat))

/-- R159, R300, R335: a read and write of a word in one step. `f` gives the new value from the old one, `w` the bits written
with 1. -/
def cwModify (i : Instr) (c : BitVec 12) (d : Reg) (f : W64 → W64) (w : W64) (s : State) : Out :=
  let n := c.toNat
  cwAccess i n s fun s =>
    if n = 0x012 && s.me.priv != .user then s.illegal i else
    let go := fun (s : State) =>
      let old := cwValue s s.cur n
      match cwPut (readEffect s s.cur n) s.cur n (f old) w with
      | .error t => s.trapMe t
      | .ok t => .next (t.write d old)
    if n = 0x443 then flipOrder i s go else go s

def execCww (c : BitVec 12) (d a : Reg) (s : State) : Out := cwModify (.cww c d a) c d (fun _ => s.rx a) (s.rx a) s
def execCwset (c : BitVec 12) (d a : Reg) (s : State) : Out :=
  cwModify (.cwset c d a) c d (fun old => old ||| s.rx a) (s.rx a) s
def execCwclr (c : BitVec 12) (d a : Reg) (s : State) : Out :=
  cwModify (.cwclr c d a) c d (fun old => old &&& ~~~(s.rx a)) 0 s

/-! ## Writes and reads as steps of their own, by `input.hart` -/

/-- SVER_WRITE (R335, R345): the write, ordered as a `verflip` of its hart is. -/
def execSverWrite (s : State) : Out :=
  let i := s.input.hart
  match flipOrder .sverWrite { s with cur := i } fun s => written s (supPut s i 0x443 s.input.word 0) with
  | .next t => .next { t with cur := s.cur }
  | o => o

/-- SBAR_WRITE (R295); once the hold-up sequence has begun no hart writes (R372). -/
def execSbarWrite (s : State) : Out :=
  .next (if s.hold.phase == .none then sbarWrite s s.input.hart s.input.word else s)

/-- SORPHAN_READ (R295). -/
def execSorphanRead (s : State) : Out := .next (popOrphan s s.input.hart)

/-- SERRLOG_READ (R365). -/
def execSerrlogRead (s : State) : Out := .next (popLog s s.input.hart)

/-- SMSAVE_WRITE (R371). -/
def execSmsaveWrite (s : State) : Out := written s (admitDecl s s.input.hart (s.input.word &&& bits 54 6))

/-- RAMOTAG_WRITE (R217). -/
def execRamotagWrite (s : State) : Out := written s (cwPut s s.input.hart 0x048 s.input.word 0)

/-- GATHER_BASE_WRITE (R277). -/
def execGatherBaseWrite (s : State) : Out := written s (cwPut s s.input.hart s.input.cw.toNat s.input.word 0)

/-- The words whose writes have a row of their own. -/
def ownRow (n : Nat) : Bool :=
  n == 0x443 || n == 0x40B || n == 0x4C3 || n == 0x048 || gatherBase n || n == 0x481 || n == 0x841 || n == 0x887 || n == 0x8C0

/-- CONTROL_WORD_WRITE (R159): any other word. -/
def execControlWordWrite (s : State) : Out :=
  let n := s.input.cw.toNat
  if ownRow n then .next s else written s (cwPut s s.input.hart n s.input.word s.input.word)

end Sys2Proof.Machine
end

