-- ==== Sys2Proof/Machine/Gathering.lean ====
section
/-! DEFINITION. The gathering instructions as the front end executes them (R279 to R287): four are queued, four complete at
the front end once the queues are empty. -/

namespace Sys2Proof.Machine

def execGinit (s : State) : Out := afterCommit .ginit s (queueInstr .ginit)
def execGunite (m : BitVec 3) (d a b : Reg) (s : State) : Out :=
  afterCommit (.gunite m d a b) s (queueInstr (.gunite m d a b))
def execGfind (m : BitVec 3) (d a : Reg) (s : State) : Out := afterCommit (.gfind m d a) s (queueInstr (.gfind m d a))
def execGrelabel (fs wb : Bool) (m : BitVec 3) (d a b : Reg) (s : State) : Out :=
  afterCommit (.grelabel fs wb m d a b) s (queueInstr (.grelabel fs wb m d a b))

/-- R285: the size of the class of element x[a]. -/
def classSize (s : State) (n : W64) : Except TrapInfo (State × W64) := do
  let sp := spaceOf s s.cur
  forestCheck s s.cur sp
  if s.me.entries ≤ n.toNat then .error (cause 0x06 (s.me.forest + 8 * n)) else
  let (s, _, e) ← rootOf s s.cur sp n.toNat
  return (s, BitVec.ofNat 64 (entryHigh e))

def execGsize (d a : Reg) (s : State) : Out :=
  whenDrained (.gsize d a) s fun s =>
    match classSize s (s.rx a) with
    | .error t => s.trapMe t
    | .ok r => .next (r.1.write d r.2)

/-- R286: a mark pushed. -/
def execGsnap (d : Reg) (s : State) : Out :=
  whenDrained (.gsnap d) s fun s => afterCommit (.gsnap d) s fun s =>
    if 4 ≤ s.me.marks.length then s.trapMe (cause 0x0C) else
    let v := s.me.uw.gseq
    .next ((s.setMe { s.me with marks := s.me.marks ++ [v.toNat] }).write d v)

/-- R287: the newest mark popped. -/
def Hart.popMark (h : Hart) : Hart := { h with marks := h.marks.dropLast }

/-- R287, R291: one link newer than the newest mark undone, or the mark popped; `gundo` stands until its mark is popped. -/
def execGundo (s : State) : Out :=
  whenDrained .gundo s fun s => afterCommit .gundo s fun s =>
    match s.me.marks.getLast? with
    | none => .next s.pass
    | some m =>
      let sp := spaceOf s s.cur
      match forestCheck s s.cur sp with
      | .error t => s.trapMe t
      | .ok _ =>
        if fld s.me.uw.gseq 30 0 ≤ m then .next (s.setMe s.me.popMark).pass else
        match undoLink s s.cur sp with
        | .error t => s.trapMe t
        | .ok t => .next t

def execGdrop (s : State) : Out :=
  whenDrained .gdrop s fun s => afterCommit .gdrop s fun s => .next (s.setMe s.me.popMark).pass

end Sys2Proof.Machine
end

