-- ==== Sys2Proof/Machine/Platen.lean ====
section
/-! DEFINITION. The platen of a core: banks, tiles, block fixed point and the matrix instructions as MATRIX_EXECUTE
performs them (R71 to R74, R220 to R237, R394). -/

namespace Sys2Proof.Machine

/-! ## Tiles (R12, R231, R301) -/

/-- The number of an element of a tile. -/
def tileKey (t r n : Nat) : Nat := (64 * t + r) * 256 + n

/-- An element of a tile as FP32 bits. -/
def Core.tile (c : Core) (t r n : Nat) : Nat := (kget 0 c.tiles (tileKey t r n)).toNat

/-- Elements of one row of a tile written, as (column, FP32 bits); an 8-byte word written whole loses its poison (R362). -/
def Core.putRow (c : Core) (t r : Nat) (l : List (Nat × Nat)) : Core :=
  let cols := l.map (·.1)
  { c with
    tiles := l.foldl (fun m p => kput m (tileKey t r p.1) (BitVec.ofNat 32 p.2)) c.tiles
    accPoison := clearKeys c.accPoison fun k =>
      k / 128 == 64 * t + r && cols.contains (2 * (k % 128)) && cols.contains (2 * (k % 128) + 1) }

/-- R231: tiles `t` to `t + n − 1` cleared. -/
def Core.zeroTiles (c : Core) (t n : Nat) : Core :=
  { c with
    tiles := c.tiles.filter fun p => p.1 < tileKey t 0 0 || tileKey (t + n) 0 0 ≤ p.1
    accPoison := clearKeys c.accPoison fun k => tileKey t 0 0 ≤ 2 * k && 2 * k < tileKey (t + n) 0 0 }

/-- R220: both banks and every tile read as zero. -/
def Core.clearMatrix (c : Core) : Core := { c.zeroTiles 0 12 with banks := Vector.replicate 2 {} }

/-- R362, R363: the kind of a poisoned word among columns of a tile's row. -/
def Core.rowPoison (c : Core) (t r : Nat) (cols : List Nat) : Option Nat :=
  cols.findSome? fun n => (c.accPoison.find? fun p => p.1 = tileKey t r n / 2).map (·.2)

/-- R363, R365: the trap of an error in the tiles or banks of a core. -/
def tileTrap (c kind : Nat) : TrapInfo := { cause := 0x09, err := some ⟨kind, 0, 2, c, 0xFFF, 0, 0⟩ }

/-! ## Block fixed point (R71, R72, R73) -/

/-- R71: the bit planes of a format of A. -/
def planes (f : Fmt) : Nat := if f = .e2m1 then 4 else if f.width = 8 then 8 else 16

/-- R71, R72: a value in units of 2^s, rounded with RNE; +2^(p−1) becomes 2^(p−1) − 1. -/
def quantize (p : Nat) (s : Int) : Exact → Int
  | .fin neg m e t =>
    let n := (roundMag .rne 0 neg m e t s).1
    if neg then -(n : Int) else if n = 2 ^ (p - 1) then 2 ^ (p - 1) - 1 else n
  | _ => 0

/-- R71: the exponent of a finite nonzero value. -/
def topBit : Exact → Option Int
  | .fin _ m e _ => if m = 0 then none else some (m.log2 + e)
  | _ => none

/-- R71, R72: a K-block as integers, its scale, and whether it holds a NaN or an infinity. -/
def quantBlock (isInt : Bool) (p : Nat) (l : List Exact) : List Int × Int × Bool :=
  if isInt then (l.map Exact.toInt, 0, false)
  else if l.any fun v => match v with
    | .fin .. => false
    | _ => true then (l.map fun _ => 0, 0, true)
  else match l.filterMap topBit with
    | [] => (l.map fun _ => 0, 0, false)
    | x :: r =>
      let s := r.foldl max x - p + 2
      (l.map (quantize p s), s, false)

/-- The K-blocks of a list of elements; `fuel` bounds their number. -/
def kBlocks {α : Type} : Nat → List α → List (List α)
  | 0, _ => []
  | n + 1, l => if l.isEmpty then [] else l.take 32 :: kBlocks n (l.drop 32)

/-- R226: element `n` of a packed row of `w`-bit elements. -/
def packedElem (w : Nat) (bs : List Byte) (n : Nat) : Nat :=
  if w = 4 then (bs.getD (n / 2) 0).toNat / 16 ^ (n % 2) % 16 else ofLE ((bs.drop (n * (w / 8))).take (w / 8))

/-- R73: the FP32 value of a block. -/
def blockResult (s : Int) (scale : Int) (bad : Bool) : Nat :=
  if bad then 0x7FC00000
  else (encodeFloat .fp32 .rne true 0 (.fin (s < 0) s.natAbs scale false)).bits

/-- R73: any full binary tree over the block results; which two are added next is open (log 9, DESIGN CHOICE). -/
def anyTree (pick : Nat → Nat) : Nat → List Nat → Nat
  | 0, l => l.headD 0
  | n + 1, l =>
    if l.length ≤ 1 then l.headD 0 else
    let a := pick n % l.length
    let r := l.eraseIdx a
    let b := pick n / l.length % r.length
    anyTree pick n (addFp32 (l.getD a 0) (r.getD b 0) :: r.eraseIdx b)

/-! ## Rows in the scratchpad (R226) -/

/-- R226, R46: the window and alignment checks of one row of `n` elements of `w` bits. -/
def rowCheck (s : State) (i : Nat) (e : QEntry) (va : W64) (n w : Nat) : Option TrapInfo :=
  let k := packedBytes w n
  if 16 ≤ w && va.toNat % (w / 8) != 0 then some (cause 0x02 va)
  else if e.space.priv == .fw || regionOf va.toNat != .window then some (cause 0x06 va)
  else match leavesRegion va k with
    | some v => some (cause 0x06 v)
    | none => if touchesBuffer (e.guarded (s.hart i)) (s.hart i) i va k then some (cause 0x06 va) else none

/-- R222, R226, R311: the bytes of a row in the window, share by share, with the hart's own held stores seen; an error is that of the
row. -/
def windowShares (s : State) (i : Nat) (row va : W64) (k : Nat) : Nat → Except TrapInfo (List Byte)
  | 0 => .ok []
  | fuel + 1 => if k = 0 then .ok [] else do
    let n := min k (2 ^ 20 - va.toNat % 2 ^ 20)
    let p : Place := ⟨.spad (coreOf i) (windowOffset (s.hart i) va.toNat), false⟩
    match loadPoison s i (vectorView i) p n with
    | some q => .error (poisonTrap row q)
    | none =>
      let r ← windowShares s i row (va + BitVec.ofNat 64 n) (k - n) fuel
      return (loadAt s i (vectorView i) p n).2 ++ r

def windowRow (s : State) (i : Nat) (va : W64) (k : Nat) : Except TrapInfo (List Byte) := windowShares s i va va k 5

def windowRows (s : State) (i : Nat) (k : Nat) : List W64 → Except TrapInfo (List (List Byte))
  | [] => .ok []
  | va :: r => do
    let b ← windowRow s i va k
    let l ← windowRows s i k r
    return b :: l

/-! ## Loading a bank (R226, R227) -/

/-- R72: a bank from its rows of stored bits. -/
def bankOf (f : Fmt) (cb : Nat → BitVec 16) (kk nn : Nat) (at' : Nat → Nat → Nat) : Bank :=
  let cols := List.range nn
  let blocks := (List.range ((kk + 31) / 32))
  let one := fun n b =>
    let len := min 32 (kk - 32 * b)
    quantBlock f.isInt 16 ((List.range len).map fun j => decodeNum f cb (at' (32 * b + j) n))
  let all := cols.flatMap fun n => blocks.map fun b => (n, b, one n b)
  { q := all.foldl (init := []) fun m x =>
      (x.2.2.1.zipIdx).foldl (fun m y => kput m (256 * (32 * x.2.1 + y.2) + x.1) (BitVec.ofInt 16 y.1)) m
    scale := all.foldl (fun m x => kput m (8 * x.1 + x.2.1) (BitVec.ofInt 9 x.2.2.2.1)) []
    bad := (all.filter fun x => x.2.2.2.2).map fun x => 8 * x.1 + x.2.1 }

/-- R225: the formats that `mldb` accepts, and those that `mmul` accepts. -/
def bankFormats : List Nat := [0, 1, 2, 3, 4, 5, 7, 8, 9]
def aFormats : List Nat := [1, 2, 3, 4, 5, 6, 7, 8, 9, 13]

/-- How an execution of a matrix instruction ends: the state, the next row, and a fault. -/
abbrev RowOut := GroupOut

/-- R226: a bank loaded from rows at the addresses given. -/
def loadBank (s : State) (i : Nat) (e : QEntry) (bank : BitVec 1) (rows : List W64) : Except TrapInfo State := do
  let f := fmtOf (fwB e.fw)
  match tablePoison (s.hart i) e with
  | some k => .error (regTrap i k)
  | none =>
  match rows.findSome? fun va => rowCheck s i e va e.sn f.width with
  | some t => .error t
  | none =>
    let bs ← windowRows s i (packedBytes f.width e.sn) rows
    let b := bankOf f (tableOf (s.hart i) e) e.sk e.sn fun k n => packedElem f.width (bs.getD k []) n
    let c := s.core (coreOf i)
    return s.setCore (coreOf i) { c with banks := c.banks.set bank.toNat b }

/-! ## Multiplying (R228) -/

/-- R228: the elements of row `i` of A as stored bits. -/
def rowOfA (s : State) (i : Nat) (e : QEntry) (asrc : Bool) (oa : Reg) (row : Nat) : Except TrapInfo (List Nat) := do
  let w := codeWidth (fwA e.fw)
  let h := s.hart i
  if asrc then
    let bs ← windowRow s i (e.o1 + BitVec.ofNat 64 row * e.o2) (packedBytes w e.sk)
    return (List.range e.sk).map fun k => packedElem w bs k
  else
    match (List.range e.sk).findSome? fun k => h.elemPoison oa.toNat w (row * e.sk + k) with
    | some k => .error (regTrap i k)
    | none => return (List.range e.sk).map fun k => h.elem oa.toNat w (row * e.sk + k)

/-- R73: the block results of a row of A against column `n` of a bank. -/
def blocksOf (b : Bank) (qa : List (List Int × Int × Bool)) (n : Nat) : List Nat :=
  qa.zipIdx.map fun x =>
    let sum := (x.1.1.zipIdx).foldl (init := (0 : Int)) fun acc y =>
      acc + y.1 * (kget 0 b.q (256 * (32 * x.2 + y.2) + n)).toInt
    blockResult sum (x.1.2.1 + (kget 0 b.scale (8 * n + x.2)).toInt) (x.1.2.2 || b.bad.contains (8 * n + x.2))

/-- R228: the new value of one accumulator element. -/
def accumulate (ord : Bool) (pick : Nat → Nat) (old : Nat) (l : List Nat) : Nat :=
  if ord then l.foldl addFp32 old else addFp32 old (anyTree pick l.length l)

/-- R228, R237: one row of `mmul`. -/
def mmulRow (i : Nat) (e : QEntry) (acc : BitVec 4) (bank : BitVec 1) (ord asrc : Bool) (oa : Reg) (s : State)
    (row : Nat) : ElemOut :=
  let c := s.core (coreOf i)
  let t := acc.toNat + row / 64
  let r := row % 64
  let cols := List.range e.sn
  if !(s.hart i).admits (vshape e.instr).m row then .ok s else
  let b := c.banks[bank.toNat]
  match c.rowPoison t r cols, cols.find? (fun n => b.parity.contains n), tablePoison (s.hart i) e with
  | some k, _, _ => .error (.trap (tileTrap (coreOf i) k))
  | none, some _, _ => .error (.trap (tileTrap (coreOf i) 4))
  | none, none, some k => .error (.trap (regTrap i k))
  | none, none, none =>
    match rowOfA s i e asrc oa row with
    | .error t => .error (.trap t)
    | .ok bits =>
      let f := fmtOf (fwA e.fw)
      let g := if f = .c4 then Fmt.bf16 else f
      let qa := (kBlocks 8 (bits.map fun x => decodeNum f (tableOf (s.hart i) e) x)).map
        (quantBlock g.isInt (planes f))
      .ok (s.setCore (coreOf i) (c.putRow t r (cols.map fun n =>
        (n, accumulate ord (fun k => Config.treePick s.ticks ((row * 256 + n) * 16 + k)) (c.tile t r n)
          (blocksOf b qa n)))))

/-! ## Reading, writing, storing and scaling tiles (R232 to R236) -/

/-- R363: an error in the masks or the codebook table that an instruction on one row of a tile reads. -/
def rowSources (h : Hart) (e : QEntry) : Option Nat :=
  ((List.range (min e.vl 256)).findSome? (maskPoison h e)).orElse fun _ => tablePoison h e

/-- R232: `mrd`. -/
def tileToVector (s : State) (i : Nat) (e : QEntry) (acc : BitVec 4) (d : Reg) (m : BitVec 3) : Except TrapInfo State :=
  let c := s.core (coreOf i)
  let row := e.o2.toNat
  let h := s.hart i
  let xs := (List.range (min e.vl 256)).filter fun x => h.admits m x
  let f := fmtOf (fwD e.fw)
  match rowSources h e, c.rowPoison acc.toNat row xs with
  | some k, _ => .error (regTrap i k)
  | none, some k => .error (tileTrap (coreOf i) k)
  | none, none => .ok (s.setHart i (xs.foldl (init := h) fun t x =>
      let r := encodeNum f (rnd e) (fwNan e.fw) true (draw h e (row * 256 + x)) (tableOf h e)
        (decodeFloat .fp32 (c.tile acc.toNat row x))
      account (t.putElem d.toNat f.width x r.bits) e x r))

/-- R233: `mwr`. Its draw takes the salt of the format word, which R63 puts into every draw and the table of R225 does not list for
`mwr` (log 84, DEDUCED). -/
def vectorToTile (s : State) (i : Nat) (e : QEntry) (acc : BitVec 4) (a : Reg) (m : BitVec 3) : Except TrapInfo State :=
  let c := s.core (coreOf i)
  let row := e.o2.toNat
  let h := s.hart i
  let xs := (List.range (min e.vl 256)).filter fun x => h.admits m x
  let f := fmtOf (fwA e.fw)
  match (rowSources h e).orElse fun _ => xs.findSome? fun x => h.elemPoison a.toNat f.width x with
  | some k => .error (regTrap i k)
  | none =>
    let rs := xs.map fun x => (x, encodeNum .fp32 (rnd e) (fwNan e.fw) false (draw h e (row * 256 + x)) (tableOf h e)
      (decodeNum f (tableOf h e) (h.elem a.toNat f.width x)))
    let s := s.setCore (coreOf i) (c.putRow acc.toNat row (rs.map fun p => (p.1, p.2.bits)))
    .ok (s.setHart i (rs.foldl (init := h) fun t p => account t e p.1 p.2))

/-- R234, R339: the translation of a row of `mst` at address `row`, line by line; a fault reports the row's lowest byte. -/
def rowPlaces (s : State) (i : Nat) (sp : Space) (row va : W64) (n : Nat) :
    Nat → Except TrapInfo (List (W64 × Place × Nat))
  | 0 => .ok []
  | fuel + 1 => if n = 0 then .ok [] else
    let k := lineStep va n
    match locate s i sp false .store va with
    | .error t => .error { t with val := row }
    | .ok p => do
      let r ← rowPlaces s i sp row (va + BitVec.ofNat 64 k) (n - k) fuel
      return (va, p, k) :: r

/-- R199, R234: where the bytes of a row of `mst` go, by checks 1 to 4 in their order. -/
def storeRowPlaces (s : State) (i : Nat) (e : QEntry) (va : W64) (n w : Nat) :
    Except TrapInfo (List (W64 × Place × Nat)) :=
  if 16 ≤ w && va.toNat % (w / 8) != 0 then .error (cause 0x02 va)
  else if touchesBuffer (e.guarded (s.hart i)) (s.hart i) i va n then .error (cause 0x06 va)
  else match leavesRegion va n with
    | some v => .error (cause 0x06 v)
    | none => do
      let ps ← rowPlaces s i e.space va va n (n / 64 + 2)
      if ps.any fun p => p.2.1.dev then .error (cause 0x06 va) else return ps

/-- R234: the bytes of a list of packed elements. -/
def packRow (w : Nat) (l : List Nat) : List Byte := packElems w l

/-- R234, R359: the pieces of a row at address `row` stored; one in a fabric window is a request, numbered from `x` on by the pieces
behind it. -/
def storePieces (g : Bool) (s : State) (i : Nat) (asked : KMap Nat) (x : Nat) (row : W64) :
    List (W64 × Place × Nat) → List Byte → ElemOut
  | [], _ => .ok s
  | (va, p, k) :: r, bs =>
    match p.loc, g with
    | .fabric _ node a, false => do
      let s ← stored s row (← exchange s asked (askStore s i (x + r.length) node a (bs.take k) row))
      storePieces g s i asked x row r (bs.drop k)
    | l, _ => storePieces g (storeAt g s i (vectorView i) p va (bs.take k) (storeScope l)) i asked x row r (bs.drop k)

/-- R234, R237: one row of `mst`. -/
def mstRow (i : Nat) (e : QEntry) (acc : BitVec 4) (s : State) (row : Nat) : ElemOut :=
  let c := s.core (coreOf i)
  let h := s.hart i
  let t := acc.toNat + row / 64
  let r := row % 64
  let cols := List.range e.sn
  if !h.admits (vshape e.instr).m row then .ok s else
  let f := fmtOf (fwD e.fw)
  let va := e.o1 + BitVec.ofNat 64 row * e.o2
  match storeRowPlaces s i e va (packedBytes f.width e.sn) f.width with
  | .error t => .error (.trap t)
  | .ok ps =>
    match c.rowPoison t r cols, tablePoison h e with
    | some k, _ => .error (.trap (tileTrap (coreOf i) k))
    | none, some k => .error (.trap (regTrap i k))
    | none, none =>
      let rs := cols.map fun n => encodeNum f (rnd e) (fwNan e.fw) true (draw h e (r * 256 + n)) (tableOf h e)
        (decodeFloat .fp32 (c.tile t r n))
      let h1 := h.addFlags (rs.foldl (fun a x => a ||| x.fl) 0)
      let h2 := if fwNan e.fw && rs.any (·.bad) then h1.addSticky (0x1000 ||| at64 t 1) else h1
      storePieces (e.guarded h) (s.setHart i h2) i e.asked (32 * row) va ps (packRow f.width (rs.map (·.bits)))

/-- R236: one row of `mscl`. -/
def msclRow (i : Nat) (e : QEntry) (acc : BitVec 4) (a : Reg) (s : State) (row : Nat) : ElemOut :=
  let c := s.core (coreOf i)
  let h := s.hart i
  let t := acc.toNat + row / 64
  let r := row % 64
  let cols := List.range e.sn
  if !h.admits (vshape e.instr).m row then .ok s else
  match c.rowPoison t r cols, h.elemPoison a.toNat 32 row with
  | some k, _ => .error (.trap (tileTrap (coreOf i) k))
  | none, some k => .error (.trap (regTrap i k))
  | none, none =>
    let f := decodeFloat .fp32 (h.elem a.toNat 32 row)
    .ok (s.setCore (coreOf i) (c.putRow t r (cols.map fun n =>
      (n, (encodeFloat .fp32 .rne true 0 (Exact.mul (decodeFloat .fp32 (c.tile t r n)) f)).bits))))

/-- R235: the signature of a tile. -/
def tileSig (c : Core) (t : Nat) : W64 :=
  crc64 ((List.range (64 * 256)).flatMap fun k => toLE 4 (c.tile t (k / 256) (k % 256)))

/-! ## MATRIX_EXECUTE (R221, R225, R394) -/

/-- R225: whether the format word of a matrix instruction traps. -/
def badMatrixFormat (e : QEntry) : Bool :=
  let f := e.fw
  let common := fwRsv f != 0 || fwRnd f == 7 || fwNb f != 0 || fwScale f != 0
  match e.instr with
  | .mldb .. | .mldbx .. => common || !bankFormats.contains (fwB f)
  | .mmulO .. | .mmulF .. => common || !aFormats.contains (fwA f)
  | .mrd .. | .mst .. => common || fwD f == 15
  | .mwr .. => common || fwA f == 15
  | _ => false

/-- R224: the shape that an instruction depends on has a dimension of zero. -/
def emptyShape (e : QEntry) : Bool :=
  match e.instr with
  | .mldb .. | .mldbx .. => e.sk == 0 || e.sn == 0
  | .mmulO .. | .mmulF .. => e.sm == 0 || e.sn == 0 || e.sk == 0
  | .mst .. | .mscl .. => e.sm == 0 || e.sn == 0
  | _ => false

/-- R228: the tiles from `acc` do not hold M rows. -/
def badTiles (e : QEntry) (acc : BitVec 4) : Bool := decide (11 < acc.toNat + (e.sm + 63) / 64 - 1)

/-- R227, R228, R232, R234: the checks on shape, rows and columns. -/
def badShape (h : Hart) (e : QEntry) : Bool :=
  match e.instr with
  | .mldbx .. => decide (e.vl < e.sk)
  | .mmulO acc _ _ asrc .. | .mmulF acc _ _ asrc .. =>
    badTiles e acc || (!asrc && decide (e.gval * 256 * h.leff / e.ewval < e.sm * e.sk))
  | .mrd .. | .mwr .. => decide (63 < e.o2.toNat)
  | .mst acc .. => badTiles e acc || (codeWidth (fwD e.fw) == 4 && e.sn % 2 == 1)
  | .mscl acc .. => badTiles e acc
  | _ => false

/-- R228: the window and alignment checks of every row of A in the scratchpad. -/
def badRows (s : State) (i : Nat) (e : QEntry) : Option TrapInfo :=
  match e.instr with
  | .mmulO _ _ _ true .. | .mmulF _ _ _ true .. =>
    (List.range e.sm).findSome? fun row =>
      rowCheck s i e (e.o1 + BitVec.ofNat 64 row * e.o2) e.sk (codeWidth (fwA e.fw))
  | _ => none

/-- Rows `lo` to `hi − 1` handled by `f`. -/
def rowsOf (i : Nat) (e : QEntry) (f : State → Nat → ElemOut) (s : State) (lo hi : Nat) : RowOut := groupOf i e f s lo hi

/-- R237: the rows of a matrix instruction that commits by rows; 0 for one that completes all or nothing. -/
def QEntry.rows (e : QEntry) : Nat :=
  match e.instr with
  | .mmulO .. | .mmulF .. | .mst .. => e.sm
  | .mscl .. => min e.sm e.vl
  | _ => 0

/-- R237: the row before which a step stops: `input.word` rows on, or behind the last one where that is 0. -/
def QEntry.rowStop (e : QEntry) (s : State) : Nat :=
  if s.input.word = 0 then e.rows else min e.rows (e.k + s.input.word.toNat)

/-- A matrix instruction that completes all or nothing (R237). -/
def wholeMatrix (s : State) (r : Except TrapInfo State) : RowOut :=
  match r with
  | .ok t => .ok (t, 0, none)
  | .error t => .ok (s, 0, some t)

/-- What a checked matrix instruction does. -/
def runMatrix (s : State) (i : Nat) (e : QEntry) : RowOut :=
  let c := s.core (coreOf i)
  let h := s.hart i
  match e.instr with
  | .mldb bank _ _ _ => wholeMatrix s (loadBank s i e bank ((List.range e.sk).map fun k => e.o1 + BitVec.ofNat 64 k * e.o2))
  | .mldbx bank _ _ b _ =>
    match (List.range e.sk).findSome? fun k => h.elemPoison b.toNat e.ewval k with
    | some k => .ok (s, 0, some (regTrap i k))
    | none => wholeMatrix s (loadBank s i e bank ((List.range e.sk).map fun k =>
        gatheredRow h e b k))
  | .mmulO acc bank _ asrc oa _ _ => rowsOf i e (mmulRow i e acc bank true asrc oa) s e.k (e.rowStop s)
  | .mmulF acc bank _ asrc oa _ _ => rowsOf i e (mmulRow i e acc bank false asrc oa) s e.k (e.rowStop s)
  | .mzero acc cnt => .ok (s.setCore (coreOf i) (c.zeroTiles acc.toNat (cnt.toNat + 1)), 0, none)
  | .mrd acc _ d _ m => wholeMatrix s (tileToVector s i e acc d m)
  | .mwr acc _ a _ m => wholeMatrix s (vectorToTile s i e acc a m)
  | .mst acc .. => rowsOf i e (mstRow i e acc) s e.k (e.rowStop s)
  | .msig acc d =>
    match (List.range 64).findSome? fun r => c.rowPoison acc.toNat r (List.range 256) with
    | some k => .ok (s, 0, some (tileTrap (coreOf i) k))
    | none => .ok (s.setHart i (h.setX d (tileSig c acc.toNat)), 0, none)
  | .mscl acc a _ => rowsOf i e (msclRow i e acc a) s e.k (e.rowStop s)
  | _ => .ok (s, 0, none)

/-- R225, R363, R394, R226 to R234: the dispatch checks of a matrix instruction, then its effect. -/
def tryMatrix (s : State) (i : Nat) (e : QEntry) : RowOut :=
  match e.error i (s.hart i) with
  | some t => .ok (s, e.k, some t)
  | none =>
  if badMatrixFormat e then .ok (s, e.k, some (cause 0x14 e.fw))
  else if (e.reads ++ e.writes).any e.badGroup then .ok (s, e.k, some (cause 0x00 (first32 e.instr)))
  else if emptyShape e then .ok (s, 0, none)
  else if badShape (s.hart i) e then .ok (s, e.k, some (cause 0x00 (first32 e.instr)))
  else match badRows s i e with
    | some t => .ok (s, e.k, some t)
    | none => runMatrix s i e

/-- R357: the requests of the oldest matrix instruction. -/
def Hart.matrixAsked (h : Hart) : KMap Nat := (h.mq.head?.map QEntry.asked).getD []

/-- R221, R222, R237: the oldest matrix instruction of a hart executes, or its next rows do. -/
def matrixNext (s : State) (i : Nat) : State :=
  let h := s.hart i
  match h.mq with
  | [] => s
  | e :: rest =>
    if !unitsMove s i || e.fault.isSome || (h.vq.any fun q => q.seq < e.seq && crossWaits h e q) then s else
    let e := if e.dispatched then e else e.start s i
    match tryMatrix s i e with
    | .error p => p.send s i fun t x id => t.setHart i { t.hart i with mq := { e with asked := kput e.asked x id } :: rest }
    | .ok (t, row, none) =>
      let e := { e with asked := [] }
      (forget t h.matrixAsked).setHart i { (t.hart i).unmarkMasks { e with k := 0 } (min e.vl 256) with
        mq := if row < e.rows && !emptyShape e then { e with k := row } :: rest else rest }
    | .ok (t, row, some f) =>
      (forget t h.matrixAsked).setHart i
        { t.hart i with mq := { e with k := row, fault := some (QEntry.faultAt f row), asked := [] } :: rest }

end Sys2Proof.Machine
end

