-- ==== Sys2Proof/Machine/Matrix.lean ====
section
/-! DEFINITION. The matrix instructions as the front end executes them (R220, R221, R224), and MATRIX_EXECUTE. -/

namespace Sys2Proof.Machine

/-- R224: a request's dimension, at most 256. -/
def grantDim (w : W64) (hi lo : Nat) : Nat := min (fld w hi lo) 256

/-- R220: a core whose matrix unit a hart claims. -/
def Core.claim (c : Core) (i : Nat) : Core :=
  let c := if c.lastOwner = some i then c else c.clearMatrix
  { c with owner := some i, lastOwner := some i }

/-- R224: the words that `mshape` writes. -/
def shapeWritten (s : State) (d : Reg) (g : W64) (own : Bool) : State :=
  let h := s.me.setX d g
  s.setMe ({ h with uw := { h.uw with mshape := g ||| bitAt 63 own, tl := at64 0 (fld g 15 0) } }.advance 8)

/-- R224: `mshape`. -/
def execMshape (d a : Reg) (s : State) : Out :=
  let w := s.rx a
  let c := s.core (coreOf s.cur)
  if s.me.imageHeld then s.illegal (.mshape d a)
  else if fld w 47 0 = 0 then
    if c.owner = some s.cur then
      if s.me.mq.isEmpty then .next (shapeWritten (s.setCore (coreOf s.cur) { c with owner := none }) d 0 false)
      else .next s
    else .next (shapeWritten s d 0 false)
  else if c.owner.isSome && c.owner != some s.cur then .next (shapeWritten s d 0 false)
  else
    let s := if c.owner.isSome then s else s.setCore (coreOf s.cur) (c.claim s.cur)
    .next (shapeWritten s d (at64 0 (grantDim w 15 0) ||| at64 16 (grantDim w 31 16) ||| at64 32 (grantDim w 47 32)) true)

def execMldb (bank : BitVec 1) (fw a b : Reg) (s : State) : Out := queueInstr (.mldb bank fw a b) s
def execMldbx (bank : BitVec 1) (fw a b c : Reg) (s : State) : Out := queueInstr (.mldbx bank fw a b c) s
def execMmulO (acc : BitVec 4) (bank : BitVec 1) (fw : Reg) (asrc : Bool) (oa ob : Reg) (m : BitVec 3) (s : State) : Out :=
  queueInstr (.mmulO acc bank fw asrc oa ob m) s
def execMmulF (acc : BitVec 4) (bank : BitVec 1) (fw : Reg) (asrc : Bool) (oa ob : Reg) (m : BitVec 3) (s : State) : Out :=
  queueInstr (.mmulF acc bank fw asrc oa ob m) s
def execMzero (acc cnt : BitVec 4) (s : State) : Out := queueInstr (.mzero acc cnt) s
def execMrd (acc : BitVec 4) (fw oa ob : Reg) (m : BitVec 3) (s : State) : Out := queueInstr (.mrd acc fw oa ob m) s
def execMwr (acc : BitVec 4) (fw oa ob : Reg) (m : BitVec 3) (s : State) : Out := queueInstr (.mwr acc fw oa ob m) s
/-- R48, R222: in a guarded strip the rows are held. -/
def execMst (acc : BitVec 4) (fw oa ob : Reg) (m : BitVec 3) (s : State) : Out :=
  queueStore (.mst acc fw oa ob m) s
def execMsig (acc : BitVec 4) (d : Reg) (s : State) : Out := queueInstr (.msig acc d) s
def execMscl (acc : BitVec 4) (oa : Reg) (m : BitVec 3) (s : State) : Out := queueInstr (.mscl acc oa m) s

/-- MATRIX_EXECUTE. -/
def execMatrixExecute (s : State) : Out := .next (matrixNext s s.input.hart)

end Sys2Proof.Machine
end

