-- ==== Sys2Proof/Machine/ScalarFloat.lean ====
section
/-! DEFINITION. The FPU major: scalar floating-point instructions on x registers (R152, R153). -/

namespace Sys2Proof.Machine

/-- R152: the format of a precision code. -/
def fpFmt (p : BitVec 2) : Fmt := if p = 0 then .fp32 else .fp64
/-- R152: the other precision. -/
def fpOther (p : BitVec 2) : Fmt := if p = 0 then .fp64 else .fp32
/-- R152: the rounding mode of a code. -/
def fpRnd (r : BitVec 3) : Rnd := Rnd.ofCode r.toNat

/-- R152: a floating-point operand of the moving hart; the bits above the format are ignored. -/
def State.fp (s : State) (f : Fmt) (r : Reg) : Exact := decodeFloat f ((s.rx r).toNat % 2 ^ f.width)

/-- R66, R152: the moving hart with flags added, x[d] written and the pc moved on. -/
def State.fpWrite (s : State) (d : Reg) (v : W64) (fl : Nat) : State :=
  s.setMe (((s.me.addFlags fl).setX d v).advance 4)

/-- R61, R64, R152: an exact result with the flags of its operation, rounded into a precision. -/
def fpResult (s : State) (r : BitVec 3) (f : Fmt) (d : Reg) (x : Exact × Nat) : Out :=
  let y := encodeFloat f (fpRnd r) true 0 x.1
  .next (s.fpWrite d (BitVec.ofNat 64 y.bits) (y.fl ||| x.2))

/-- R55: a sum with its NV flag. -/
def fpSum (r : BitVec 3) (a b : Exact) : Exact × Nat :=
  (Exact.add (r == 2) a b, if addInvalid a b then 16 else 0)

def execFadd (r : BitVec 3) (p : BitVec 2) (d a b : Reg) (s : State) : Out :=
  fpResult s r (fpFmt p) d (fpSum r (s.fp (fpFmt p) a) (s.fp (fpFmt p) b))
def execFsub (r : BitVec 3) (p : BitVec 2) (d a b : Reg) (s : State) : Out :=
  fpResult s r (fpFmt p) d (fpSum r (s.fp (fpFmt p) a) (s.fp (fpFmt p) b).negate)
def execFmul (r : BitVec 3) (p : BitVec 2) (d a b : Reg) (s : State) : Out :=
  let x := s.fp (fpFmt p) a
  let y := s.fp (fpFmt p) b
  fpResult s r (fpFmt p) d (Exact.mul x y, if mulInvalid x y then 16 else 0)
def execFdiv (r : BitVec 3) (p : BitVec 2) (d a b : Reg) (s : State) : Out :=
  fpResult s r (fpFmt p) d (Exact.div (s.fp (fpFmt p) a) (s.fp (fpFmt p) b))
def execFsqrt (r : BitVec 3) (p : BitVec 2) (d a : Reg) (s : State) : Out :=
  fpResult s r (fpFmt p) d (Exact.sqrt (s.fp (fpFmt p) a))
def execFmac (r : BitVec 3) (p : BitVec 2) (d a b : Reg) (s : State) : Out :=
  fpResult s r (fpFmt p) d (fused (r == 2) (s.fp (fpFmt p) a) (s.fp (fpFmt p) b) (s.fp (fpFmt p) d))
def execFmin (_r : BitVec 3) (p : BitVec 2) (d a b : Reg) (s : State) : Out :=
  fpResult s 0 (fpFmt p) d (Exact.minimum (s.fp (fpFmt p) a) (s.fp (fpFmt p) b), 0)
def execFmax (_r : BitVec 3) (p : BitVec 2) (d a b : Reg) (s : State) : Out :=
  fpResult s 0 (fpFmt p) d (Exact.maximum (s.fp (fpFmt p) a) (s.fp (fpFmt p) b), 0)

/-- R152: a comparison; `flt` and `fle` raise NV on a NaN. -/
def fpCompare (s : State) (p : BitVec 2) (d a b : Reg) (signal : Bool) (f : Exact → Exact → Bool) : Out :=
  let x := s.fp (fpFmt p) a
  let y := s.fp (fpFmt p) b
  .next (s.fpWrite d (bit64 (f x y)) (if signal && (x.isNaN || y.isNaN) then 16 else 0))

def execFeq (_r : BitVec 3) (p : BitVec 2) (d a b : Reg) (s : State) : Out := fpCompare s p d a b false Exact.eqv
def execFlt (_r : BitVec 3) (p : BitVec 2) (d a b : Reg) (s : State) : Out := fpCompare s p d a b true Exact.lt
def execFle (_r : BitVec 3) (p : BitVec 2) (d a b : Reg) (s : State) : Out := fpCompare s p d a b true Exact.le

/-- R153: the class mask. -/
def execFcls (_r : BitVec 3) (p : BitVec 2) (d a : Reg) (s : State) : Out :=
  .next (s.write d (BitVec.ofNat 64 (classMask (fpFmt p) (s.fp (fpFmt p) a))))
/-- R153: conversion to s64. -/
def execFcvti (r : BitVec 3) (p : BitVec 2) (d a : Reg) (s : State) : Out :=
  let y := encodeInt .s64 (fpRnd r) true 0 (s.fp (fpFmt p) a)
  .next (s.fpWrite d (BitVec.ofNat 64 y.bits) y.fl)
def execFcvtf (r : BitVec 3) (p : BitVec 2) (d a : Reg) (s : State) : Out :=
  fpResult s r (fpFmt p) d (.ofInt (s.rx a).toInt, 0)
def execFcvtp (r : BitVec 3) (p : BitVec 2) (d a : Reg) (s : State) : Out :=
  fpResult s r (fpFmt p) d (s.fp (fpOther p) a, 0)
/-- R152: the magnitude of a with the sign of b. -/
def execFsgnj (_r : BitVec 3) (p : BitVec 2) (d a b : Reg) (s : State) : Out :=
  let f := fpFmt p
  let x := (s.rx a).toNat % 2 ^ (f.width - 1)
  let neg := (s.rx b).getLsbD (f.width - 1)
  .next (s.write d (BitVec.ofNat 64 (if (s.fp f a).isNaN then f.nanCode else signCode f neg x)))

end Sys2Proof.Machine
end

