-- ==== Sys2Proof/Machine/Training.lean ====
section
/-! DEFINITION. The loss-scale instructions (R193 to R195). -/

namespace Sys2Proof.Machine

/-- R194: a positive and finite FP32 scale. -/
def scaleFinite (n : Nat) : Bool := decide (0 < n) && decide (n < 0x7F800000)

/-- R194: half a positive finite scale, RNE, at least 2^−149. -/
def halveScale (n : Nat) : Nat :=
  if 0x01000000 ≤ n then n - 0x00800000
  else max 1 (n / 2 + (if n % 2 = 1 && n / 2 % 2 = 1 then 1 else 0))

/-- R194: twice a positive finite scale, at most 2^127. -/
def doubleScale (n : Nat) : Nat := min 0x7F000000 (if n < 0x00800000 then 2 * n else n + 0x00800000)

/-- R194: the loss-scale words after `lsupd` with an indicator. -/
def updateScale (w : UserWords) (bad : Bool) : UserWords :=
  let s := fld w.lscale 31 0
  if bad then
    { w with lscale := BitVec.ofNat 64 (if scaleFinite s then halveScale s else s), lgrow := 0, lsticky := 0 }
  else
    let g := min (fld w.lgrow 31 0 + 1) 0xFFFFFFFF
    if w.lint ≠ 0 && g = fld w.lint 31 0 then
      { w with lscale := BitVec.ofNat 64 (if scaleFinite s then doubleScale s else s), lgrow := 0 }
    else { w with lgrow := BitVec.ofNat 64 g }

def execLsupd (d a : Reg) (s : State) : Out :=
  whenDrained (.lsupd d a) s fun s =>
    let bad := s.rx a != 0
    .next ((s.setMe { s.me with uw := updateScale s.me.uw bad }).write d (bit64 bad))

def execLsacc (a : Reg) (s : State) : Out :=
  whenDrained (.lsacc a) s fun s =>
    let w := s.me.uw
    .next (s.setMe { s.me with uw := if s.rx a = 0 then w else { w with lsticky := w.lsticky ||| bitAt 12 true } }).pass

end Sys2Proof.Machine
end

