-- ==== Sys2Proof/Machine/VectorAccess.lean ====
section
/-! DEFINITION. The vector instructions of majors 0x28 to 0x2B, `cbload` and `scommit` as the front end executes them
(R196 to R216): each but `scommit` is queued with its captured operands; a store that would overfill the strip store buffer
and a vector atomic commit the strip first (R48). -/

namespace Sys2Proof.Machine

/-! ## Major 0x28: vector loads (R197 to R210) -/

def execVld (e : BitVec 2) (q : Bool) (m : BitVec 3) (d a : Reg) (s : State) : Out := queueInstr (.vld e q m d a) s
def execVlds (e : BitVec 2) (q : Bool) (m : BitVec 3) (d a b : Reg) (s : State) : Out :=
  queueInstr (.vlds e q m d a b) s
def execVldx (e : BitVec 2) (q : Bool) (m : BitVec 3) (d a b : Reg) (s : State) : Out :=
  queueInstr (.vldx e q m d a b) s
def execVldxO (e : BitVec 2) (q : Bool) (m : BitVec 3) (d a b : Reg) (s : State) : Out :=
  queueInstr (.vldxO e q m d a b) s
def execVldFf (e : BitVec 2) (m : BitVec 3) (d a : Reg) (s : State) : Out := queueInstr (.vldFf e m d a) s

/-! ## Major 0x29: vector stores (R197 to R204, R212) -/

def execVst (e : BitVec 2) (m : BitVec 3) (d a : Reg) (s : State) : Out :=
  queueStore (.vst e m d a) s
def execVsts (e : BitVec 2) (m : BitVec 3) (d a b : Reg) (s : State) : Out :=
  queueStore (.vsts e m d a b) s
def execVstx (e : BitVec 2) (m : BitVec 3) (d a b : Reg) (s : State) : Out :=
  queueStore (.vstx e m d a b) s
def execVstxO (e : BitVec 2) (m : BitVec 3) (d a b : Reg) (s : State) : Out :=
  queueStore (.vstxO e m d a b) s
def execVstN (e : BitVec 2) (m : BitVec 3) (d a : Reg) (s : State) : Out :=
  queueStore (.vstN e m d a) s

/-! ## Major 0x2A: vector atomics (R213, R214) -/

def execVamoadd (e : BitVec 2) (m : BitVec 3) (d a b : Reg) (s : State) : Out :=
  afterCommit (.vamoadd e m d a b) s (queueInstr (.vamoadd e m d a b))
def execVamomin (e : BitVec 2) (m : BitVec 3) (d a b : Reg) (s : State) : Out :=
  afterCommit (.vamomin e m d a b) s (queueInstr (.vamomin e m d a b))
def execVamomax (e : BitVec 2) (m : BitVec 3) (d a b : Reg) (s : State) : Out :=
  afterCommit (.vamomax e m d a b) s (queueInstr (.vamomax e m d a b))
def execVamoor (e : BitVec 2) (m : BitVec 3) (d a b : Reg) (s : State) : Out :=
  afterCommit (.vamoor e m d a b) s (queueInstr (.vamoor e m d a b))
def execVamoand (e : BitVec 2) (m : BitVec 3) (d a b : Reg) (s : State) : Out :=
  afterCommit (.vamoand e m d a b) s (queueInstr (.vamoand e m d a b))
def execVamoxor (e : BitVec 2) (m : BitVec 3) (d a b : Reg) (s : State) : Out :=
  afterCommit (.vamoxor e m d a b) s (queueInstr (.vamoxor e m d a b))

/-! ## Major 0x2B: element moves (R215) -/

def execVmvx (d a b : Reg) (s : State) : Out := queueInstr (.vmvx d a b) s
def execVmvv (d a b : Reg) (s : State) : Out := queueInstr (.vmvv d a b) s

/-! ## Codebooks (R196) -/

def execCbload (t : BitVec 4) (a : Reg) (s : State) : Out := queueInstr (.cbload t a) s

/-! ## Strips (R216) -/

/-- R216: with guarded strips in force the strip commits, with the instruction behind `scommit` as the restart point; it
completes when the commit's remote stores are acknowledged (R102). -/
def execScommit (s : State) : Out :=
  if s.me.imageHeld then s.illegal .scommit
  else if !s.me.guarded then .next s.pass else
  whenDrained .scommit s fun s =>
    match bufferError s s.cur with
    | some t => (performSome s s.cur).trapMe t
    | none =>
      let (t, done) := commitStrip s s.cur (s.me.pc + 4) false
      if !done || storesOut t s.cur then .next t else .next t.pass

end Sys2Proof.Machine
end

