-- ==== Sys2Proof/Machine/VectorCompute.lean ====
section
/-! DEFINITION. The vector instructions of majors 0x21 to 0x27 as the front end executes them: each is queued with its
captured operands (R25); VECTOR_DISPATCH checks it and GROUP_COMMIT makes its results (`elementOp`, `wholeOp`). -/

namespace Sys2Proof.Machine

/-! ## Major 0x21: floating-point arithmetic (R179) -/

def execVfadd (m fw : BitVec 3) (d a b : Reg) (s : State) : Out := queueInstr (.vfadd m fw d a b) s
def execVfsub (m fw : BitVec 3) (d a b : Reg) (s : State) : Out := queueInstr (.vfsub m fw d a b) s
def execVfmul (m fw : BitVec 3) (d a b : Reg) (s : State) : Out := queueInstr (.vfmul m fw d a b) s
def execVfma (m fw : BitVec 3) (d a b : Reg) (s : State) : Out := queueInstr (.vfma m fw d a b) s
def execVfnma (m fw : BitVec 3) (d a b : Reg) (s : State) : Out := queueInstr (.vfnma m fw d a b) s
def execVfmin (m fw : BitVec 3) (d a b : Reg) (s : State) : Out := queueInstr (.vfmin m fw d a b) s
def execVfmax (m fw : BitVec 3) (d a b : Reg) (s : State) : Out := queueInstr (.vfmax m fw d a b) s
def execVfdiv (m fw : BitVec 3) (d a b : Reg) (s : State) : Out := queueInstr (.vfdiv m fw d a b) s
def execVfsqrt (m fw : BitVec 3) (d a : Reg) (s : State) : Out := queueInstr (.vfsqrt m fw d a) s
def execVfrsq (m fw : BitVec 3) (d a : Reg) (s : State) : Out := queueInstr (.vfrsq m fw d a) s
def execVfuq (m fw : BitVec 3) (d a b : Reg) (s : State) : Out := queueInstr (.vfuq m fw d a b) s
def execVfabs (m fw : BitVec 3) (d a : Reg) (s : State) : Out := queueInstr (.vfabs m fw d a) s
def execVfneg (m fw : BitVec 3) (d a : Reg) (s : State) : Out := queueInstr (.vfneg m fw d a) s
def execVfsgn (m fw : BitVec 3) (d a b : Reg) (s : State) : Out := queueInstr (.vfsgn m fw d a b) s
def execVfscale (m fw : BitVec 3) (d a b : Reg) (s : State) : Out := queueInstr (.vfscale m fw d a b) s

/-! ## Major 0x22: compare, convert, signature and random (R182 to R184) -/

def execVfeq (m fw : BitVec 3) (d : BitVec 3) (a b : Reg) (s : State) : Out := queueInstr (.vfeq m fw d a b) s
def execVflt (m fw : BitVec 3) (d : BitVec 3) (a b : Reg) (s : State) : Out := queueInstr (.vflt m fw d a b) s
def execVfle (m fw : BitVec 3) (d : BitVec 3) (a b : Reg) (s : State) : Out := queueInstr (.vfle m fw d a b) s
def execVfcls (m fw : BitVec 3) (d a : Reg) (s : State) : Out := queueInstr (.vfcls m fw d a) s
def execVfcvt (m fw : BitVec 3) (d a : Reg) (s : State) : Out := queueInstr (.vfcvt m fw d a) s
def execVfcvti (m fw : BitVec 3) (d a : Reg) (s : State) : Out := queueInstr (.vfcvti m fw d a) s
def execVficvt (m fw : BitVec 3) (d a : Reg) (s : State) : Out := queueInstr (.vficvt m fw d a) s
def execVsig (m fw : BitVec 3) (d a : Reg) (s : State) : Out := queueInstr (.vsig m fw d a) s
def execVrand (m fw : BitVec 3) (d : Reg) (s : State) : Out := queueInstr (.vrand m fw d) s

/-! ## Major 0x23: integer arithmetic (R185) -/

def execVadd (m fw : BitVec 3) (d a b : Reg) (s : State) : Out := queueInstr (.vadd m fw d a b) s
def execVsub (m fw : BitVec 3) (d a b : Reg) (s : State) : Out := queueInstr (.vsub m fw d a b) s
def execVmul (m fw : BitVec 3) (d a b : Reg) (s : State) : Out := queueInstr (.vmul m fw d a b) s
def execVmulh (m fw : BitVec 3) (d a b : Reg) (s : State) : Out := queueInstr (.vmulh m fw d a b) s
def execVmin (m fw : BitVec 3) (d a b : Reg) (s : State) : Out := queueInstr (.vmin m fw d a b) s
def execVmax (m fw : BitVec 3) (d a b : Reg) (s : State) : Out := queueInstr (.vmax m fw d a b) s
def execVand (m fw : BitVec 3) (d a b : Reg) (s : State) : Out := queueInstr (.vand m fw d a b) s
def execVor (m fw : BitVec 3) (d a b : Reg) (s : State) : Out := queueInstr (.vor m fw d a b) s
def execVxor (m fw : BitVec 3) (d a b : Reg) (s : State) : Out := queueInstr (.vxor m fw d a b) s
def execVsll (m fw : BitVec 3) (d a b : Reg) (s : State) : Out := queueInstr (.vsll m fw d a b) s
def execVsrl (m fw : BitVec 3) (d a b : Reg) (s : State) : Out := queueInstr (.vsrl m fw d a b) s
def execVsra (m fw : BitVec 3) (d a b : Reg) (s : State) : Out := queueInstr (.vsra m fw d a b) s
def execVadds (m fw : BitVec 3) (d a b : Reg) (s : State) : Out := queueInstr (.vadds m fw d a b) s
def execVsubs (m fw : BitVec 3) (d a b : Reg) (s : State) : Out := queueInstr (.vsubs m fw d a b) s
def execVabsd (m fw : BitVec 3) (d a b : Reg) (s : State) : Out := queueInstr (.vabsd m fw d a b) s

/-! ## Major 0x24: select, move and broadcast (R186) -/

def execVseq (m fw : BitVec 3) (d : BitVec 3) (a b : Reg) (s : State) : Out := queueInstr (.vseq m fw d a b) s
def execVsne (m fw : BitVec 3) (d : BitVec 3) (a b : Reg) (s : State) : Out := queueInstr (.vsne m fw d a b) s
def execVslt (m fw : BitVec 3) (d : BitVec 3) (a b : Reg) (s : State) : Out := queueInstr (.vslt m fw d a b) s
def execVsltu (m fw : BitVec 3) (d : BitVec 3) (a b : Reg) (s : State) : Out := queueInstr (.vsltu m fw d a b) s
def execVsel (m fw : BitVec 3) (d a b : Reg) (s : State) : Out := queueInstr (.vsel m fw d a b) s
def execVmv (m fw : BitVec 3) (d a : Reg) (s : State) : Out := queueInstr (.vmv m fw d a) s
def execVbcast (m fw : BitVec 3) (d a : Reg) (s : State) : Out := queueInstr (.vbcast m fw d a) s
def execVidx (m fw : BitVec 3) (d : Reg) (s : State) : Out := queueInstr (.vidx m fw d) s

/-! ## Major 0x25: widening and dot products (R187, R188) -/

def execVwma (m fw : BitVec 3) (d a b : Reg) (s : State) : Out := queueInstr (.vwma m fw d a b) s
def execVwmul (m fw : BitVec 3) (d a b : Reg) (s : State) : Out := queueInstr (.vwmul m fw d a b) s
def execVwadd (m fw : BitVec 3) (d a b : Reg) (s : State) : Out := queueInstr (.vwadd m fw d a b) s
def execVdot4 (m fw : BitVec 3) (d a b : Reg) (s : State) : Out := queueInstr (.vdot4 m fw d a b) s

/-! ## Major 0x26: cross-lane instructions (R189 to R191) -/

def execVred (m fw : BitVec 3) (o : BitVec 2) (d a : Reg) (s : State) : Out := queueInstr (.vred m fw o d a) s
def execVperm (m fw : BitVec 3) (d a b : Reg) (s : State) : Out := queueInstr (.vperm m fw d a b) s
def execVslup (m fw : BitVec 3) (d a b : Reg) (s : State) : Out := queueInstr (.vslup m fw d a b) s
def execVsldn (m fw : BitVec 3) (d a b : Reg) (s : State) : Out := queueInstr (.vsldn m fw d a b) s
def execVcompress (m fw : BitVec 3) (d a : Reg) (s : State) : Out := queueInstr (.vcompress m fw d a) s
def execVexpand (m fw : BitVec 3) (d a : Reg) (s : State) : Out := queueInstr (.vexpand m fw d a) s
def execVxpose8 (m fw : BitVec 3) (d : Reg) (s : State) : Out := queueInstr (.vxpose8 m fw d) s
def execVscan (m fw : BitVec 3) (o : BitVec 2) (d a : Reg) (s : State) : Out := queueInstr (.vscan m fw o d a) s

/-! ## Major 0x27: mask instructions (R192) -/

def execMand (d a b : BitVec 3) (s : State) : Out := queueInstr (.mand d a b) s
def execMor (d a b : BitVec 3) (s : State) : Out := queueInstr (.mor d a b) s
def execMxor (d a b : BitVec 3) (s : State) : Out := queueInstr (.mxor d a b) s
def execMnot (d a : BitVec 3) (s : State) : Out := queueInstr (.mnot d a) s
def execMpop (m : BitVec 3) (d : Reg) (a : BitVec 3) (s : State) : Out := queueInstr (.mpop m d a) s
def execMffs (m : BitVec 3) (d : Reg) (a : BitVec 3) (s : State) : Out := queueInstr (.mffs m d a) s
def execMfromvl (d : BitVec 3) (s : State) : Out := queueInstr (.mfromvl d) s
def execMmvx (d : Reg) (a : BitVec 3) (b : Reg) (s : State) : Out := queueInstr (.mmvx d a b) s

end Sys2Proof.Machine
end

