-- ==== Sys2Proof/Machine/Dispatch.lean ====
section
/-! DEFINITION. The one match over the constructors of Instr: every instruction and every event of the opcode table has
one arm, which calls its meaning. -/

namespace Sys2Proof.Machine

def exec (i : Instr) (s : State) : Host.Outcome State Fault Refusal :=
  match i with
  | .add d a b => Sys2Proof.Machine.execAdd d a b s
  | .sub d a b => Sys2Proof.Machine.execSub d a b s
  | .and d a b => Sys2Proof.Machine.execAnd d a b s
  | .or d a b => Sys2Proof.Machine.execOr d a b s
  | .xor d a b => Sys2Proof.Machine.execXor d a b s
  | .andn d a b => Sys2Proof.Machine.execAndn d a b s
  | .sll d a b => Sys2Proof.Machine.execSll d a b s
  | .srl d a b => Sys2Proof.Machine.execSrl d a b s
  | .sra d a b => Sys2Proof.Machine.execSra d a b s
  | .slt d a b => Sys2Proof.Machine.execSlt d a b s
  | .sltu d a b => Sys2Proof.Machine.execSltu d a b s
  | .min d a b => Sys2Proof.Machine.execMin d a b s
  | .max d a b => Sys2Proof.Machine.execMax d a b s
  | .minu d a b => Sys2Proof.Machine.execMinu d a b s
  | .maxu d a b => Sys2Proof.Machine.execMaxu d a b s
  | .clz d a => Sys2Proof.Machine.execClz d a s
  | .ctz d a => Sys2Proof.Machine.execCtz d a s
  | .popc d a => Sys2Proof.Machine.execPopc d a s
  | .addi d a im => Sys2Proof.Machine.execAddi d a im s
  | .andi d a im => Sys2Proof.Machine.execAndi d a im s
  | .ori d a im => Sys2Proof.Machine.execOri d a im s
  | .xori d a im => Sys2Proof.Machine.execXori d a im s
  | .slli d a h => Sys2Proof.Machine.execSlli d a h s
  | .srli d a h => Sys2Proof.Machine.execSrli d a h s
  | .srai d a h => Sys2Proof.Machine.execSrai d a h s
  | .slti d a im => Sys2Proof.Machine.execSlti d a im s
  | .sltiu d a im => Sys2Proof.Machine.execSltiu d a im s
  | .lim d im => Sys2Proof.Machine.execLim d im s
  | .adpc d im => Sys2Proof.Machine.execAdpc d im s
  | .mul d a b => Sys2Proof.Machine.execMul d a b s
  | .mulh d a b => Sys2Proof.Machine.execMulh d a b s
  | .mulhu d a b => Sys2Proof.Machine.execMulhu d a b s
  | .mulhsu d a b => Sys2Proof.Machine.execMulhsu d a b s
  | .div d a b => Sys2Proof.Machine.execDiv d a b s
  | .divu d a b => Sys2Proof.Machine.execDivu d a b s
  | .rem d a b => Sys2Proof.Machine.execRem d a b s
  | .remu d a b => Sys2Proof.Machine.execRemu d a b s
  | .ldS8 d a im => Sys2Proof.Machine.execLdS8 d a im s
  | .ldZ8 d a im => Sys2Proof.Machine.execLdZ8 d a im s
  | .ldS16 d a im => Sys2Proof.Machine.execLdS16 d a im s
  | .ldZ16 d a im => Sys2Proof.Machine.execLdZ16 d a im s
  | .ldS32 d a im => Sys2Proof.Machine.execLdS32 d a im s
  | .ldZ32 d a im => Sys2Proof.Machine.execLdZ32 d a im s
  | .ld64 d a im => Sys2Proof.Machine.execLd64 d a im s
  | .st8 b a im => Sys2Proof.Machine.execSt8 b a im s
  | .st16 b a im => Sys2Proof.Machine.execSt16 b a im s
  | .st32 b a im => Sys2Proof.Machine.execSt32 b a im s
  | .st64 b a im => Sys2Proof.Machine.execSt64 b a im s
  | .fadd r p d a b => Sys2Proof.Machine.execFadd r p d a b s
  | .fsub r p d a b => Sys2Proof.Machine.execFsub r p d a b s
  | .fmul r p d a b => Sys2Proof.Machine.execFmul r p d a b s
  | .fdiv r p d a b => Sys2Proof.Machine.execFdiv r p d a b s
  | .fsqrt r p d a => Sys2Proof.Machine.execFsqrt r p d a s
  | .fmac r p d a b => Sys2Proof.Machine.execFmac r p d a b s
  | .fmin r p d a b => Sys2Proof.Machine.execFmin r p d a b s
  | .fmax r p d a b => Sys2Proof.Machine.execFmax r p d a b s
  | .feq r p d a b => Sys2Proof.Machine.execFeq r p d a b s
  | .flt r p d a b => Sys2Proof.Machine.execFlt r p d a b s
  | .fle r p d a b => Sys2Proof.Machine.execFle r p d a b s
  | .fcls r p d a => Sys2Proof.Machine.execFcls r p d a s
  | .fcvti r p d a => Sys2Proof.Machine.execFcvti r p d a s
  | .fcvtf r p d a => Sys2Proof.Machine.execFcvtf r p d a s
  | .fcvtp r p d a => Sys2Proof.Machine.execFcvtp r p d a s
  | .fsgnj r p d a b => Sys2Proof.Machine.execFsgnj r p d a b s
  | .beq a b o => Sys2Proof.Machine.execBeq a b o s
  | .bne a b o => Sys2Proof.Machine.execBne a b o s
  | .blt a b o => Sys2Proof.Machine.execBlt a b o s
  | .bge a b o => Sys2Proof.Machine.execBge a b o s
  | .bltu a b o => Sys2Proof.Machine.execBltu a b o s
  | .bgeu a b o => Sys2Proof.Machine.execBgeu a b o s
  | .jal d im => Sys2Proof.Machine.execJal d im s
  | .jalr d a im => Sys2Proof.Machine.execJalr d a im s
  | .amoswap sc rel acq wide d a b => Sys2Proof.Machine.execAmoswap sc rel acq wide d a b s
  | .amoadd sc rel acq wide d a b => Sys2Proof.Machine.execAmoadd sc rel acq wide d a b s
  | .amoand sc rel acq wide d a b => Sys2Proof.Machine.execAmoand sc rel acq wide d a b s
  | .amoor sc rel acq wide d a b => Sys2Proof.Machine.execAmoor sc rel acq wide d a b s
  | .amoxor sc rel acq wide d a b => Sys2Proof.Machine.execAmoxor sc rel acq wide d a b s
  | .amomin sc rel acq wide d a b => Sys2Proof.Machine.execAmomin sc rel acq wide d a b s
  | .amomax sc rel acq wide d a b => Sys2Proof.Machine.execAmomax sc rel acq wide d a b s
  | .amominu sc rel acq wide d a b => Sys2Proof.Machine.execAmominu sc rel acq wide d a b s
  | .amomaxu sc rel acq wide d a b => Sys2Proof.Machine.execAmomaxu sc rel acq wide d a b s
  | .amocas sc rel acq wide d a b => Sys2Proof.Machine.execAmocas sc rel acq wide d a b s
  | .fence sc succ pred => Sys2Proof.Machine.execFence sc succ pred s
  | .ldacq sc w d a => Sys2Proof.Machine.execLdacq sc w d a s
  | .strel sc w a b => Sys2Proof.Machine.execStrel sc w a b s
  | .mwatch a b => Sys2Proof.Machine.execMwatch a b s
  | .mwait sc d => Sys2Proof.Machine.execMwait sc d s
  | .cwr c d => Sys2Proof.Machine.execCwr c d s
  | .cww c d a => Sys2Proof.Machine.execCww c d a s
  | .cwset c d a => Sys2Proof.Machine.execCwset c d a s
  | .cwclr c d a => Sys2Proof.Machine.execCwclr c d a s
  | .svc k => Sys2Proof.Machine.execSvc k s
  | .brk k => Sys2Proof.Machine.execBrk k s
  | .hint k => Sys2Proof.Machine.execHint k s
  | .tspawn d a => Sys2Proof.Machine.execTspawn d a s
  | .hbar n => Sys2Proof.Machine.execHbar n s
  | .verflip v => Sys2Proof.Machine.execVerflip v s
  | .pgate a => Sys2Proof.Machine.execPgate a s
  | .hstart a b => Sys2Proof.Machine.execHstart a b s
  | .hstop a => Sys2Proof.Machine.execHstop a s
  | .tlbinv sc a b => Sys2Proof.Machine.execTlbinv sc a b s
  | .vqsave a => Sys2Proof.Machine.execVqsave a s
  | .vqload a => Sys2Proof.Machine.execVqload a s
  | .chsave a => Sys2Proof.Machine.execChsave a s
  | .chload a => Sys2Proof.Machine.execChload a s
  | .ramoadd wide d a b => Sys2Proof.Machine.execRamoadd wide d a b s
  | .ramoswap wide d a b => Sys2Proof.Machine.execRamoswap wide d a b s
  | .ramocas wide d a b => Sys2Proof.Machine.execRamocas wide d a b s
  | .ramoor wide d a b => Sys2Proof.Machine.execRamoor wide d a b s
  | .ramomin wide d a b => Sys2Proof.Machine.execRamomin wide d a b s
  | .ramomax wide d a b => Sys2Proof.Machine.execRamomax wide d a b s
  | .vsetl g ew n d a => Sys2Proof.Machine.execVsetl g ew n d a s
  | .vgrant d => Sys2Proof.Machine.execVgrant d s
  | .vfadd m fw d a b => Sys2Proof.Machine.execVfadd m fw d a b s
  | .vfsub m fw d a b => Sys2Proof.Machine.execVfsub m fw d a b s
  | .vfmul m fw d a b => Sys2Proof.Machine.execVfmul m fw d a b s
  | .vfma m fw d a b => Sys2Proof.Machine.execVfma m fw d a b s
  | .vfnma m fw d a b => Sys2Proof.Machine.execVfnma m fw d a b s
  | .vfmin m fw d a b => Sys2Proof.Machine.execVfmin m fw d a b s
  | .vfmax m fw d a b => Sys2Proof.Machine.execVfmax m fw d a b s
  | .vfdiv m fw d a b => Sys2Proof.Machine.execVfdiv m fw d a b s
  | .vfsqrt m fw d a => Sys2Proof.Machine.execVfsqrt m fw d a s
  | .vfrsq m fw d a => Sys2Proof.Machine.execVfrsq m fw d a s
  | .vfuq m fw d a b => Sys2Proof.Machine.execVfuq m fw d a b s
  | .vfabs m fw d a => Sys2Proof.Machine.execVfabs m fw d a s
  | .vfneg m fw d a => Sys2Proof.Machine.execVfneg m fw d a s
  | .vfsgn m fw d a b => Sys2Proof.Machine.execVfsgn m fw d a b s
  | .vfscale m fw d a b => Sys2Proof.Machine.execVfscale m fw d a b s
  | .vfeq m fw d a b => Sys2Proof.Machine.execVfeq m fw d a b s
  | .vflt m fw d a b => Sys2Proof.Machine.execVflt m fw d a b s
  | .vfle m fw d a b => Sys2Proof.Machine.execVfle m fw d a b s
  | .vfcls m fw d a => Sys2Proof.Machine.execVfcls m fw d a s
  | .vfcvt m fw d a => Sys2Proof.Machine.execVfcvt m fw d a s
  | .vfcvti m fw d a => Sys2Proof.Machine.execVfcvti m fw d a s
  | .vficvt m fw d a => Sys2Proof.Machine.execVficvt m fw d a s
  | .vsig m fw d a => Sys2Proof.Machine.execVsig m fw d a s
  | .vrand m fw d => Sys2Proof.Machine.execVrand m fw d s
  | .vadd m fw d a b => Sys2Proof.Machine.execVadd m fw d a b s
  | .vsub m fw d a b => Sys2Proof.Machine.execVsub m fw d a b s
  | .vmul m fw d a b => Sys2Proof.Machine.execVmul m fw d a b s
  | .vmulh m fw d a b => Sys2Proof.Machine.execVmulh m fw d a b s
  | .vmin m fw d a b => Sys2Proof.Machine.execVmin m fw d a b s
  | .vmax m fw d a b => Sys2Proof.Machine.execVmax m fw d a b s
  | .vand m fw d a b => Sys2Proof.Machine.execVand m fw d a b s
  | .vor m fw d a b => Sys2Proof.Machine.execVor m fw d a b s
  | .vxor m fw d a b => Sys2Proof.Machine.execVxor m fw d a b s
  | .vsll m fw d a b => Sys2Proof.Machine.execVsll m fw d a b s
  | .vsrl m fw d a b => Sys2Proof.Machine.execVsrl m fw d a b s
  | .vsra m fw d a b => Sys2Proof.Machine.execVsra m fw d a b s
  | .vadds m fw d a b => Sys2Proof.Machine.execVadds m fw d a b s
  | .vsubs m fw d a b => Sys2Proof.Machine.execVsubs m fw d a b s
  | .vabsd m fw d a b => Sys2Proof.Machine.execVabsd m fw d a b s
  | .vseq m fw d a b => Sys2Proof.Machine.execVseq m fw d a b s
  | .vsne m fw d a b => Sys2Proof.Machine.execVsne m fw d a b s
  | .vslt m fw d a b => Sys2Proof.Machine.execVslt m fw d a b s
  | .vsltu m fw d a b => Sys2Proof.Machine.execVsltu m fw d a b s
  | .vsel m fw d a b => Sys2Proof.Machine.execVsel m fw d a b s
  | .vmv m fw d a => Sys2Proof.Machine.execVmv m fw d a s
  | .vbcast m fw d a => Sys2Proof.Machine.execVbcast m fw d a s
  | .vidx m fw d => Sys2Proof.Machine.execVidx m fw d s
  | .vwma m fw d a b => Sys2Proof.Machine.execVwma m fw d a b s
  | .vwmul m fw d a b => Sys2Proof.Machine.execVwmul m fw d a b s
  | .vwadd m fw d a b => Sys2Proof.Machine.execVwadd m fw d a b s
  | .vdot4 m fw d a b => Sys2Proof.Machine.execVdot4 m fw d a b s
  | .vred m fw o d a => Sys2Proof.Machine.execVred m fw o d a s
  | .vperm m fw d a b => Sys2Proof.Machine.execVperm m fw d a b s
  | .vslup m fw d a b => Sys2Proof.Machine.execVslup m fw d a b s
  | .vsldn m fw d a b => Sys2Proof.Machine.execVsldn m fw d a b s
  | .vcompress m fw d a => Sys2Proof.Machine.execVcompress m fw d a s
  | .vexpand m fw d a => Sys2Proof.Machine.execVexpand m fw d a s
  | .vxpose8 m fw d => Sys2Proof.Machine.execVxpose8 m fw d s
  | .vscan m fw o d a => Sys2Proof.Machine.execVscan m fw o d a s
  | .mand d a b => Sys2Proof.Machine.execMand d a b s
  | .mor d a b => Sys2Proof.Machine.execMor d a b s
  | .mxor d a b => Sys2Proof.Machine.execMxor d a b s
  | .mnot d a => Sys2Proof.Machine.execMnot d a s
  | .mpop m d a => Sys2Proof.Machine.execMpop m d a s
  | .mffs m d a => Sys2Proof.Machine.execMffs m d a s
  | .mfromvl d => Sys2Proof.Machine.execMfromvl d s
  | .mmvx d a b => Sys2Proof.Machine.execMmvx d a b s
  | .vld e q m d a => Sys2Proof.Machine.execVld e q m d a s
  | .vlds e q m d a b => Sys2Proof.Machine.execVlds e q m d a b s
  | .vldx e q m d a b => Sys2Proof.Machine.execVldx e q m d a b s
  | .vldxO e q m d a b => Sys2Proof.Machine.execVldxO e q m d a b s
  | .vldFf e m d a => Sys2Proof.Machine.execVldFf e m d a s
  | .vst e m d a => Sys2Proof.Machine.execVst e m d a s
  | .vsts e m d a b => Sys2Proof.Machine.execVsts e m d a b s
  | .vstx e m d a b => Sys2Proof.Machine.execVstx e m d a b s
  | .vstxO e m d a b => Sys2Proof.Machine.execVstxO e m d a b s
  | .vstN e m d a => Sys2Proof.Machine.execVstN e m d a s
  | .vamoadd e m d a b => Sys2Proof.Machine.execVamoadd e m d a b s
  | .vamomin e m d a b => Sys2Proof.Machine.execVamomin e m d a b s
  | .vamomax e m d a b => Sys2Proof.Machine.execVamomax e m d a b s
  | .vamoor e m d a b => Sys2Proof.Machine.execVamoor e m d a b s
  | .vamoand e m d a b => Sys2Proof.Machine.execVamoand e m d a b s
  | .vamoxor e m d a b => Sys2Proof.Machine.execVamoxor e m d a b s
  | .vmvx d a b => Sys2Proof.Machine.execVmvx d a b s
  | .vmvv d a b => Sys2Proof.Machine.execVmvv d a b s
  | .cpdecl c a => Sys2Proof.Machine.execCpdecl c a s
  | .cpcopy o c d a b => Sys2Proof.Machine.execCpcopy o c d a b s
  | .cpstat c d a => Sys2Proof.Machine.execCpstat c d a s
  | .sbinit n => Sys2Proof.Machine.execSbinit n s
  | .sbexpect n a => Sys2Proof.Machine.execSbexpect n a s
  | .sbwait n d a => Sys2Proof.Machine.execSbwait n d a s
  | .sbcancel n => Sys2Proof.Machine.execSbcancel n s
  | .epush a b => Sys2Proof.Machine.execEpush a b s
  | .epop d a => Sys2Proof.Machine.execEpop d a s
  | .eprobe d a => Sys2Proof.Machine.execEprobe d a s
  | .gunite m d a b => Sys2Proof.Machine.execGunite m d a b s
  | .gfind m d a => Sys2Proof.Machine.execGfind m d a s
  | .grelabel fs wb m d a b => Sys2Proof.Machine.execGrelabel fs wb m d a b s
  | .gsize d a => Sys2Proof.Machine.execGsize d a s
  | .gsnap d => Sys2Proof.Machine.execGsnap d s
  | .chain a => Sys2Proof.Machine.execChain a s
  | .chstat sc d => Sys2Proof.Machine.execChstat sc d s
  | .lsupd d a => Sys2Proof.Machine.execLsupd d a s
  | .lsacc a => Sys2Proof.Machine.execLsacc a s
  | .cbload t a => Sys2Proof.Machine.execCbload t a s
  | .cAddi im d => Sys2Proof.Machine.execCAddi im d s
  | .cLi im d => Sys2Proof.Machine.execCLi im d s
  | .cMv a d => Sys2Proof.Machine.execCMv a d s
  | .cAdd b d => Sys2Proof.Machine.execCAdd b d s
  | .cSub b d => Sys2Proof.Machine.execCSub b d s
  | .cLd o a d => Sys2Proof.Machine.execCLd o a d s
  | .cSt o a b => Sys2Proof.Machine.execCSt o a b s
  | .cBeqz o a => Sys2Proof.Machine.execCBeqz o a s
  | .cBnez o a => Sys2Proof.Machine.execCBnez o a s
  | .cJ o => Sys2Proof.Machine.execCJ o s
  | .cJr a => Sys2Proof.Machine.execCJr a s
  | .mshape d a => Sys2Proof.Machine.execMshape d a s
  | .mldb bank fw a b => Sys2Proof.Machine.execMldb bank fw a b s
  | .mldbx bank fw a b c => Sys2Proof.Machine.execMldbx bank fw a b c s
  | .mmulO acc bank fw asrc oa ob m => Sys2Proof.Machine.execMmulO acc bank fw asrc oa ob m s
  | .mmulF acc bank fw asrc oa ob m => Sys2Proof.Machine.execMmulF acc bank fw asrc oa ob m s
  | .mzero acc cnt => Sys2Proof.Machine.execMzero acc cnt s
  | .mrd acc fw oa ob m => Sys2Proof.Machine.execMrd acc fw oa ob m s
  | .mwr acc fw oa ob m => Sys2Proof.Machine.execMwr acc fw oa ob m s
  | .mst acc fw oa ob m => Sys2Proof.Machine.execMst acc fw oa ob m s
  | .msig acc d => Sys2Proof.Machine.execMsig acc d s
  | .mscl acc oa m => Sys2Proof.Machine.execMscl acc oa m s
  | .uiret => Sys2Proof.Machine.execUiret s
  | .tyield => Sys2Proof.Machine.execTyield s
  | .sret => Sys2Proof.Machine.execSret s
  | .wfi => Sys2Proof.Machine.execWfi s
  | .scommit => Sys2Proof.Machine.execScommit s
  | .ginit => Sys2Proof.Machine.execGinit s
  | .gundo => Sys2Proof.Machine.execGundo s
  | .gdrop => Sys2Proof.Machine.execGdrop s
  | .chret => Sys2Proof.Machine.execChret s
  | .chabort => Sys2Proof.Machine.execChabort s
  | .cNop => Sys2Proof.Machine.execCNop s
  | .vectorDispatch => Sys2Proof.Machine.execVectorDispatch s
  | .groupCommit => Sys2Proof.Machine.execGroupCommit s
  | .matrixExecute => Sys2Proof.Machine.execMatrixExecute s
  | .trapEntry => Sys2Proof.Machine.execTrapEntry s
  | .arbiterRun => Sys2Proof.Machine.execArbiterRun s
  | .yieldWindowExpiry => Sys2Proof.Machine.execYieldWindowExpiry s
  | .hartStart => Sys2Proof.Machine.execHartStart s
  | .preemptedResume => Sys2Proof.Machine.execPreemptedResume s
  | .uiDelivery => Sys2Proof.Machine.execUiDelivery s
  | .mwaitWake => Sys2Proof.Machine.execMwaitWake s
  | .hbarExit => Sys2Proof.Machine.execHbarExit s
  | .sbwaitTimeout => Sys2Proof.Machine.execSbwaitTimeout s
  | .wfiWake => Sys2Proof.Machine.execWfiWake s
  | .tyieldResolve => Sys2Proof.Machine.execTyieldResolve s
  | .copyLanding => Sys2Proof.Machine.execCopyLanding s
  | .copyComplete => Sys2Proof.Machine.execCopyComplete s
  | .collatorCommandStart => Sys2Proof.Machine.execCollatorCommandStart s
  | .bucketStart => Sys2Proof.Machine.execBucketStart s
  | .collatorCompletion => Sys2Proof.Machine.execCollatorCompletion s
  | .resultEntryPost => Sys2Proof.Machine.execResultEntryPost s
  | .snap => Sys2Proof.Machine.execSnap s
  | .restore => Sys2Proof.Machine.execRestore s
  | .advance => Sys2Proof.Machine.execAdvance s
  | .adjoint => Sys2Proof.Machine.execAdjoint s
  | .doorbellEnqueue => Sys2Proof.Machine.execDoorbellEnqueue s
  | .dependenceRead => Sys2Proof.Machine.execDependenceRead s
  | .dependenceTimer => Sys2Proof.Machine.execDependenceTimer s
  | .dispatchBind => Sys2Proof.Machine.execDispatchBind s
  | .queueEnable => Sys2Proof.Machine.execQueueEnable s
  | .queueDisable => Sys2Proof.Machine.execQueueDisable s
  | .prooferStaging => Sys2Proof.Machine.execProoferStaging s
  | .gatingBegin => Sys2Proof.Machine.execGatingBegin s
  | .drainComplete => Sys2Proof.Machine.execDrainComplete s
  | .gateCommit => Sys2Proof.Machine.execGateCommit s
  | .wakeMessage => Sys2Proof.Machine.execWakeMessage s
  | .wakingComplete => Sys2Proof.Machine.execWakingComplete s
  | .tableWalk => Sys2Proof.Machine.execTableWalk s
  | .sverWrite => Sys2Proof.Machine.execSverWrite s
  | .sbarWrite => Sys2Proof.Machine.execSbarWrite s
  | .sorphanRead => Sys2Proof.Machine.execSorphanRead s
  | .serrlogRead => Sys2Proof.Machine.execSerrlogRead s
  | .smsaveWrite => Sys2Proof.Machine.execSmsaveWrite s
  | .ramotagWrite => Sys2Proof.Machine.execRamotagWrite s
  | .gatherBaseWrite => Sys2Proof.Machine.execGatherBaseWrite s
  | .controlWordWrite => Sys2Proof.Machine.execControlWordWrite s
  | .partitionApply => Sys2Proof.Machine.execPartitionApply s
  | .partitionDissolve => Sys2Proof.Machine.execPartitionDissolve s
  | .partitionCommandDone => Sys2Proof.Machine.execPartitionCommandDone s
  | .remoteRequestArrival => Sys2Proof.Machine.execRemoteRequestArrival s
  | .dedupEntryExpiry => Sys2Proof.Machine.execDedupEntryExpiry s
  | .remoteResponse => Sys2Proof.Machine.execRemoteResponse s
  | .portDown => Sys2Proof.Machine.execPortDown s
  | .linkDownTimeout => Sys2Proof.Machine.execLinkDownTimeout s
  | .pathLostTimeout => Sys2Proof.Machine.execPathLostTimeout s
  | .peerSilentTimeout => Sys2Proof.Machine.execPeerSilentTimeout s
  | .keyRevocation => Sys2Proof.Machine.execKeyRevocation s
  | .scrubRead => Sys2Proof.Machine.execScrubRead s
  | .supplySag => Sys2Proof.Machine.execSupplySag s
  | .clockRecoveryStep => Sys2Proof.Machine.execClockRecoveryStep s
  | .inputLoss => Sys2Proof.Machine.execInputLoss s
  | .holdupWriteback => Sys2Proof.Machine.execHoldupWriteback s
  | .holdupWrite => Sys2Proof.Machine.execHoldupWrite s
  | .holdupOff => Sys2Proof.Machine.execHoldupOff s
  | .storeErase => Sys2Proof.Machine.execStoreErase s
  | .eraseComplete => Sys2Proof.Machine.execEraseComplete s
  | .fhsdataRead => Sys2Proof.Machine.execFhsdataRead s
  | .powerControllerPeriod => Sys2Proof.Machine.execPowerControllerPeriod s
  | .energyCalibration => Sys2Proof.Machine.execEnergyCalibration s
  | .rampStep => Sys2Proof.Machine.execRampStep s
  | .dieCritical => Sys2Proof.Machine.execDieCritical s
  | .packageReset => Sys2Proof.Machine.execPackageReset s
  | .measurementExtend => Sys2Proof.Machine.execMeasurementExtend s
  | .attestationRequest => Sys2Proof.Machine.execAttestationRequest s
  | .hintPauseEnd => Sys2Proof.Machine.execHintPauseEnd s

end Sys2Proof.Machine
end

