-- ==== Sys2Proof/Machine/FrontEnd.lean ====
section
/-! DEFINITION. What one step of the machine does: which agent moves (log 1, DESIGN CHOICE), what a hart's front end does at an
instruction boundary or a Spine point (R296), and the scheduled events. -/

namespace Sys2Proof.Machine

/-! ## The scalar registers that an instruction reads (R363) -/

/-- R302: the scalar registers that a queued instruction captures, beside its format word. -/
def capturedRegs : Instr → List Reg
  | .vbcast _ _ _ a | .vldx _ _ _ _ a _ | .vldxO _ _ _ _ a _ | .vstx _ _ _ a _ | .vstxO _ _ _ a _
  | .vld _ _ _ _ a | .vldFf _ _ _ a | .vst _ _ _ a | .cbload _ a | .vamoadd _ _ _ a _ | .vamomin _ _ _ a _
  | .vamomax _ _ _ a _ | .vamoor _ _ _ a _ | .vamoand _ _ _ a _ | .vamoxor _ _ _ a _ | .vstN _ _ _ a => [a]
  | .vslup _ _ _ _ b | .vsldn _ _ _ _ b | .mmvx _ _ b | .vmvx _ _ b | .mrd _ _ _ b _ | .mwr _ _ _ b _ => [b]
  | .vmvv _ a b | .vlds _ _ _ _ a b | .vsts _ _ _ a b | .mldb _ _ a b | .mst _ _ a b _ => [a, b]
  | .grelabel _ _ _ d _ _ => [d]
  | .mldbx _ _ a _ c => [a, c]
  | .mmulO _ _ _ asrc a b _ | .mmulF _ _ _ asrc a b _ => if asrc then [a, b] else []
  | _ => []

/-- The register of an instruction's format word (R58, R141, R225). -/
def formatReg (i : Instr) : Option Reg :=
  match i with
  | .mldb _ f _ _ | .mldbx _ f _ _ _ | .mmulO _ _ f _ _ _ _ | .mmulF _ _ f _ _ _ _ | .mrd _ f _ _ _ | .mwr _ f _ _ _
  | .mst _ f _ _ _ => some f
  | _ => (vshape i).fw.map fun f => BitVec.ofNat 5 (24 + f.toNat)

/-- The scalar registers that an instruction of the front end itself reads. -/
def sourceRegs : Instr → List Reg
  | .add _ a b | .sub _ a b | .and _ a b | .or _ a b | .xor _ a b | .andn _ a b | .sll _ a b | .srl _ a b | .sra _ a b
  | .slt _ a b | .sltu _ a b | .min _ a b | .max _ a b | .minu _ a b | .maxu _ a b | .mul _ a b | .mulh _ a b
  | .mulhu _ a b | .mulhsu _ a b | .div _ a b | .divu _ a b | .rem _ a b | .remu _ a b => [a, b]
  | .clz _ a | .ctz _ a | .popc _ a | .addi _ a _ | .andi _ a _ | .ori _ a _ | .xori _ a _ | .slli _ a _ | .srli _ a _
  | .srai _ a _ | .slti _ a _ | .sltiu _ a _ => [a]
  | .ldS8 _ a _ | .ldZ8 _ a _ | .ldS16 _ a _ | .ldZ16 _ a _ | .ldS32 _ a _ | .ldZ32 _ a _ | .ld64 _ a _ | .ldacq _ _ _ a => [a]
  | .st8 b a _ | .st16 b a _ | .st32 b a _ | .st64 b a _ | .strel _ _ a b | .mwatch a b => [a, b]
  | .fadd _ _ _ a b | .fsub _ _ _ a b | .fmul _ _ _ a b | .fdiv _ _ _ a b | .fmin _ _ _ a b | .fmax _ _ _ a b
  | .feq _ _ _ a b | .flt _ _ _ a b | .fle _ _ _ a b | .fsgnj _ _ _ a b => [a, b]
  | .fmac _ _ d a b => [d, a, b]
  | .fsqrt _ _ _ a | .fcls _ _ _ a | .fcvti _ _ _ a | .fcvtf _ _ _ a | .fcvtp _ _ _ a => [a]
  | .beq a b _ | .bne a b _ | .blt a b _ | .bge a b _ | .bltu a b _ | .bgeu a b _ => [a, b]
  | .jalr _ a _ => [a]
  | .amoswap _ _ _ _ _ a b | .amoadd _ _ _ _ _ a b | .amoand _ _ _ _ _ a b | .amoor _ _ _ _ _ a b | .amoxor _ _ _ _ _ a b
  | .amomin _ _ _ _ _ a b | .amomax _ _ _ _ _ a b | .amominu _ _ _ _ _ a b | .amomaxu _ _ _ _ _ a b => [a, b]
  | .amocas _ _ _ _ d a b | .ramocas _ d a b => [d, a, b]
  | .ramoadd _ _ a b | .ramoswap _ _ a b | .ramoor _ _ a b | .ramomin _ _ a b | .ramomax _ _ a b => [a, b]
  | .cww _ _ a | .cwset _ _ a | .cwclr _ _ a | .tspawn _ a | .pgate a | .hstop a | .vqsave a | .vqload a | .chsave a
  | .chload a | .vsetl _ _ _ _ a => [a]
  | .hstart a b | .tlbinv _ a b => [a, b]
  | .cpdecl _ a | .cpstat _ _ a | .sbexpect _ a | .sbwait _ _ a | .epop _ a | .eprobe _ a | .gsize _ a | .chain a
  | .lsupd _ a | .lsacc a | .mshape _ a => [a]
  | .cpcopy _ _ d a b => [d, a, b]
  | .epush a b => [a, b]
  | .cAddi _ d | .cBeqz _ d | .cBnez _ d => [creg d]
  | .cMv a _ => [creg a]
  | .cAdd b d | .cSub b d | .cSt _ d b => [creg b, creg d]
  | .cLd _ a _ => [creg a]
  | .cJr a => [a]
  | _ => []

/-- R363: the kind of a poisoned scalar register that an instruction reads. -/
def scalarPoison (h : Hart) (i : Instr) : Option Nat :=
  if h.sram.isEmpty then none
  else (sourceRegs i ++ capturedRegs i ++ (formatReg i).toList).findSome? fun r => h.mark (.x r.toNat)

/-! ## The front end of a hart -/

/-- R128, R363: an instruction executed, unless a register that it reads is poisoned and no illegal or privileged encoding comes
first. -/
def runInstr (i : Instr) (s : State) : Out :=
  match scalarPoison s.me i with
  | none => exec i s
  | some k =>
    let early := fun (c : BitVec 5) => raise s s.cur (cause c (first32 i))
    match exec i s with
    | .next t => if t = early 0x00 ∨ t = early 0x01 then .next t else s.trapMe (regTrap s.cur k)
    | o => o

/-- R128: the moving hart's front end fetches, decodes and executes one instruction. An illegal 16-bit encoding traps with its 16 bits
as the value (R298; log 81, DEDUCED). -/
def frontEnd (s : State) : Out :=
  let s := fetchLines s
  match fetch s with
  | .wait t => .next t
  | .trap t => (endFetch s).trapMe t
  | .bytes bs =>
    match decode bs with
    | .error _ => (endFetch s).trapMe (cause 0x00 (BitVec.ofNat 64 (ofLE (bs.take 4))))
    | .ok (i, _) => afterInstr s (runInstr i s)

/-- R330: a core that is not active runs nothing. -/
def coreActive (s : State) (i : Nat) : Bool := (s.core (coreOf i)).gate == .active

/-- R21, R164: the hart's front end can execute; a `hint pause` ends when the watch has an event. -/
def Hart.canRun (h : Hart) : Bool := (h.mode == .running || h.mode == .trapped) && (!h.paused || h.watchReady)

/-- R22: a queued instruction has a scalar result to write, and the front end is behind it. -/
def Hart.owesScalar (h : Hart) : Bool := (h.vq ++ h.mq).any fun e => (xDest e.instr).isSome

/-- R270, R296 item 3: what the moving hart does where no earlier cause is ready: the Spine acts on its innermost frame, or
its front end executes; else it does not move. -/
def ownMove (s : State) : Out :=
  let h := s.me
  if h.atSpine then .next (spineStep s s.cur 0 0 fun _ => true)
  else if h.canRun && !h.owesScalar then frontEnd s
  else .next s

/-- R296: the moving hart has taken a cause of its own, by a trap or a rollback. -/
def tookCause (s t : State) : Bool := t.me.taken == s.me.taken + 1

/-- R296 items 3 to 6: of the hart's own cause and the later ones that are ready, the first. -/
def chooseCause (s : State) (own : Out) : Out :=
  match lateTrap s s.cur with
  | none => own
  | some u => match own with
    | .next t => if tookCause s t then own else .next u
    | _ => own

/-- R169, R296: what the moving hart does at its boundary: it delivers an event that is due, where no trap of R296 is ready,
or goes on (log 60, DEDUCED). -/
def boundaryMove (s : State) : Out :=
  if s.me.uiDue && (lateTrap s s.cur).isNone then .next (deliverUi s s.cur) else chooseCause s (ownMove s)

/-- R296: what the moving hart does: a remote access on its way (R151) is answered first. -/
def nextMove (s : State) : Out :=
  if s.me.remote.isSome then ownMove s
  else match s.me.queueFault with
    | some t => .next (raise (s.setMe s.me.wakePoint) s.cur t)
    | none => boundaryMove s

/-- R291: while the steps of a gathering group are under way a cause that would empty the queue waits for the group's commit, since
its results agree with one order of those steps. -/
def groupFirst (s : State) : Out → Out
  | .next t => if s.me.midGather && t.me.vq.isEmpty then .next s else .next t
  | o => o

/-- R296: one move of the hart `s.cur`. -/
def hartMove (s : State) : Out :=
  if s.hold.phase != .none || !coreActive s s.cur then .next s else groupFirst s (nextMove s)

/-! ## The events that the machine brings about by itself when nothing is scheduled (log 1, DESIGN CHOICE) -/

/-- The event that can end the wait of a hart. -/
def Hart.wakeEvent (h : Hart) : Option Instr := match h.mode with
  | .waiting (.mwait ..) _ => some .mwaitWake
  | .waiting (.hbar _) _ => some .hbarExit
  | .waiting .wfi _ | .waiting (.pgate _) _ => some .wfiWake
  | .waiting .tyield _ => some .tyieldResolve
  | .waiting (.tspawn _) _ | .waiting (.sbwait ..) _ | .waiting (.lease ..) _ | .free | .running | .trapped => none

/-- What the engines of hart `i` can do: its queues, its channels, and the end of its wait. -/
def Hart.engineEvents (h : Hart) (i : Nat) : List (Instr × EventInput) :=
  let here : EventInput := { hart := i }
  (match h.wakeEvent with
    | some e => [(e, here)]
    | none => [])
  ++ (if h.vq.isEmpty then [] else [(.vectorDispatch, here), (.groupCommit, here)])
  ++ (if h.mq.isEmpty then [] else [(.matrixExecute, here)])
  ++ ((List.range 7).flatMap fun c =>
    (match (h.chan c).copies with
      | [] => []
      | y :: _ => [(.copyLanding, { here with queue := c, landing := .copy 0 (ctlLen y.ctl) 0 }),
          (.copyComplete, { here with queue := c })])
    ++ (if (h.chan c).stream.isSome then [(.copyLanding, { here with queue := c, landing := .stream 1024 })] else []))

/-- The next event of the hold-up sequence (R372). -/
def nextHoldEvent : HoldPhase → Option Instr
  | .stopped => some .holdupWriteback
  | .writtenBack => some .holdupWrite
  | .written => some .holdupOff
  | .none | .off => none

/-- The hart `s.cur` or one of its engines moves; which one is open (R37, R88, R240; log 1, DESIGN CHOICE), and the count of steps chooses. -/
def ownTurn (s : State) : Out :=
  let l := s.me.engineEvents s.cur
  match l[s.ticks % (l.length + 1)]? with
  | none => hartMove s
  | some (e, a) => exec e { s with input := a }

/-- The move of a machine for which nothing is scheduled: the hold-up sequence goes on (R372), the boot ROM runs (R389), and
then the hart `s.cur` moves; without firmware nothing does. -/
def defaultMove (s : State) : Out :=
  match s.hold.phase with
  | .off => .fault .poweredDown
  | .none =>
    match s.boot.stage with
    | .rom => exec .packageReset { s with input := {} }
    | .noFirmware => .next s
    | .started => ownTurn s
  | p => match nextHoldEvent p with
    | some e => exec e { s with input := {} }
    | none => .next s

/-- A scheduled move: an event's operands name agents that exist, and a hart's own instructions come only from its front
end. -/
def runMove (s : State) : Move → Out
  | .hart h => if hartOk h then hartMove { s with cur := h } else .refused .noSuchAgent
  | .event i a => if (encode i).isEmpty && i.inputOk a then exec i { s with input := a } else .refused .noSuchAgent
  | .commit h n => if hartOk h then hartMove { s with cur := h, pick := some n } else .refused .noSuchAgent
  | .evict d l => .next (evictLine s d l)
  | .evictL1 c l => .next (cleanL1 s c false l)
  | .mismatch g b => .next (mismatchAt s g b)
  | .latent g b => .next (latentAt s g (if b then 3 else 1))

/-- One step: time passes, and the first scheduled move is made, or the default one. -/
def move (s : State) : Out :=
  let s := { tick s with pick := none }
  match s.schedule with
  | [] => defaultMove s
  | m :: l => runMove { s with schedule := l } m

/-- Where a program is placed: local memory of module 0. -/
def placeAddress : Nat := 0x1000

/-- The hart that runs a placed instruction: at firmware privilege, whose addresses are physical (R336). -/
def Hart.placed (h : Hart) : Hart :=
  { h with
    mode := .running, priv := .fw, pc := BitVec.ofNat 64 placeAddress, vq := [], mq := [], frames := []
    remote := none, fetched := [], paused := false, sram := [], committing := false }

/-- The line of the placed instruction without copies in the caches and without poison. -/
def State.placeLine (s : State) : State :=
  { s with
    cores := s.cores.map fun p => (p.1, { p.2 with l1 := dropLine p.2.l1 (placeAddress / 64) })
    dies := s.dies.map fun p => (p.1, { p.2 with lines := dropLine p.2.lines (placeAddress / 64) })
    poison := clearKeys s.poison (· = placeAddress / 64) }

end Sys2Proof.Machine
end

