-- ==== Sys2Proof/Machine/Step.lean ====
section
/-! DEFINITION. One step of the part, and where a program is placed so that the next step runs it. -/

namespace Sys2Proof.Machine

/-- One step of the part (R1, log 1, DESIGN CHOICE). -/
def step (s : State) : Host.Outcome State Fault Refusal := move s

/-- The state with an instruction of `w` placed where the next step of hart 0 fetches it: the boot ROM has ended, nothing is
scheduled, and hart 0 runs at firmware privilege (log 14, DESIGN CHOICE). -/
def State.withFetchWord (s : State) (nbits w : Nat) : State :=
  let s := s.placeLine
  { s with
    cur := 0
    schedule := []
    hold := { s.hold with phase := .none }
    boot := { s.boot with stage := .started }
    harts := kput s.harts 0 (s.hart 0).placed
    cores := kput s.cores 0 { s.core 0 with gate := .active }
    mem := s.mem.writeBytes placeAddress (toLE 8 (w % 2 ^ nbits)) }

end Sys2Proof.Machine
end

