-- ==== Sys2Proof/Safety.lean ====
section
/-! DEFINITION. What counts as a safe run: no step of it stops. -/

namespace Sys2Proof

open Machine

/-- A step that goes on. -/
def goesOn (s : State) : Prop := ∃ t, step s = .next t

/-- The state after `k` steps that all go on. -/
def reaches : Nat → State → State → Prop
  | 0, s, t => s = t
  | k + 1, s, t => ∃ u, step s = .next u ∧ reaches k u t

/-- A run from `s` is safe: every state that it reaches can take a step. -/
def Safe (s : State) : Prop := ∀ k t, reaches k s t → goesOn t

end Sys2Proof
end

