-- ==== Sys2Proof/Certificates/Slice0/Obligations.lean ====
section
/-! DEFINITION. The statements for the provers, by the spec's families, and the definitions they are written with. -/

namespace Sys2Proof.Claim

open Sys2Proof Sys2Proof.Machine

/-! ## Frames -/

/-- Nothing but the moving hart's x registers in `ds`, with their poison marks (R362), and its pc differs: every other register of
the hart, every control word, vector, mask, tile and trap register, every other hart, and every byte of memory, as each die and each
core sees it, is as before. -/
def OnlyRegs (s t : State) (ds : List Reg) : Prop :=
  t = s.setMe { s.me with x := t.me.x, pc := t.me.pc, sram := t.me.sram } ∧ (∀ r, r ∉ ds → t.rx r = s.rx r)
  ∧ t.me.sram = s.me.sram.filter (fun m => !ds.any fun d => d != 0 && m.1 == .x d.toNat)
  ∧ (∀ die a, dieByte t die a = dieByte s die a) ∧ ∀ core a, coreByte t core a = coreByte s core a

/-- The scalar, vector, mask and queue registers, control words, trap words, privilege and mode of the moving hart are as
before but for the x registers in `ds`; no other hart's registers differ, but that a write may wake a core and so end a `pgate` there (R330).
Memory, watches and caches may differ. -/
def KeepsRegs (s t : State) (ds : List Reg) : Prop :=
  t.cur = s.cur ∧ (∀ r, r ∉ ds → t.rx r = s.rx r) ∧ t.me.v = s.me.v ∧ t.me.m = s.me.m ∧ t.me.q = s.me.q
  ∧ t.me.uw = s.me.uw ∧ t.me.sw = s.me.sw ∧ t.me.sup = s.me.sup ∧ t.me.fwl = s.me.fwl ∧ t.me.priv = s.me.priv
  ∧ t.me.mode = s.me.mode ∧ t.me.vq = s.me.vq ∧ t.me.mq = s.me.mq
  ∧ ∀ h, h ≠ s.cur → (t.hart h).x = (s.hart h).x ∧ (t.hart h).v = (s.hart h).v ∧ (t.hart h).uw = (s.hart h).uw
    ∧ (t.hart h).priv = (s.hart h).priv
    ∧ ((∀ n b, (s.hart h).mode ≠ .waiting (.pgate n) b) → (t.hart h).pc = (s.hart h).pc ∧ (t.hart h).mode = (s.hart h).mode)

/-- The value that a scalar register shows after `v` is written to it: x0 stays zero (R130). -/
def shown (d : Reg) (v : W64) : W64 := if d = 0 then 0 else v

/-! ## Scalar integer results, from the tables of R148, R149, R130 and R150 -/

/-- Leading zero bits; 64 for zero. -/
def leadingZeros (a : W64) : Nat := if a = 0 then 64 else 63 - a.toNat.log2
/-- Trailing zero bits; 64 for zero. -/
def trailingZeros (a : W64) : Nat := ((List.range 64).find? fun i => a.getLsbD i).getD 64
/-- Set bits. -/
def setBits (a : W64) : Nat := ((List.range 64).filter fun i => a.getLsbD i).length

def flag (p : Prop) [Decidable p] : W64 := if p then 1 else 0

/-- A shift to the right of the signed value: the quotient by a power of two, rounded down. -/
def shiftSigned (a : W64) (n : Nat) : W64 := BitVec.ofInt 64 (a.toInt / 2 ^ n)

/-- Destination and result of a scalar integer instruction of 32 bits. -/
def integerResult (s : State) : Instr → Option (Reg × W64)
  | .add d a b => some (d, BitVec.ofNat 64 ((s.rx a).toNat + (s.rx b).toNat))
  | .sub d a b => some (d, BitVec.ofInt 64 ((s.rx a).toInt - (s.rx b).toInt))
  | .and d a b => some (d, BitVec.ofNat 64 ((s.rx a).toNat &&& (s.rx b).toNat))
  | .or d a b => some (d, BitVec.ofNat 64 ((s.rx a).toNat ||| (s.rx b).toNat))
  | .xor d a b => some (d, BitVec.ofNat 64 ((s.rx a).toNat ^^^ (s.rx b).toNat))
  | .andn d a b => some (d, BitVec.ofNat 64 ((s.rx a).toNat &&& (2 ^ 64 - 1 - (s.rx b).toNat)))
  | .sll d a b => some (d, BitVec.ofNat 64 ((s.rx a).toNat * 2 ^ ((s.rx b).toNat % 64)))
  | .srl d a b => some (d, BitVec.ofNat 64 ((s.rx a).toNat / 2 ^ ((s.rx b).toNat % 64)))
  | .sra d a b => some (d, shiftSigned (s.rx a) ((s.rx b).toNat % 64))
  | .slt d a b => some (d, flag ((s.rx a).toInt < (s.rx b).toInt))
  | .sltu d a b => some (d, flag ((s.rx a).toNat < (s.rx b).toNat))
  | .min d a b => some (d, BitVec.ofInt 64 (min (s.rx a).toInt (s.rx b).toInt))
  | .max d a b => some (d, BitVec.ofInt 64 (max (s.rx a).toInt (s.rx b).toInt))
  | .minu d a b => some (d, BitVec.ofNat 64 (min (s.rx a).toNat (s.rx b).toNat))
  | .maxu d a b => some (d, BitVec.ofNat 64 (max (s.rx a).toNat (s.rx b).toNat))
  | .clz d a => some (d, BitVec.ofNat 64 (leadingZeros (s.rx a)))
  | .ctz d a => some (d, BitVec.ofNat 64 (trailingZeros (s.rx a)))
  | .popc d a => some (d, BitVec.ofNat 64 (setBits (s.rx a)))
  | .addi d a i => some (d, BitVec.ofInt 64 ((s.rx a).toInt + i.toInt))
  | .andi d a i => some (d, s.rx a &&& BitVec.ofInt 64 i.toInt)
  | .ori d a i => some (d, s.rx a ||| BitVec.ofInt 64 i.toInt)
  | .xori d a i => some (d, s.rx a ^^^ BitVec.ofInt 64 i.toInt)
  | .slli d a h => some (d, BitVec.ofNat 64 ((s.rx a).toNat * 2 ^ h.toNat))
  | .srli d a h => some (d, BitVec.ofNat 64 ((s.rx a).toNat / 2 ^ h.toNat))
  | .srai d a h => some (d, shiftSigned (s.rx a) h.toNat)
  | .slti d a i => some (d, flag ((s.rx a).toInt < i.toInt))
  | .sltiu d a i => some (d, flag ((s.rx a).toNat < (BitVec.ofInt 64 i.toInt).toNat))
  | .lim d i => some (d, BitVec.ofInt 64 (i.toInt * 4096))
  | .adpc d i => some (d, BitVec.ofInt 64 (s.me.pc.toNat + i.toInt * 4096))
  | .mul d a b => some (d, BitVec.ofInt 64 ((s.rx a).toInt * (s.rx b).toInt))
  | .mulh d a b => some (d, BitVec.ofInt 64 ((s.rx a).toInt * (s.rx b).toInt / 2 ^ 64))
  | .mulhu d a b => some (d, BitVec.ofNat 64 ((s.rx a).toNat * (s.rx b).toNat / 2 ^ 64))
  | .mulhsu d a b => some (d, BitVec.ofInt 64 ((s.rx a).toInt * (s.rx b).toNat / 2 ^ 64))
  | .div d a b => some (d, if s.rx b = 0 then BitVec.ofInt 64 (-1) else BitVec.ofInt 64 ((s.rx a).toInt.tdiv (s.rx b).toInt))
  | .divu d a b => some (d, if s.rx b = 0 then BitVec.ofNat 64 (2 ^ 64 - 1) else BitVec.ofNat 64 ((s.rx a).toNat / (s.rx b).toNat))
  | .rem d a b => some (d, if s.rx b = 0 then s.rx a else BitVec.ofInt 64 ((s.rx a).toInt.tmod (s.rx b).toInt))
  | .remu d a b => some (d, if s.rx b = 0 then s.rx a else BitVec.ofNat 64 ((s.rx a).toNat % (s.rx b).toNat))
  | _ => none

/-- R129: the words of the Q, I, B and J formats, from the highest field down; bit 0 of a 32-bit instruction is 0. -/
def qWord (mod fn : BitVec 5) (b a d : Reg) (maj : BitVec 6) : List Byte := le32 (mod ++ fn ++ b ++ a ++ d ++ maj ++ 0#1)
def iWord (i : BitVec 15) (a d : Reg) (maj : BitVec 6) : List Byte := le32 (i ++ a ++ d ++ maj ++ 0#1)
def bWord (o : BitVec 15) (b a : Reg) (maj : BitVec 6) : List Byte :=
  le32 (o.extractLsb' 5 10 ++ b ++ a ++ o.extractLsb' 0 5 ++ maj ++ 0#1)
def jWord (i : BitVec 20) (d : Reg) (maj : BitVec 6) : List Byte := le32 (i ++ d ++ maj ++ 0#1)

/-- R148: the instructions of the ALU major, in the order of fn, and the b that each names: `clz`, `ctz` and `popc` have none. -/
def aluTable (d a b : Reg) : List (Instr × Reg) :=
  [(.add d a b, b), (.sub d a b, b), (.and d a b, b), (.or d a b, b), (.xor d a b, b), (.andn d a b, b), (.sll d a b, b), (.srl d a b, b),
   (.sra d a b, b), (.slt d a b, b), (.sltu d a b, b), (.min d a b, b), (.max d a b, b), (.minu d a b, b), (.maxu d a b, b), (.clz d a, 0),
   (.ctz d a, 0), (.popc d a, 0)]

/-- R150: the instructions of the MULDIV major, in the order of fn. -/
def muldivTable (d a b : Reg) : List Instr :=
  [.mul d a b, .mulh d a b, .mulhu d a b, .mulhsu d a b, .div d a b, .divu d a b, .rem d a b, .remu d a b]

/-- R149: the instructions of the immediate majors, with their words. -/
def immediateTable (d a : Reg) (i : BitVec 15) (h : BitVec 6) (j : BitVec 14) (k : BitVec 20) : List (Instr × List Byte) :=
  [(.addi d a i, iWord i a d 0x02), (.andi d a i, iWord i a d 0x03), (.ori d a i, iWord i a d 0x04), (.xori d a i, iWord i a d 0x05),
   (.slli d a h, iWord (0#2 ++ 0#7 ++ h) a d 0x06), (.srli d a h, iWord (1#2 ++ 0#7 ++ h) a d 0x06),
   (.srai d a h, iWord (2#2 ++ 0#7 ++ h) a d 0x06), (.slti d a j, iWord (0#1 ++ j) a d 0x07), (.sltiu d a j, iWord (1#1 ++ j) a d 0x07),
   (.lim d k, jWord k d 0x08), (.adpc d k, jWord k d 0x09)]

/-! ## Compressed instructions (R144) -/

/-- R144: the register of a 3-bit field. -/
def short (r : BitVec 3) : Reg := BitVec.ofNat 5 (8 + r.toNat)

/-- R144: the expansion of a compressed arithmetic instruction. -/
def arithExpansion : Instr → Option Instr
  | .cAddi i d => some (.addi (short d) (short d) (i.signExtend 15))
  | .cLi i d => some (.addi (short d) 0 (i.signExtend 15))
  | .cMv a d => some (.addi (short d) (short a) 0)
  | .cAdd b d => some (.add (short d) (short d) (short b))
  | .cSub b d => some (.sub (short d) (short d) (short b))
  | .cNop => some (.addi 0 0 0)
  | _ => none

/-! ## Branches and jumps (R130, R144, R154) -/

/-- Whether a branch is taken, and its distance in bytes; the length of the instruction. -/
def branchOf (s : State) : Instr → Option (Bool × Int × Nat)
  | .beq a b o => some (decide (s.rx a = s.rx b), 2 * o.toInt, 4)
  | .bne a b o => some (decide (s.rx a ≠ s.rx b), 2 * o.toInt, 4)
  | .blt a b o => some (decide ((s.rx a).toInt < (s.rx b).toInt), 2 * o.toInt, 4)
  | .bge a b o => some (decide ((s.rx b).toInt ≤ (s.rx a).toInt), 2 * o.toInt, 4)
  | .bltu a b o => some (decide ((s.rx a).toNat < (s.rx b).toNat), 2 * o.toInt, 4)
  | .bgeu a b o => some (decide ((s.rx b).toNat ≤ (s.rx a).toNat), 2 * o.toInt, 4)
  | .cBeqz o a => some (decide (s.rx (short a) = 0), 2 * o.toInt, 2)
  | .cBnez o a => some (decide (s.rx (short a) ≠ 0), 2 * o.toInt, 2)
  | .cJ o => some (true, 2 * o.toInt, 2)
  | _ => none

/-- Link register and target of a jump with a link or to a register. -/
def jumpOf (s : State) : Instr → Option (Reg × W64)
  | .jal d i => some (d, BitVec.ofInt 64 (s.me.pc.toNat + 2 * i.toInt))
  | .jalr d a i => some (d, (BitVec.ofInt 64 ((s.rx a).toInt + i.toInt)) &&& ~~~1)
  | .cJr a => some (0, s.rx a &&& ~~~1)
  | _ => none

end Sys2Proof.Claim

open Sys2Proof Sys2Proof.Machine Sys2Proof.Claim

/-- R148, R149, R150: every scalar integer instruction completes, writes its result to x[d] and changes nothing else; x0
stays zero (R130). Its word has the major, and where there is one the fn, of its table; selector 3 of major 0x06 is illegal. -/
def Obligations.ScalarIntegerResults : Prop :=
  (∀ (s : State) (i : Instr) (d : Reg) (v : W64), integerResult s i = some (d, v) →
    ∃ t, exec i s = .next t ∧ t.rx d = shown d v ∧ t.me.pc = s.me.pc + 4 ∧ OnlyRegs s t [d])
  ∧ (∀ (d a b : Reg) (k : Nat) (p : Instr × Reg), (aluTable d a b)[k]? = some p → encode p.1 = qWord 0 (BitVec.ofNat 5 k) p.2 a d 0x01)
  ∧ (∀ (d a b : Reg) (k : Nat) (i : Instr), (muldivTable d a b)[k]? = some i → encode i = qWord 0 (BitVec.ofNat 5 k) b a d 0x0D)
  ∧ (∀ (d a : Reg) (i : BitVec 15) (h : BitVec 6) (j : BitVec 14) (k : BitVec 20), ∀ p ∈ immediateTable d a i h j k, encode p.1 = p.2)
  ∧ ∀ (d a : Reg) (i : BitVec 13), ∃ e, decode (iWord (3#2 ++ i) a d 0x06) = .error e

/-- R144: a compressed arithmetic instruction does what its expansion does, but that the pc moves by 2. -/
def Obligations.CompressedArithmeticExpands : Prop :=
  ∀ (s : State) (i j : Instr), arithExpansion i = some j →
    ∃ t u, exec i s = .next t ∧ exec j s = .next u ∧ t.me.pc = s.me.pc + 2 ∧ t = u.setMe { u.me with pc := s.me.pc + 2 }

/-- R154: a branch completes at its target when its condition holds, else behind itself; a jump writes the address of the
next instruction and goes to its target; neither changes anything else. Their words have the majors of R154. -/
def Obligations.BranchAndJumpTargets : Prop :=
  (∀ (s : State) (i : Instr) (taken : Bool) (o : Int) (n : Nat), branchOf s i = some (taken, o, n) →
    ∃ t, exec i s = .next t ∧ t.me.pc = (if taken then s.me.pc + BitVec.ofInt 64 o else s.me.pc + BitVec.ofNat 64 n)
      ∧ OnlyRegs s t [])
  ∧ (∀ (s : State) (i : Instr) (d : Reg) (target : W64), jumpOf s i = some (d, target) →
    ∃ t, exec i s = .next t ∧ t.me.pc = target ∧ t.rx d = shown d (s.me.pc + 4) ∧ OnlyRegs s t [d])
  ∧ (∀ (a b : Reg) (o : BitVec 15), encode (.beq a b o) = bWord o b a 0x0E ∧ encode (.bne a b o) = bWord o b a 0x0F
    ∧ encode (.blt a b o) = bWord o b a 0x10 ∧ encode (.bge a b o) = bWord o b a 0x11 ∧ encode (.bltu a b o) = bWord o b a 0x12
    ∧ encode (.bgeu a b o) = bWord o b a 0x13)
  ∧ ∀ (d a : Reg) (i : BitVec 20) (j : BitVec 15), encode (.jal d i) = jWord i d 0x14 ∧ encode (.jalr d a j) = iWord j a d 0x15


namespace Sys2Proof.Claim

open Sys2Proof Sys2Proof.Machine

/-! ## Memory forms -/

/-- Every memory of the machine is in canonical form, and every line that a die or an L1 holds has its 64 bytes. -/
def MemoryForm (s : State) : Prop :=
  s.mem.wf = true ∧ (∀ c, (s.core c).spad.wf = true) ∧ s.hold.store.wf = true
  ∧ (∀ d, ∀ l ∈ (s.die d).lines, l.data.length = 64) ∧ ∀ c, ∀ l ∈ (s.core c).l1, l.data.length = 64

/-- Destination, address, bytes, sign extension, acquire scope and length of a scalar load (R135, R138, R144, R151, R156). -/
def loadForm (s : State) : Instr → Option (Reg × W64 × Nat × Bool × Nat × Nat)
  | .ldS8 d a i => some (d, s.rx a + sext i, 1, true, 0, 4)
  | .ldZ8 d a i => some (d, s.rx a + sext i, 1, false, 0, 4)
  | .ldS16 d a i => some (d, s.rx a + sext i, 2, true, 0, 4)
  | .ldZ16 d a i => some (d, s.rx a + sext i, 2, false, 0, 4)
  | .ldS32 d a i => some (d, s.rx a + sext i, 4, true, 0, 4)
  | .ldZ32 d a i => some (d, s.rx a + sext i, 4, false, 0, 4)
  | .ld64 d a i => some (d, s.rx a + sext i, 8, false, 0, 4)
  | .cLd o a d => some (short d, s.rx (short a) + BitVec.ofNat 64 (8 * o.toNat), 8, false, 0, 2)
  | .ldacq sc w d a => some (d, s.rx a, [1, 1, 2, 2, 4, 4, 8, 8].getD w.toNat 8, [true, false, true, false, true, false].getD w.toNat false,
      sc.toNat, 4)
  | _ => none

/-- Address, value, bytes, release scope and length of a scalar store. -/
def storeForm (s : State) : Instr → Option (W64 × W64 × Nat × Option Nat × Nat)
  | .st8 b a i => some (s.rx a + sext i, s.rx b, 1, none, 4)
  | .st16 b a i => some (s.rx a + sext i, s.rx b, 2, none, 4)
  | .st32 b a i => some (s.rx a + sext i, s.rx b, 4, none, 4)
  | .st64 b a i => some (s.rx a + sext i, s.rx b, 8, none, 4)
  | .cSt o a b => some (s.rx (short a) + BitVec.ofNat 64 (8 * o.toNat), s.rx (short b), 8, none, 2)
  | .strel sc w a b => some (s.rx a, s.rx b, 2 ^ w.toNat, some sc.toNat, 4)
  | _ => none

/-- The value that `n` bytes, lowest first, give a register (R151). -/
def extended (signed : Bool) (n : Nat) (bs : List Byte) : W64 :=
  if signed then (BitVec.ofNat (8 * n) (ofLE bs)).signExtend 64 else BitVec.ofNat 64 (ofLE bs)

/-- An aligned scalar access of `n` bytes that nothing holds back lands at place `p`: outside the strip store buffer in use, with no
overlapping range queued, and with no earlier access to a device-ordered page on its way where it goes to one (R341). -/
def Lands (s : State) (acc : Acc) (va : W64) (n : Nat) (p : Place) : Prop :=
  va.toNat % n = 0 ∧ touchesBuffer s.me.guarded s.me s.cur va n = false ∧ rangeBusy s.me va n = false
  ∧ locate s s.cur (spaceOf s s.cur) false acc va = .ok p ∧ devWaits s p = false

/-- The place lies in the package, and a load there in state `s` consumes no poison. -/
def Sound (s : State) (p : Place) (n : Nat) : Prop :=
  (∀ pa node a, p.loc ≠ .fabric pa node a) ∧ loadPoison s s.cur (scalarView s.cur) p n = none

/-- An access to memory stays within one line: pages are at least 64 KiB (R331), so an aligned access does. -/
def InLine (l : Loc) (n : Nat) : Prop := ∀ pa, l = .mem pa → pa % 64 + n ≤ 64

/-- The place of a byte lies among `n` bytes at a place. -/
def Within (l : Loc) (n : Nat) : Loc → Prop
  | .mem a => ∃ pa, l = .mem pa ∧ pa ≤ a ∧ a < pa + n
  | .spad c o => ∃ q, l = .spad c q ∧ q ≤ o ∧ o < q + n
  | .fabric .. => False

/-- Every byte of memory outside `n` bytes at `l`, as each die and each core sees it, and every scratchpad byte outside, is as it
was. -/
def OtherBytes (s t : State) (l : Loc) (n : Nat) : Prop :=
  (∀ die a, ¬ Within l n (.mem a) → dieByte t die a = dieByte s die a)
  ∧ (∀ core a, ¬ Within l n (.mem a) → coreByte t core a = coreByte s core a)
  ∧ ∀ c o, ¬ Within l n (.spad c o) → (t.core c).spad.read o = (s.core c).spad.read o

/-- R90: the acquire of scope `sc` of an instruction finds no progress add of the hart queued, behind which it would wait. -/
def AcquireGoes (s : State) (sc : Nat) : Prop := sc = 0 ∨ addPending s.me = false

/-- R48, R102: an open strip is committed before the instruction of the moving hart goes on in state `t`: the queues are drained, no
binding is open, the buffer holds no error, and no store that the commit posted is unacknowledged. -/
def Committed (s t : State) : Prop :=
  s.me.openBinding = false ∧ s.me.drained = true ∧ bufferError s s.cur = none ∧ commitStrip s s.cur s.me.pc false = (t, true)
  ∧ storesOut t s.cur = false

/-- R48: the state in which an instruction that commits an open strip goes on: behind the commit, or outside a strip at once. -/
def CommitsFirst (s t : State) : Prop := (s.me.guarded = false ∧ t = s) ∨ (s.me.guarded = true ∧ Committed s t)

/-- R48, R366: how an instruction `i` that commits an open strip stands in it before it goes on: it waits for its queues; a step of the
commit is made; behind the last it waits for the stores that the commit posted; an error of the buffer traps. -/
def CommitSteps (s : State) (i : Instr) : Prop :=
  s.me.guarded = true → s.me.openBinding = false →
    (s.me.drained = false → exec i s = .next s)
    ∧ (s.me.drained = true → bufferError s s.cur = none →
      let c := commitStrip s s.cur s.me.pc false
      c.2 = false ∨ storesOut c.1 s.cur = true → exec i s = .next c.1)
    ∧ ∀ r, s.me.drained = true → bufferError s s.cur = some r →
      let u := performSome s s.cur
      exec i s = .next (trapEnter u s.cur r)

/-- The `n` bytes at a place, as the moving hart's scalar accesses see them (R79). -/
def seenBytes (s : State) (p : Place) (n : Nat) : List Byte := bytesAt s (scalarView s.cur) p.loc n

/-- The machine made ready for a load at a place, behind its acquire. -/
def loadReady (s : State) (p : Place) (sc : Nat) : State := ready (acquire s s.cur sc) s.cur (scalarView s.cur) p

/-- The machine made ready for a store with a release scope at a place: the release is performed (R93), and the line is
fetched into the core's L1, or returned to its segment where the access is performed there (R95, R341). -/
def storeReady (s : State) (p : Place) (rel : Option Nat) : State :=
  let t := release s s.cur (rel.getD 0)
  if p.dev || 3 ≤ rel.getD 0 then toHome t (dieOf s.cur) p.loc else touchAt t (scalarView s.cur) p.loc

/-- The machine behind the release and the acquire of an atomic. -/
def atomicOrdered (s : State) (sc : Nat) (rel acq : Bool) : State :=
  let t := if rel then release s s.cur sc else s
  if acq then acquire t s.cur sc else t

/-- The machine made ready for an atomic: its release, then its acquire, then the line, which the die cache or its segment serves
(R95). -/
def atomicReady (s : State) (p : Place) (sc : Nat) (rel acq : Bool) : State :=
  let u := atomicOrdered s sc rel acq
  if p.dev || 3 ≤ sc then toHome u (dieOf s.cur) p.loc else touchAt u (vectorView s.cur) p.loc

/-- The forms of the AMO major: operation, scope, release, acquire, width, d, a, b. -/
def atomicForm : Instr → Option (AmoOp × BitVec 3 × Bool × Bool × Bool × Reg × Reg × Reg)
  | .amoswap sc rel acq w d a b => some (.swap, sc, rel, acq, w, d, a, b)
  | .amoadd sc rel acq w d a b => some (.add, sc, rel, acq, w, d, a, b)
  | .amoand sc rel acq w d a b => some (.and, sc, rel, acq, w, d, a, b)
  | .amoor sc rel acq w d a b => some (.or, sc, rel, acq, w, d, a, b)
  | .amoxor sc rel acq w d a b => some (.xor, sc, rel, acq, w, d, a, b)
  | .amomin sc rel acq w d a b => some (.min, sc, rel, acq, w, d, a, b)
  | .amomax sc rel acq w d a b => some (.max, sc, rel, acq, w, d, a, b)
  | .amominu sc rel acq w d a b => some (.minu, sc, rel, acq, w, d, a, b)
  | .amomaxu sc rel acq w d a b => some (.maxu, sc, rel, acq, w, d, a, b)
  | .amocas sc rel acq w d a b => some (.cas, sc, rel, acq, w, d, a, b)
  | _ => none

/-- R155: the new value of `n` bytes from the old one, x[b] and, for `cas`, x[d], as unsigned numbers. -/
def atomicNew (op : AmoOp) (n old b d : Nat) : Nat :=
  let w := 8 * n
  let x := BitVec.ofNat w old
  let y := BitVec.ofNat w b
  match op with
  | .swap => y.toNat
  | .add => (x.toNat + y.toNat) % 2 ^ w
  | .and => x.toNat &&& y.toNat
  | .or => x.toNat ||| y.toNat
  | .xor => x.toNat ^^^ y.toNat
  | .min => (BitVec.ofInt w (min x.toInt y.toInt)).toNat
  | .max => (BitVec.ofInt w (max x.toInt y.toInt)).toNat
  | .minu => min x.toNat y.toNat
  | .maxu => max x.toNat y.toNat
  | .cas => if x = BitVec.ofNat w d then y.toNat else x.toNat

/-- The watch that `mwatch` sets (R157). -/
def watchSet (va c v : W64) (l : Loc) : Watch := { a := va, c := c, armed := true, event := decide (v ≠ c), loc := some l }

end Sys2Proof.Claim

/-- R151, R156: a load that lands in the package completes: x[d] gets the bytes that the hart sees there (its own held
stores of the strip included), extended; an acquire comes first where the instruction is one. But for making its line ready the load
changes no byte of memory, of a cache or of a scratchpad, and making it ready writes back to memory bytes of that line at most, and
none where no other core of the die holds it in its L1 (R80). -/
def Sys2Proof.Claim.LoadAnswers : Prop :=
  ∀ (s : State) (i : Instr) (d : Reg) (va : W64) (n : Nat) (signed : Bool) (sc len : Nat) (p : Place),
    loadForm s i = some (d, va, n, signed, sc, len) → coreActive s s.cur = true → Lands s .load va n p → AcquireGoes s sc →
    Sound (acquire s s.cur sc) p n →
    ∃ t, exec i s = .next t
      ∧ t.rx d = shown d (extended signed n (overlay s.me p.loc (bytesAt (loadReady s p sc) (viewOf (scalarView s.cur) p) p.loc n)))
      ∧ t.me.pc = s.me.pc + BitVec.ofNat 64 len ∧ KeepsRegs s t [d] ∧ t.me.buf = s.me.buf
      ∧ t.mem = (loadReady s p sc).mem ∧ t.cores = (loadReady s p sc).cores ∧ t.dies = (loadReady s p sc).dies
      ∧ (p.dev = false → (∀ c, (t.core c).spad = (s.core c).spad)
        ∧ (∀ pa a, p.loc = .mem pa → a / 64 ≠ pa / 64 → t.mem.read a = s.mem.read a)
        ∧ ((∀ pa, p.loc = .mem pa → l1Holders s (dieOf s.cur) (some (coreOf s.cur)) (pa / 64) = []) → t.mem = s.mem))

/-- R12, R47, R151, R353, R357, R363: a load through a fabric window sends one request and waits; when the data arrives it completes with
the hart's own held stores over it, unless it takes bytes from a poisoned word of the strip store buffer. With no free request slot it
waits to send. -/
def Sys2Proof.Claim.RemoteLoadWaits : Prop :=
  ∀ (s : State) (i : Instr) (d : Reg) (va : W64) (n : Nat) (signed : Bool) (sc len pa addr : Nat) (node : BitVec 16) (dev : Bool),
    loadForm s i = some (d, va, n, signed, sc, len) → Lands s .load va n ⟨.fabric pa node addr, dev⟩ → AcquireGoes s sc →
    (s.me.remote = none → slotFree s s.cur = true → ∃ t, exec i s = .next t ∧ t.me.pc = s.me.pc
      ∧ t.me.remote = some ⟨s.fab.nextId, false, none⟩
      ∧ t.fab.requests.length = s.fab.requests.length + 1 ∧ KeepsRegs s t [])
    ∧ (s.me.remote = none → slotFree s s.cur = false → exec i s = .next s)
    ∧ ∀ id bs, s.me.remote = some ⟨id, false, some (.bytes bs)⟩ → heldPoison s s.cur (.fabric pa node addr) n = none → ∃ t, exec i s = .next t
      ∧ t.rx d = shown d (extended signed n (overlay s.me (.fabric pa node addr) (bs.take n)))
      ∧ t.me.pc = s.me.pc + BitVec.ofNat 64 len ∧ t.me.remote = none ∧ KeepsRegs s t [d] ∧ t.mem = s.mem

/-- R151, R156, R353: scalar loads, in the package and through a fabric window. -/
def Obligations.ScalarLoadResult : Prop := Sys2Proof.Claim.LoadAnswers ∧ Sys2Proof.Claim.RemoteLoadWaits


/-- R77, R79, R93, R95, R151, R156: a store outside a guarded strip that lands in the package completes: its bytes stand at the place
as the hart sees it, and every other byte is as it was once the release and the fetch of the line are done. -/
def Sys2Proof.Claim.StoreLands : Prop :=
  ∀ (s : State) (i : Instr) (va v : W64) (n : Nat) (rel : Option Nat) (len : Nat) (p : Place),
    storeForm s i = some (va, v, n, rel, len) → coreActive s s.cur = true → s.me.guarded = false → MemoryForm s →
    (rel.isSome = true → releaseReady s s.cur (rel.getD 0) = true) →
    Lands s .store va n p → (∀ pa node a, p.loc ≠ .fabric pa node a) → InLine p.loc n →
    ∃ t, exec i s = .next t ∧ seenBytes t p n = toLE n v.toNat
      ∧ OtherBytes (storeReady s p rel) t p.loc n ∧ t.me.pc = s.me.pc + BitVec.ofNat 64 len ∧ KeepsRegs s t []

/-- R12, R94, R151: outside a guarded strip a store through a fabric window is posted behind its release: it sends its request and goes
on; with no free request slot it waits. -/
def Sys2Proof.Claim.RemoteStorePosts : Prop :=
  ∀ (s : State) (i : Instr) (va v : W64) (n : Nat) (rel : Option Nat) (len pa addr : Nat) (node : BitVec 16) (dev : Bool),
    storeForm s i = some (va, v, n, rel, len) → coreActive s s.cur = true → s.me.guarded = false →
    Lands s .store va n ⟨.fabric pa node addr, dev⟩ → (rel.isSome = true → releaseReady s s.cur (rel.getD 0) = true) →
    (slotFree s s.cur = false → exec i s = .next s)
    ∧ (slotFree s s.cur = true → ∃ t, exec i s = .next t ∧ t.me.pc = s.me.pc + BitVec.ofNat 64 len ∧ KeepsRegs s t []
      ∧ t.mem = (release s s.cur (rel.getD 0)).mem ∧ t.cores = (release s s.cur (rel.getD 0)).cores
      ∧ t.dies = (release s s.cur (rel.getD 0)).dies ∧ t.fab.requests.length = s.fab.requests.length + 1
      ∧ ∃ r ∈ t.fab.requests, r.id = s.fab.nextId ∧ r.hart = s.cur ∧ r.store = true ∧ r.dev = (dev || decide (3 ≤ rel.getD 0))
        ∧ r.msg = .store r.id node addr (toLE n v.toNat) (keyOf s s.cur))

/-- R47, R48, R362: a store in a guarded strip with room in the buffer is held there, by the count of bytes of log 13 (DEDUCED); without
room the strip is committed first, and the store is held in the next. No other byte of memory, of a cache or of a scratchpad changes, and
the words of the buffer that the store fills lose their poison. -/
def Sys2Proof.Claim.GuardedStoreIsHeld : Prop :=
  ∀ (s u : State) (i : Instr) (va v : W64) (n : Nat) (rel : Option Nat) (len : Nat) (p : Place),
    storeForm s i = some (va, v, n, rel, len) → s.me.guarded = true → Lands s .store va n p →
    (bufferBytes < stripBytes s.me + n → CommitSteps s i)
    ∧ ((s.me.committing = false ∧ stripBytes s.me + n ≤ bufferBytes ∧ u = s)
        ∨ (bufferBytes < stripBytes s.me + n ∧ Committed s u ∧ u.me.buf = []) →
      ∃ t e, exec i s = .next t ∧ t.me.buf = e :: u.me.buf ∧ e.loc = p.loc ∧ e.bytes = toLE n v.toNat ∧ e.va = va
        ∧ e.scope = rel.getD (storeScope p.loc) ∧ e.add = none
        ∧ t.mem = u.mem ∧ t.dies = u.dies ∧ t.fab = u.fab ∧ (∀ c, t.core c = { u.core c with spadPoison := (t.core c).spadPoison })
        ∧ (∀ c w, w ∈ (t.core c).spadPoison → w ∈ (u.core c).spadPoison)
        ∧ t.me.pc = u.me.pc + BitVec.ofNat 64 len ∧ KeepsRegs u t [])

/-- R47, R151, R156: scalar stores, outside and inside a guarded strip, and through a fabric window. -/
def Obligations.ScalarStoreEffect : Prop :=
  Sys2Proof.Claim.StoreLands ∧ Sys2Proof.Claim.RemoteStorePosts ∧ Sys2Proof.Claim.GuardedStoreIsHeld


/-- R77: a misaligned scalar load, store, atomic or watch traps with cause 0x02 at its address and performs nothing. In a guarded
strip with an open queue binding an atomic, and a store that would commit the strip, are illegal before that (R128, R209); when a store
would overfill the buffer is by the count of bytes of log 13 (DEDUCED). -/
def Obligations.MisalignedScalarAccessTraps : Prop :=
  (∀ (s : State) (i : Instr) (va : W64) (n : Nat),
    ((∃ d signed sc len, loadForm s i = some (d, va, n, signed, sc, len))
      ∨ (∃ v rel len, storeForm s i = some (va, v, n, rel, len)
        ∧ (s.me.guarded = false ∨ s.me.openBinding = false ∨ stripBytes s.me + n ≤ bufferBytes))
      ∨ (∃ op sc rel acq w d a b, atomicForm i = some (op, sc, rel, acq, w, d, a, b) ∧ va = s.rx a ∧ n = (if w then 8 else 4)
        ∧ (s.me.guarded = false ∨ s.me.openBinding = false))
      ∨ (∃ a b, i = .mwatch a b ∧ va = s.rx a ∧ n = 8)) →
    va.toNat % n ≠ 0 →
    ∃ t, exec i s = .next t ∧ t = s.setMe (s.me.trap { cause := 0x02, val := va }))
  ∧ (∀ (s : State) (i : Instr) (op : AmoOp) (sc : BitVec 3) (rel acq w : Bool) (d a b : Reg),
    atomicForm i = some (op, sc, rel, acq, w, d, a, b) → s.me.guarded = true → s.me.openBinding = true →
    exec i s = .next (s.setMe (s.me.trap { cause := 0x00, val := BitVec.ofNat 64 (ofLE ((encode i).take 4)) })))
  ∧ ∀ (s : State) (i : Instr) (va v : W64) (n : Nat) (rel : Option Nat) (len : Nat),
    storeForm s i = some (va, v, n, rel, len) → s.me.guarded = true → s.me.openBinding = true → bufferBytes < stripBytes s.me + n →
    exec i s = .next (s.setMe (s.me.trap { cause := 0x00, val := BitVec.ofNat 64 (ofLE ((encode i).take 4)) }))

/-- R48, R95, R155: an atomic that lands in the package completes, in an open guarded strip behind its commit: x[d] gets the old value,
sign-extended, and memory the new one, which the hart's scalar and vector accesses both see; no other byte changes once its release, its
acquire and the fetch of the line are done. -/
def Obligations.ScalarAtomicResult : Prop :=
  ∀ (s u : State) (i : Instr) (op : AmoOp) (sc : BitVec 3) (rel acq w : Bool) (d a b : Reg) (p : Place),
    atomicForm i = some (op, sc, rel, acq, w, d, a, b) → (acq = true → addPending s.me = false) →
    Lands s .rmw (s.rx a) (if w then 8 else 4) p → (∀ pa node x, p.loc ≠ .fabric pa node x) →
    CommitSteps s i
    ∧ (CommitsFirst s u → coreActive u s.cur = true → MemoryForm u → (rel = true → releaseReady u s.cur sc.toNat = true) →
      atomicPoison (atomicOrdered u sc.toNat rel acq) s.cur p sc.toNat (if w then 8 else 4) = none →
      InLine p.loc (if w then 8 else 4) →
      let n := if w then 8 else 4
      let r := atomicReady u p sc.toNat rel acq
      let old := ofLE (bytesAt r (vectorView s.cur) p.loc n)
      let new := toLE n (atomicNew op n old (u.rx b).toNat (u.rx d).toNat)
      ∃ t, exec i s = .next t ∧ t.rx d = shown d ((BitVec.ofNat (8 * n) old).signExtend 64)
        ∧ seenBytes t p n = new ∧ bytesAt t (vectorView s.cur) p.loc n = new
        ∧ OtherBytes r t p.loc n ∧ t.me.pc = u.me.pc + 4 ∧ KeepsRegs u t [d])

/-- R92: a fence with an empty set completes and orders nothing; another completes once the earlier accesses have, as a
release where its predecessor set holds W and as an acquire where its successor set holds R. Stores that an open guarded strip holds stay
held (log 66, DEDUCED). -/
def Obligations.FenceOrders : Prop :=
  (∀ (s : State) (sc : BitVec 3) (succ pred : BitVec 2), pred = 0 ∨ succ = 0 → exec (.fence sc succ pred) s = .next s.pass)
  ∧ ∀ (s : State) (sc : BitVec 3) (succ pred : BitVec 2), pred ≠ 0 → succ ≠ 0 → memPending s.me = false →
    (pred.getLsbD 0 = true → releaseReady s s.cur sc.toNat = true) → coreActive s s.cur = true →
    let r := if pred.getLsbD 0 then release s s.cur sc.toNat else s
    ∃ t, exec (.fence sc succ pred) s = .next t ∧ t.me.pc = s.me.pc + 4 ∧ KeepsRegs s t [] ∧ t.mem = r.mem
      ∧ (t.die (dieOf s.cur)).gen =
        (s.die (dieOf s.cur)).gen + (if succ.getLsbD 1 = true ∧ 3 ≤ sc.toNat then 1 else 0)

/-- R157, R158: `mwatch` arms the watch and compares; `mwait` answers 0 at once when unarmed, waits while no event has come,
and else reads the word as an acquire and disarms; MWAIT_WAKE ends the wait of a hart whose event bit is set. A handler that waits goes
from Trapped to Waiting and back (log 67, DEDUCED). -/
def Obligations.WatchAndWait : Prop :=
  (∀ (s : State) (a b : Reg) (p : Place), Lands s .load (s.rx a) 8 p → Sound s p 8 → coreActive s s.cur = true →
    ∃ t, exec (.mwatch a b) s = .next t ∧ t.me.pc = s.me.pc + 4 ∧ KeepsRegs s t []
      ∧ t.me.watch = watchSet (s.rx a) (s.rx b) (BitVec.ofNat 64 (ofLE (loadAt s s.cur (scalarView s.cur) p 8).2)) p.loc)
  ∧ (∀ (s : State) (sc : BitVec 3) (d : Reg), s.me.watch.armed = false →
    ∃ t, exec (.mwait sc d) s = .next t ∧ t.rx d = 0 ∧ t.me.pc = s.me.pc + 4 ∧ OnlyRegs s t [d])
  ∧ (∀ (s : State) (sc : BitVec 3) (d : Reg), s.me.watch.armed = true → s.me.watch.event = false →
    exec (.mwait sc d) s = .next (s.setMe { s.me with mode := .waiting (.mwait d sc) (s.me.mode == .trapped) }))
  ∧ (∀ (s : State) (sc : BitVec 3) (d : Reg) (p : Place), s.me.watch.armed = true → s.me.watch.event = true →
    watchBusy s.me = false → coreActive s s.cur = true → (s.me.mode = .running ∨ s.me.mode = .trapped) →
    locate s s.cur (spaceOf s s.cur) false .load s.me.watch.a = .ok p → devWaits s p = false → Sound (acquire s s.cur sc.toNat) p 8 →
    ∃ t, exec (.mwait sc d) s = .next t ∧ t.me.watch.armed = false ∧ t.me.pc = s.me.pc + 4 ∧ KeepsRegs s t [d]
      ∧ t.rx d = shown d (BitVec.ofNat 64 (ofLE (loadAt (acquire s s.cur sc.toNat) s.cur (scalarView s.cur) p 8).2)))
  ∧ ∀ (s : State) (sc : BitVec 3) (d : Reg) (handler : Bool) (p : Place), s.cur = s.input.hart → s.hold.phase = .none →
    s.me.mode = .waiting (.mwait d sc) handler → s.me.watch.armed = true → s.me.watch.event = true →
    watchBusy s.me = false → s.me.midGather = false → coreActive s s.cur = true →
    locate s s.cur (spaceOf s s.cur) false .load s.me.watch.a = .ok p → devWaits s p = false → Sound (acquire s s.cur sc.toNat) p 8 →
    ∃ t, exec .mwaitWake s = .next t ∧ t.me.mode = (if handler then .trapped else .running) ∧ t.me.watch.armed = false
      ∧ t.me.pc = s.me.pc + 4
      ∧ t.rx d = shown d (BitVec.ofNat 64 (ofLE (loadAt (acquire s s.cur sc.toNat) s.cur (scalarView s.cur) p 8).2))

namespace Sys2Proof.Claim

open Sys2Proof Sys2Proof.Machine

/-! ## Scalar floating point (R152, R153) -/

/-- R152: the format of a precision. -/
def precision (p : BitVec 2) : Fmt := if p = 0 then .fp32 else .fp64
def otherPrecision (p : BitVec 2) : Fmt := if p = 0 then .fp64 else .fp32

/-- R152: the bits of a register that a precision reads. -/
def fpBits (s : State) (f : Fmt) (r : Reg) : Nat := (s.rx r).toNat % 2 ^ f.width

/-- An exact result rounded by R61 and R64, and its flags with those of the operation. -/
def rounding (r : BitVec 3) (p : BitVec 2) (d : Reg) (x : Exact) (fl : Nat) : Reg × Nat × Nat :=
  let y := encodeFloat (precision p) (Rnd.ofCode r.toNat) true 0 x
  (d, y.bits, y.fl ||| fl)

/-- Destination, result and flags of a scalar floating-point instruction, from the table of R152 and from R153; a result is
rounded once, and its flags are those of R66 with NV and DZ as R55 has them. -/
def floatResult (s : State) : Instr → Option (Reg × Nat × Nat)
  | .fadd r p d a b =>
    let x := decodeFloat (precision p) (fpBits s (precision p) a)
    let y := decodeFloat (precision p) (fpBits s (precision p) b)
    some (rounding r p d (Exact.add (r == 2) x y) (if addInvalid x y then 16 else 0))
  | .fsub r p d a b =>
    let x := decodeFloat (precision p) (fpBits s (precision p) a)
    let y := (decodeFloat (precision p) (fpBits s (precision p) b)).negate
    some (rounding r p d (Exact.add (r == 2) x y) (if addInvalid x y then 16 else 0))
  | .fmul r p d a b =>
    let x := decodeFloat (precision p) (fpBits s (precision p) a)
    let y := decodeFloat (precision p) (fpBits s (precision p) b)
    some (rounding r p d (Exact.mul x y) (if mulInvalid x y then 16 else 0))
  | .fdiv r p d a b =>
    let x := decodeFloat (precision p) (fpBits s (precision p) a)
    let y := decodeFloat (precision p) (fpBits s (precision p) b)
    some (rounding r p d (Exact.div x y).1 (Exact.div x y).2)
  | .fsqrt r p d a =>
    let x := decodeFloat (precision p) (fpBits s (precision p) a)
    some (rounding r p d (Exact.sqrt x).1 (Exact.sqrt x).2)
  | .fmac r p d a b =>
    let x := fused (r == 2) (decodeFloat (precision p) (fpBits s (precision p) a))
      (decodeFloat (precision p) (fpBits s (precision p) b)) (decodeFloat (precision p) (fpBits s (precision p) d))
    some (rounding r p d x.1 x.2)
  | .fmin _ p d a b =>
    let x := decodeFloat (precision p) (fpBits s (precision p) a)
    let y := decodeFloat (precision p) (fpBits s (precision p) b)
    some (rounding 0 p d (Exact.minimum x y) 0)
  | .fmax _ p d a b =>
    let x := decodeFloat (precision p) (fpBits s (precision p) a)
    let y := decodeFloat (precision p) (fpBits s (precision p) b)
    some (rounding 0 p d (Exact.maximum x y) 0)
  | .feq _ p d a b =>
    let x := decodeFloat (precision p) (fpBits s (precision p) a)
    let y := decodeFloat (precision p) (fpBits s (precision p) b)
    some (d, if x.eqv y then 1 else 0, 0)
  | .flt _ p d a b =>
    let x := decodeFloat (precision p) (fpBits s (precision p) a)
    let y := decodeFloat (precision p) (fpBits s (precision p) b)
    some (d, if x.lt y then 1 else 0, if x.isNaN || y.isNaN then 16 else 0)
  | .fle _ p d a b =>
    let x := decodeFloat (precision p) (fpBits s (precision p) a)
    let y := decodeFloat (precision p) (fpBits s (precision p) b)
    some (d, if x.le y then 1 else 0, if x.isNaN || y.isNaN then 16 else 0)
  | .fcls _ p d a => some (d, classMask (precision p) (decodeFloat (precision p) (fpBits s (precision p) a)), 0)
  | .fcvti r p d a =>
    let y := encodeInt .s64 (Rnd.ofCode r.toNat) true 0 (decodeFloat (precision p) (fpBits s (precision p) a))
    some (d, y.bits, y.fl)
  | .fcvtf r p d a => some (rounding r p d (.ofInt (s.rx a).toInt) 0)
  | .fcvtp r p d a => some (rounding r p d (decodeFloat (otherPrecision p) (fpBits s (otherPrecision p) a)) 0)
  | .fsgnj _ p d a b =>
    let w := (precision p).width
    let x := fpBits s (precision p) a
    some (d, if (decodeFloat (precision p) x).isNaN then (precision p).nanCode
      else x % 2 ^ (w - 1) + (if (s.rx b).getLsbD (w - 1) then 2 ^ (w - 1) else 0), 0)
  | _ => none

/-- R53: exponent bits, fraction bits and bias of FP32 and FP64. -/
def shape (p : BitVec 2) : Nat × Nat × Int := if p = 0 then (8, 23, 127) else (11, 52, 1023)

/-- R53: a code stands for a finite value. -/
def finiteCode (p : BitVec 2) (x : Nat) : Prop :=
  let (eb, fb, _) := shape p
  x < 2 ^ (eb + fb + 1) ∧ x / 2 ^ fb % 2 ^ eb + 1 < 2 ^ eb

/-- R53: the number that a finite code stands for. -/
def codeValue (p : BitVec 2) (x : Nat) : ℚ :=
  let (eb, fb, bias) := shape p
  let e := x / 2 ^ fb % 2 ^ eb
  let m : ℚ := if e = 0 then ((x % 2 ^ fb : Nat) : ℚ) * 2 ^ (1 - bias - fb) else ((2 ^ fb + x % 2 ^ fb : Nat) : ℚ) * 2 ^ ((e : Int) - bias - fb)
  if x / 2 ^ (eb + fb) % 2 = 1 then -m else m

/-- R53: the largest finite magnitude. -/
def largestValue (p : BitVec 2) : ℚ := if p = 0 then (2 ^ 24 - 1) * 2 ^ (104 : Int) else (2 ^ 53 - 1) * 2 ^ (971 : Int)

/-- R61: the code `y` is the number `x` rounded under the mode `r` (R152). -/
def RoundedTo (p : BitVec 2) (r : BitVec 3) (x : ℚ) (y : Nat) : Prop :=
  let v := codeValue p y
  finiteCode p y ∧
  (r = 0 → (∀ z, finiteCode p z → |v - x| ≤ |codeValue p z - x|)
    ∧ ∀ z, finiteCode p z → |v - x| = |codeValue p z - x| → codeValue p z ≠ v → y % 2 = 0)
  ∧ (r = 1 → |v| ≤ |x| ∧ 0 ≤ v * x ∧ ∀ z, finiteCode p z → |codeValue p z| ≤ |x| → |codeValue p z| ≤ |v|)
  ∧ (r = 2 → v ≤ x ∧ ∀ z, finiteCode p z → codeValue p z ≤ x → codeValue p z ≤ v)
  ∧ (r = 3 → x ≤ v ∧ ∀ z, finiteCode p z → x ≤ codeValue p z → v ≤ codeValue p z)
  ∧ (r = 4 → (∀ z, finiteCode p z → |v - x| ≤ |codeValue p z - x|)
    ∧ ∀ z, finiteCode p z → |v - x| = |codeValue p z - x| → codeValue p z ≠ v → |codeValue p z| < |v|)

/-- The exact real result of an instruction with finite operands, its destination, rounding and precision. -/
def exactResult (s : State) : Instr → Option (Reg × BitVec 3 × BitVec 2 × List (BitVec 2 × Nat) × ℚ)
  | .fadd r p d a b =>
    let x := fpBits s (precision p) a
    let y := fpBits s (precision p) b
    some (d, r, p, [(p, x), (p, y)], codeValue p x + codeValue p y)
  | .fsub r p d a b =>
    let x := fpBits s (precision p) a
    let y := fpBits s (precision p) b
    some (d, r, p, [(p, x), (p, y)], codeValue p x - codeValue p y)
  | .fmul r p d a b =>
    let x := fpBits s (precision p) a
    let y := fpBits s (precision p) b
    some (d, r, p, [(p, x), (p, y)], codeValue p x * codeValue p y)
  | .fmac r p d a b =>
    let x := fpBits s (precision p) a
    let y := fpBits s (precision p) b
    let z := fpBits s (precision p) d
    some (d, r, p, [(p, x), (p, y), (p, z)], codeValue p x * codeValue p y + codeValue p z)
  | .fcvtf r p d a => some (d, r, p, [], ((s.rx a).toInt : ℚ))
  | .fcvtp r p d a =>
    let q : BitVec 2 := if p = 0 then 1 else 0
    let x := fpBits s (otherPrecision p) a
    some (d, r, p, [(q, x)], codeValue q x)
  | _ => none

/-! ## Control words (R139, R159, R160) -/

/-- R160: the words whose access waits for the queues. -/
def waitsForQueues (n : Nat) : Prop :=
  n ∈ [0x01F, 0x02B, 0x028, 0x029, 0x02A, 0x020, 0x01A, 0x061, 0x030, 0x031, 0x032, 0x033, 0x034, 0x035, 0x036]

/-- R292: the lowest privilege that reaches a word. -/
def Reaches (p : Priv) (n : Nat) : Prop := n < 0x400 ∨ (p = .sup ∧ n < 0x800) ∨ p = .fw

/-- An access to word `n` completes now (R160, R206): the queues are drained for the words that wait for them, and no `vld.ff` is
queued for `cw.vl` and `cw.vgrp`. -/
def AccessReady (s : State) (n : Nat) : Prop :=
  Reaches s.me.priv n ∧ (waitsForQueues n → s.me.drained = true ∧ s.me.openBinding = false)
  ∧ (n = 0x010 ∨ n = 0x011 → s.me.firstFaultPending = false)

/-- The RW fields of the user words that store what is written (R26, R45, R63, R66, R168, R193, R211, R217, R277). -/
def userFields : List (Nat × W64) :=
  [(0x012, 0xFF), (0x018, 0xFFFFFFFF00000003), (0x019, 0x9F9F9F9F), (0x01A, 0x007FFFFFFFFFFFF8), (0x01F, 0x1F), (0x020, 0xFFFFFFFFFFFFFFFF),
   (0x028, 0xFFFFFFFF), (0x029, 0xFFFFFFFF), (0x02A, 0xFFFFFFFF), (0x02B, 0x1FFF), (0x030, 0x007FFFFFFFFFFFC0), (0x031, 0x7FFFFFFF),
   (0x032, 0x007FFFFFFFFFFFF0), (0x033, 0x007FFFFFFFFFFFF0), (0x040, 0x007FFFFFFFFFFFFE), (0x042, 0x3E), (0x048, 0x0000FFFFFFFFFFFF)]

/-- The RW fields of the privileged words that one hart stores as they are written (R294, R295, R335, R313, R347, R379). -/
def privilegedFields : List (Nat × W64) :=
  [(0x400, 0x007FFFFFFFFFFFFE), (0x401, 0x1F), (0x402, 0xFFFFFFFFFFFFFFFF), (0x403, 0xFFFFFFFFFFFFFFFF), (0x405, 0xFFFFFFFFFF),
   (0x406, 0xFFFFFFFFFFFFFFFF), (0x407, 0xFFFFFFFFFFFFFFFF), (0x409, 0xFFFFFFFF), (0x441, 0xFFFF), (0x442, 0xFFFF),
   (0x800, 0x007FFFFFFFFFFFFE), (0x801, 0x1F), (0x802, 0xFFFFFFFFFFFFFFFF), (0x803, 0xFFFFFFFFFFFFFFFF), (0x805, 0xFFFFFFFFFF),
   (0x806, 0xFFFFFFFFFFFFFFFF), (0x807, 0xFFFFFFFFFFFFFFFF), (0x808, 0x1DFFFF), (0x840, 0x000FFFFFFFFF8000), (0x843, 0xFFFF),
   (0x844, 0xFFFFFFFF), (0x8C1, 0x0FFFFFF8)]

/-- The words with one RW field whose write keeps within limits: the field's mask and the number stored for the one written (R34, R223,
R259, R295, R358, R382, R383). -/
def limitedFields : List (Nat × W64 × (Nat → Nat)) :=
  [(0x014, 0x1F, fun v => max 1 (min 16 v)), (0x058, 0xF, fun v => max 1 v), (0x061, 0x1FF, fun v => min 256 v),
   (0x408, 0xFFFFFFFF, fun v => max 1 v), (0x842, 3, fun v => if v = 0 then 3 else v), (0x880, 0xFFF, fun v => max 1200 (min 2400 v))]

/-- The words without an RW or a W1C field (R162, R294, R295, R313, R364, R371, R384, R391), but for those that a read pops. -/
def readOnlyWords : List Nat :=
  [0x000, 0x002, 0x003, 0x010, 0x011, 0x013, 0x015, 0x016, 0x021, 0x034, 0x035, 0x036, 0x041, 0x049, 0x050, 0x051, 0x060, 0x068, 0x069,
   0x40D, 0x482, 0x483, 0x484, 0x4C2, 0x4C4, 0x4C5, 0x881, 0x886]

/-- The bits that a CW instruction writes with 1, as W1C fields take them (R159). -/
def writtenOnes (s : State) : Instr → W64
  | .cww _ _ a | .cwset _ _ a => s.rx a
  | _ => 0

/-- A CW instruction that writes: word, destination, and the value it makes of the old one. -/
def cwForm (s : State) : Instr → Option (BitVec 12 × Reg × (W64 → W64))
  | .cww c d a => some (c, d, fun _ => s.rx a)
  | .cwset c d a => some (c, d, fun old => old ||| s.rx a)
  | .cwclr c d a => some (c, d, fun old => old &&& ~~~s.rx a)
  | _ => none

/-! ## Traps (R293, R297 to R299) -/

/-- Hart `i` takes a trap at its scalar trap point (R293, R297, R298): the level's words are written, the queues go to the level's
image, and the front end goes to the handler; the hart's registers and control words, the other level's words, the other harts and
the memories are as before. -/
def TrapTaken (s t : State) (i : Nat) (r : TrapInfo) : Prop :=
  let h := s.hart i
  let g := t.hart i
  let L : Priv := if h.priv = .user ∧ h.sw.fdeleg.getLsbD r.cause.toNat = true then .sup else .fw
  let w := g.level L
  g.priv = L ∧ g.mode = .trapped ∧ g.pc = (h.level L).tvec
  ∧ w.cause.toNat = r.cause.toNat ∧ w.val = r.val ∧ w.pc = h.pc ∧ w.elem = BitVec.ofNat 64 r.idx ∧ w.seq = r.seq
  ∧ fld w.stat 1 0 = h.priv.code ∧ fld w.stat 15 8 = r.code.toNat ∧ w.stat.getLsbD 7 = r.cf ∧ w.stat.getLsbD 6 = r.sp
  ∧ w.stat.getLsbD 4 = r.vf ∧ w.tvec = (h.level L).tvec ∧ w.scratch = (h.level L).scratch
  ∧ (h.vq = [] ∧ h.mq = [] → w.stat.getLsbD 5 = (h.level L).stat.getLsbD 5 ∧ w.image = (h.level L).image)
  ∧ (¬(h.vq = [] ∧ h.mq = []) →
      w.stat.getLsbD 5 = true ∧ w.image = (h.vq ++ h.mq).map QEntry.stopped)
  ∧ g.vq = [] ∧ g.mq = [] ∧ g.x = h.x ∧ g.v = h.v ∧ g.m = h.m ∧ g.q = h.q ∧ g.uw = h.uw ∧ g.sw = h.sw
  ∧ (∀ M, M ≠ L → M ≠ .user → g.level M = h.level M)
  ∧ (∀ j, j ≠ i → t.hart j = s.hart j) ∧ t.mem = s.mem ∧ t.cores = s.cores ∧ t.dies = s.dies ∧ t.fab = s.fab

/-- R306: at its wake, a hart in `wfi`, or in `pgate`, which waits like it, stands at the next instruction. -/
def atWake (s : State) (i : Nat) : State :=
  match (s.hart i).mode with
  | .waiting .wfi _ | .waiting (.pgate _) _ => s.setHart i { s.hart i with pc := (s.hart i).pc + 4 }
  | _ => s

/-- A cause is never rolled back at hart `i` (R49): the causes 0x09 and 0x0D in a guarded strip are. -/
def NotRolledBack (s : State) (i : Nat) (c : BitVec 5) : Prop := (s.hart i).guarded = false ∨ (c ≠ 0x09 ∧ c ≠ 0x0D)

/-- The privileged instructions (R140). -/
def privilegedInstr : Instr → Bool
  | .sret | .wfi | .pgate _ | .hstart .. | .hstop _ | .tlbinv .. | .vqsave _ | .vqload _ | .chsave _ | .chload _ => true
  | _ => false

/-- The first 32 bits of an instruction as a trap records them (R298). -/
def firstBits (i : Instr) : W64 := BitVec.ofNat 64 (ofLE ((encode i).take 4))

end Sys2Proof.Claim

/-- R152, R153, R66: every scalar floating-point instruction completes: x[d] gets its result, which an FP32 result fills with
zeros above, flags are only ever added to `cw.fflags`, and nothing else changes. -/
def Obligations.ScalarFloatResults : Prop :=
  ∀ (s : State) (i : Instr) (d : Reg) (v fl : Nat), i.wf = true → floatResult s i = some (d, v, fl) →
    ∃ t, exec i s = .next t ∧ t.rx d = shown d (BitVec.ofNat 64 v) ∧ v < 2 ^ 64 ∧ fl < 32
      ∧ t.me.uw.fflags = s.me.uw.fflags ||| BitVec.ofNat 64 fl
      ∧ t = s.setMe { s.me with x := t.me.x, sram := t.me.sram, pc := s.me.pc + 4, uw := { s.me.uw with fflags := t.me.uw.fflags } }
      ∧ t.me.sram = s.me.sram.filter (fun m => !(d != 0 && m.1 == .x d.toNat))
      ∧ ∀ r, r ≠ d → t.rx r = s.rx r

/-- R61: a scalar sum, difference, product, fused multiply-add or conversion of finite operands whose exact value lies within
the precision's range is that exact real value, rounded once under the instruction's mode. -/
def Obligations.ScalarFloatRoundsExactValueOnce : Prop :=
  ∀ (s : State) (i : Instr) (d : Reg) (r : BitVec 3) (p : BitVec 2) (ops : List (BitVec 2 × Nat)) (x : ℚ),
    i.wf = true → exactResult s i = some (d, r, p, ops, x) → (∀ o ∈ ops, finiteCode o.1 o.2) → |x| ≤ largestValue p → d ≠ 0 →
    ∃ t, exec i s = .next t ∧ RoundedTo p r x (t.rx d).toNat


/-- R139, R159, R160, R206: a read of a control word that its hart may reach, with the queues in the state that R160 and R206 ask for,
completes: x[d] gets the word's value, and but for the words that a read pops nothing else changes. -/
def Sys2Proof.Claim.WordReads : Prop :=
  ∀ (s : State) (c : BitVec 12) (d : Reg), cwAssigned c = true → AccessReady s c.toNat →
    ∃ t, exec (.cwr c d) s = .next t ∧ t.rx d = shown d (cwValue s s.cur c.toNat) ∧ t.me.pc = s.me.pc + 4
      ∧ (c ≠ 0x40C ∧ c ≠ 0x4C1 ∧ c ≠ 0x8C2 → OnlyRegs s t [d])

/-- R159: `cww`, `cwset` and `cwclr` return the old value and leave the word with its RW fields written, and its other
bits zero, and every other user word as it was, but for those that R217 and R277 name. -/
def Sys2Proof.Claim.WordWrites : Prop :=
  ∀ (s : State) (i : Instr) (c : BitVec 12) (d : Reg) (f : W64 → W64) (mask : W64),
    cwForm s i = some (c, d, f) → AccessReady s c.toNat →
    ((c.toNat, mask) ∈ userFields ∧ (c = 0x012 → s.me.priv = .user)) ∨ (c.toNat, mask) ∈ privilegedFields →
    ∃ t, exec i s = .next t ∧ t.rx d = shown d (cwValue s s.cur c.toNat) ∧ t.me.pc = s.me.pc + 4
      ∧ cwValue t t.cur c.toNat = f (cwValue s s.cur c.toNat) &&& mask
      ∧ (∀ r, r ≠ d → t.rx r = s.rx r) ∧ t.mem = s.mem
      ∧ ∀ n, n < 0x400 → n ≠ c.toNat → n ≠ 0x015 → (c ≠ 0x048 ∨ n ≠ 0x049) →
        (¬(0x030 ≤ c.toNat ∧ c.toNat ≤ 0x033) ∨ n ≠ 0x036) → cwValue t t.cur n = cwValue s s.cur n

/-- R34, R159, R223, R259: a write of a word whose field has limits stores the nearest value that its rule gives, and every other user
word stays as it was. -/
def Sys2Proof.Claim.WordLimits : Prop :=
  ∀ (s : State) (i : Instr) (c : BitVec 12) (d : Reg) (f : W64 → W64) (mask : W64) (g : Nat → Nat),
    cwForm s i = some (c, d, f) → AccessReady s c.toNat → (c.toNat, mask, g) ∈ limitedFields →
    ∃ t, exec i s = .next t ∧ t.rx d = shown d (cwValue s s.cur c.toNat) ∧ t.me.pc = s.me.pc + 4
      ∧ cwValue t t.cur c.toNat = BitVec.ofNat 64 (g (f (cwValue s s.cur c.toNat) &&& mask).toNat)
      ∧ (∀ r, r ≠ d → t.rx r = s.rx r) ∧ t.mem = s.mem
      ∧ ∀ n, n < 0x400 → n ≠ c.toNat → n ≠ 0x015 → cwValue t t.cur n = cwValue s s.cur n

/-- R3, R4, R159: a write of a word without a writable field returns its value and changes nothing. -/
def Sys2Proof.Claim.ReadOnlyWordsKeep : Prop :=
  ∀ (s : State) (i : Instr) (c : BitVec 12) (d : Reg) (f : W64 → W64), cwForm s i = some (c, d, f) → AccessReady s c.toNat →
    c.toNat ∈ readOnlyWords →
    ∃ t, exec i s = .next t ∧ t.rx d = shown d (cwValue s s.cur c.toNat) ∧ t.me.pc = s.me.pc + 4 ∧ OnlyRegs s t [d]

/-- R159, R294: a write of a level's status word: its RW fields are written, the privilege to return to within its limit; `qi` is
cleared by a 1 written to it, with the level's image, and no write sets it. -/
def Sys2Proof.Claim.StatusWordWrites : Prop :=
  ∀ (s : State) (i : Instr) (c : BitVec 12) (d : Reg) (f : W64 → W64) (L : Priv), cwForm s i = some (c, d, f) →
    Reaches s.me.priv c.toNat → (c = 0x404 ∧ L = .sup) ∨ (c = 0x804 ∧ L = .fw) →
    let old := cwValue s s.cur c.toNat
    ∃ t, exec i s = .next t ∧ t.rx d = shown d old ∧ t.me.pc = s.me.pc + 4
      ∧ cwValue t t.cur c.toNat &&& 0xFFFFFFFFFFFFFFDC = f old &&& 0xFFD0
      ∧ fld (cwValue t t.cur c.toNat) 1 0 = min L.code (fld (f old) 1 0)
      ∧ (cwValue t t.cur c.toNat).getLsbD 5 = (old.getLsbD 5 && !(writtenOnes s i).getLsbD 5)
      ∧ (t.me.level L).image = (if (writtenOnes s i).getLsbD 5 then [] else (s.me.level L).image)
      ∧ (∀ r, r ≠ d → t.rx r = s.rx r) ∧ t.mem = s.mem

/-- R139, R159, R160: reads and writes of the control words. -/
def Obligations.ControlWordAccess : Prop :=
  Sys2Proof.Claim.WordReads ∧ Sys2Proof.Claim.WordWrites ∧ Sys2Proof.Claim.WordLimits ∧ Sys2Proof.Claim.ReadOnlyWordsKeep
  ∧ Sys2Proof.Claim.StatusWordWrites


/-- R139, R298: a CW instruction on a word that exists and that the hart's privilege does not reach traps with cause 0x01 and the
instruction's first 32 bits, and does nothing else. -/
def Sys2Proof.Claim.WordPrivilege : Prop :=
  ∀ (s : State) (c : BitVec 12) (d a : Reg), cwAssigned c = true → ¬Reaches s.me.priv c.toNat →
    (∃ t, exec (.cwr c d) s = .next t ∧ TrapTaken s t s.cur { cause := 0x01, val := firstBits (.cwr c d) })
    ∧ (∃ t, exec (.cww c d a) s = .next t ∧ TrapTaken s t s.cur { cause := 0x01, val := firstBits (.cww c d a) })
    ∧ (∃ t, exec (.cwset c d a) s = .next t ∧ TrapTaken s t s.cur { cause := 0x01, val := firstBits (.cwset c d a) })
    ∧ ∃ t, exec (.cwclr c d a) s = .next t ∧ TrapTaken s t s.cur { cause := 0x01, val := firstBits (.cwclr c d a) }

/-- R140, R303: at user privilege each of the ten privileged instructions traps with cause 0x01 and does nothing else. -/
def Sys2Proof.Claim.PrivilegedTrapsAtUser : Prop :=
  ∀ (s : State) (i : Instr), i.wf = true → privilegedInstr i = true → s.me.priv = .user →
    ∃ t, exec i s = .next t ∧ TrapTaken s t s.cur { cause := 0x01, val := firstBits i }

/-- R139, R140, R303: what a privilege does not reach traps with cause 0x01 and does nothing else. -/
def Obligations.PrivilegeTraps : Prop := Sys2Proof.Claim.WordPrivilege ∧ Sys2Proof.Claim.PrivilegedTrapsAtUser


/-- R163: `svc` traps with cause 0x07 behind itself, `brk` with cause 0x08 at itself; the record carries the code, and queued
instructions go to the image. -/
def Obligations.SvcAndBrkTrap : Prop :=
  (∀ (s : State) (k : BitVec 5), ∃ t, exec (.svc k) s = .next t
    ∧ TrapTaken (s.setMe { s.me with pc := s.me.pc + 4 }) t s.cur { cause := 0x07, code := k.setWidth 8 })
  ∧ (∀ (s : State) (k : BitVec 5), ∃ t, exec (.brk k) s = .next t ∧ TrapTaken s t s.cur { cause := 0x08, code := k.setWidth 8 })
  ∧ ∀ k : BitVec 5, encode (.svc k) = qWord k 0 0 0 0 0x19 ∧ encode (.brk k) = qWord k 1 0 0 0 0x19

/-- R250, R251, R291, R296, R297, R320, R359: TRAP_ENTRY takes the fault of the oldest queued instruction, whatever else is ready, once a
gathering group in progress has committed; at a user context in Waiting with no such fault it takes the first copy or stream fault, lowest
channel first; with none the oldest failed remote store; and with none of these a pre-emption, after which the arbiter runs. -/
def Obligations.TrapEntryTakesOldestQueueFault : Prop :=
  (∀ (s : State) (e : QEntry) (r : TrapInfo), (s.hart s.input.hart).mode ≠ .free → s.hold.phase = .none →
    coreActive s s.input.hart = true → (s.hart s.input.hart).remote = none → (s.hart s.input.hart).midGather = false →
    e ∈ (s.hart s.input.hart).vq ++ (s.hart s.input.hart).mq → e.fault = some r →
    (∀ f ∈ (s.hart s.input.hart).vq ++ (s.hart s.input.hart).mq, f.fault.isSome = true → f ≠ e → e.seq < f.seq) →
    r.sp = false → r.err = none → r.idx < 2 ^ 40 → NotRolledBack s s.input.hart r.cause →
    ∃ t, exec .trapEntry s = .next t ∧ TrapTaken (atWake s s.input.hart) t s.input.hart r)
  ∧ (∀ (s : State) (n : BitVec 4) (p : Priv × TrapInfo) (l : List (Priv × TrapInfo)), let h := s.hart s.input.hart
    h.mode = .waiting (.hbar n) false → s.hold.phase = .none → coreActive s s.input.hart = true → h.remote = none →
    h.queueFault = none → h.midGather = false → h.committing = false → h.priv = .user → h.frames = [] → p.2.idx < 2 ^ 40 → p.2.sp = false →
    (h.ch.toList.flatMap Channel.faults = p :: l → ∃ t, exec .trapEntry s = .next t ∧ TrapTaken s t s.input.hart p.2)
    ∧ (h.ch.toList.flatMap Channel.faults = [] → h.storeFaults = p :: l →
      ∃ t, exec .trapEntry s = .next t ∧ TrapTaken s t s.input.hart p.2 ∧ (t.hart s.input.hart).storeFaults = l))
  ∧ ∀ (s : State) (n : BitVec 4), (s.hart s.input.hart).mode = .waiting (.hbar n) false → s.hold.phase = .none →
    coreActive s s.input.hart = true → (s.hart s.input.hart).remote = none → (s.hart s.input.hart).queueFault = none →
    (s.hart s.input.hart).midGather = false → (s.hart s.input.hart).committing = false →
    (s.hart s.input.hart).priv = .user → (s.hart s.input.hart).copyFault = none → (s.hart s.input.hart).spineTrap = none →
    (s.hart s.input.hart).frames = [] → (s.hart s.input.hart).guarded = false → (s.hart s.input.hart).sw.fdeleg.getLsbD 16 = true →
    ∀ c l, (s.hart s.input.hart).preempt = c :: l → c < 256 →
    ∃ t, exec .trapEntry s = .next t ∧ (t.hart s.input.hart).mode = .trapped ∧ (t.hart s.input.hart).priv = .sup
      ∧ (t.hart s.input.hart).sup.cause = 0x10 ∧ fld (t.hart s.input.hart).sup.stat 15 8 = c
      ∧ (t.hart s.input.hart).sup.pc = (s.hart s.input.hart).pc ∧ (t.hart s.input.hart).preempt = l
      ∧ (t.hart s.input.hart).chStopped = true ∧ (t.hart s.input.hart).x = (s.hart s.input.hart).x
      ∧ (t.core (coreOf s.input.hart)).arb = true

/-- R127, R297, R299: `sret` undoes a trap: a hart at user privilege that took a trap at the supervisor and executes `sret` there
goes on at the even address where the trap was taken, with its queues, registers and control words as they were. -/
def Obligations.TrapReturnRestores : Prop :=
  ∀ (s : State) (r : TrapInfo), r.sp = false → r.err = none → s.me.priv = .user → s.me.mode = .running →
    s.me.sw.fdeleg.getLsbD r.cause.toNat = true → s.me.sup.stat.getLsbD 5 = false →
    (∀ e ∈ s.me.vq, isMatrix e.instr = false) → (∀ e ∈ s.me.mq, isMatrix e.instr = true) →
    ∃ t, exec .sret (trapEnter s s.cur r) = .next t ∧ t.me.priv = .user ∧ t.me.mode = .running ∧ t.me.pc = s.me.pc &&& ~~~1
      ∧ t.me.vq = s.me.vq.map QEntry.stopped ∧ t.me.mq = s.me.mq.map QEntry.stopped
      ∧ t.me.x = s.me.x ∧ t.me.v = s.me.v ∧ t.me.m = s.me.m ∧ t.me.uw = s.me.uw ∧ t.me.sw = s.me.sw ∧ t.me.fwl = s.me.fwl
      ∧ t.me.sup.stat.getLsbD 5 = false ∧ t.mem = s.mem ∧ ∀ j, j ≠ s.cur → t.hart j = s.hart j

/-- R127, R299, R163: `sret` behind any trap of a supervisor or firmware level returns to the level's recorded pc, as an instruction
address with bit 0 clear, and privilege, with the image of the level in the queues. -/
def Obligations.SretReturnsFromTheLevelInForce : Prop :=
  ∀ (s : State) (L : Priv), L ≠ .user → s.me.priv = L → (s.me.level L).stat.getLsbD 6 = false → fld (s.me.level L).stat 1 0 ≤ 2 →
    ∃ t, exec .sret s = .next t ∧ t.me.pc = (s.me.level L).pc &&& ~~~1 ∧ t.me.priv.code = fld (s.me.level L).stat 1 0
      ∧ ((s.me.level L).stat.getLsbD 5 = true → (t.me.level L).stat.getLsbD 5 = false
        ∧ t.me.vq = (s.me.level L).image.filter (fun e => !isMatrix e.instr)
        ∧ t.me.mq = (s.me.level L).image.filter (fun e => isMatrix e.instr))
      ∧ ((s.me.level L).stat.getLsbD 5 = false → t.me.vq = s.me.vq ∧ t.me.mq = s.me.mq ∧ (t.me.level L) = s.me.level L)
      ∧ t.me.x = s.me.x ∧ t.me.v = s.me.v ∧ t.me.uw = s.me.uw ∧ t.mem = s.mem ∧ ∀ j, j ≠ s.cur → t.hart j = s.hart j


namespace Sys2Proof.Claim

open Sys2Proof Sys2Proof.Machine

/-- Only the moving hart differs. -/
def OnlyMe (s t : State) : Prop := t = s.setMe t.me

/-- The registers and words that a front-end instruction leaves alone but for the pc: x, vector, mask and queue registers,
control words, trap words, privilege. -/
def SameRegs (g h : Hart) : Prop :=
  g.x = h.x ∧ g.v = h.v ∧ g.m = h.m ∧ g.q = h.q ∧ g.uw = h.uw ∧ g.sw = h.sw ∧ g.sup = h.sup ∧ g.fwl = h.fwl ∧ g.priv = h.priv
  ∧ g.vq = h.vq ∧ g.mq = h.mq

/-- R161: gang id, rank and size of a hart. -/
def gangId (h : Hart) : Nat := fld h.uw.gang 63 32
def gangRank (h : Hart) : Nat := fld h.uw.gang 31 16
def gangCount (h : Hart) : Nat := fld h.uw.gang 15 0

/-- R340: the cores within a scope of a hart: its core, its die, its partition's whole package. -/
def InScope (sc : BitVec 3) (i c : Nat) : Prop := c = coreOf i ∨ (sc = 2 ∧ dieOfCore c = dieOf i) ∨ sc = 3

/-- R340: an entry that a `tlbinv` with address `va` and space word `w` names. -/
def Names (e : Tlb) (slot : Option Nat) (va w : W64) : Prop :=
  e.slot = slot ∧ (e.g = true ∨ w.getLsbD 16 = true ∨ e.asid.toNat = w.toNat % 2 ^ 16)
  ∧ (va = ~~~0 ∨ va.toNat % 2 ^ 55 / 2 ^ e.bits * 2 ^ e.bits = e.va)

/-- R344: the address space whose version bits the hart's `verflip` toggles. -/
def flipped (h : Hart) : Nat := if h.priv = .sup then h.sw.skasid.toNat % 2 ^ 16 else h.sw.sasid.toNat % 2 ^ 16

/-- The words of the context block at a byte offset (R301). -/
def blockAt (l : List W64) (o : Nat) : W64 := l.getD (o / 8) 0

/-- R303: the checks that the save and load instructions share have passed. -/
def AreaReady (s : State) (a : Reg) (acc : Acc) (n : Nat) : Prop :=
  s.me.priv ≠ .user ∧ (s.rx a).toNat % 64 = 0 ∧ checkRange s s.cur (spaceOf s s.cur) acc (s.rx a) n = .ok ()
  ∧ s.me.levelDone = true

end Sys2Proof.Claim

/-- R164: `hint` never changes architectural state: code 0 holds the front end unless the watch has an event, code 1 waits for
the queues, and every other code retires at once; HINT_PAUSE_END ends the hold. -/
def Obligations.HintsChangeNothing : Prop :=
  (∀ (s : State) (k : BitVec 5), k ≠ 0 → k ≠ 1 → exec (.hint k) s = .next (s.setMe { s.me with pc := s.me.pc + 4 }))
  ∧ (∀ s : State, s.me.vq = [] → s.me.mq = [] → exec (.hint 1) s = .next (s.setMe { s.me with pc := s.me.pc + 4 }))
  ∧ (∀ s : State, s.me.vq ≠ [] ∨ s.me.mq ≠ [] → exec (.hint 1) s = .next s)
  ∧ (∀ s : State, ∃ t, exec (.hint 0) s = .next t ∧ t.me.pc = s.me.pc + 4 ∧ SameRegs t.me s.me ∧ OnlyMe s t
      ∧ (t.me.paused = true ↔ ¬(s.me.watch.armed = true ∧ s.me.watch.event = true)))
  ∧ ∀ s : State, exec .hintPauseEnd s = .next (s.setHart s.input.hart { s.hart s.input.hart with paused := false })

/-- R306, R328: `wfi` and a legal `pgate` put the hart in Waiting at the instruction; WFI_WAKE completes either once a cause
is ready, the watch has an event or an `hstop` has come, on an active core; a `pgate` with a reserved request traps, with 0 as the trap
value (log 63, DEDUCED). -/
def Obligations.WaitsForEvents : Prop :=
  (∀ s : State, s.me.priv ≠ .user →
    exec .wfi s = .next (s.setMe { s.me with mode := .waiting .wfi (s.me.mode == .trapped) }))
  ∧ (∀ (s : State) (a : Reg), s.me.priv ≠ .user → (s.rx a).toNat ≤ 1 →
    exec (.pgate a) s = .next (s.setMe { s.me with mode := .waiting (.pgate (s.rx a).toNat) (s.me.mode == .trapped) }))
  ∧ (∀ (s : State) (a : Reg), s.me.priv ≠ .user → 1 < (s.rx a).toNat →
    ∃ t, exec (.pgate a) s = .next t ∧ TrapTaken s t s.cur { cause := 0x06 })
  ∧ ∀ (s : State) (handler : Bool), let h := s.hart s.input.hart
    h.mode = .waiting .wfi handler ∨ (∃ n, h.mode = .waiting (.pgate n) handler) → coreActive s s.input.hart = true →
    s.hold.phase = .none →
    (h.watch.armed = true ∧ h.watch.event = true) ∨ 1 ∈ h.preempt ∨ h.queueFault.isSome = true →
    ∃ t, exec .wfiWake s = .next t ∧ (t.hart s.input.hart).mode = (if handler then .trapped else .running)
      ∧ (t.hart s.input.hart).pc = h.pc + 4 ∧ SameRegs (t.hart s.input.hart) h ∧ t.mem = s.mem

/-- R169: of the events that are pending and unmasked, the one of the lowest cause, then of the lowest unit, is next. -/
def Sys2Proof.Claim.LowestEventFirst : Prop :=
  ∀ (h : Hart) (c u c' u' : Nat), h.uiNext = some (c, u) → (c', u') ∈ uiPairs →
    h.uipend.getLsbD (uiBit c' u') = true → h.uw.uimask.getLsbD c' = true → c < c' ∨ (c = c' ∧ u ≤ u')

/-- R168 to R171: the delivery of a user-level interrupt outside a guarded strip saves six registers in the shadow, links x1,
puts the cause word into x5 and `cw.uicause`, clears the pending bit and goes to `cw.uivec`, and `uiret` undoes it. -/
def Sys2Proof.Claim.InterruptAndReturn : Prop :=
  (∀ (s : State) (c u : Nat), s.cur = s.input.hart → s.hold.phase = .none → coreActive s s.cur = true →
    s.me.uiReady = true → s.me.guarded = false → s.me.uiNext = some (c, u) →
    ∃ t, exec .uiDelivery s = .next t ∧ t.rx 1 = s.me.pc ∧ t.rx 5 = t.me.uw.uicause ∧ fld t.me.uw.uicause 3 0 = c
      ∧ t.me.uw.uicause.getLsbD 4 = true ∧ fld t.me.uw.uicause 15 8 = u
      ∧ fld t.me.uw.uicause 63 16 = (kget 0 s.me.uidetail (uiBit c u)).toNat % 2 ^ 48
      ∧ t.me.shadow = [s.rx 1, s.rx 5, s.rx 6, s.rx 7, s.rx 8, s.rx 9] ∧ t.me.uipend.getLsbD (uiBit c u) = false
      ∧ (∀ b, b ≠ uiBit c u → t.me.uipend.getLsbD b = s.me.uipend.getLsbD b)
      ∧ t.me.pc = s.me.uw.uivec ∧ t.me.mode = .running ∧ (∀ r, r ≠ 1 → r ≠ 5 → t.rx r = s.rx r)
      ∧ t.mem = s.mem ∧ (t.die (dieOf s.cur)).gen = (s.die (dieOf s.cur)).gen + 1
      ∧ ∃ v, exec .uiret t = .next v ∧ (∀ r, v.rx r = s.rx r) ∧ v.me.pc = s.me.pc &&& ~~~1
        ∧ v.me.uw.uicause.getLsbD 4 = false)
  ∧ (∀ s : State, s.me.uw.uicause.getLsbD 4 = true →
    ∃ t, exec .uiret s = .next t ∧ t.me.pc = s.rx 1 &&& ~~~1 ∧ t.me.uw.uicause.getLsbD 4 = false
      ∧ [t.rx 1, t.rx 5, t.rx 6, t.rx 7, t.rx 8, t.rx 9] = (List.range 6).map (fun n => s.me.shadow.getD n 0)
      ∧ ∀ r, r ∉ [1, 5, 6, 7, 8, 9] → t.rx r = s.rx r)
  ∧ ∀ s : State, s.me.uw.uicause.getLsbD 4 = false →
    ∃ t, exec .uiret s = .next t ∧ TrapTaken s t s.cur { cause := 0x00, val := firstBits .uiret }

/-- R168 to R171: which event is delivered, its delivery, and `uiret`. -/
def Obligations.UserInterrupts : Prop := Sys2Proof.Claim.LowestEventFirst ∧ Sys2Proof.Claim.InterruptAndReturn


/-- R309, R338, R340: `tlbinv` drops every entry that it names from the caches within its scope and no other, once no access
within the scope is under way: none through the fabric, and no store held in an open strip of the partition (log 17, DEDUCED). Before
that it waits. TABLE_WALK puts the entry of a successful walk into both caches and changes nothing else. -/
def Sys2Proof.Claim.TranslationCaches : Prop :=
  (∀ (s : State) (sc : BitVec 3) (a b : Reg), s.me.priv ≠ .user → sc.toNat < 4 →
    (∃ r ∈ s.fab.requests, InScope sc s.cur (coreOf r.hart)) → exec (.tlbinv sc a b) s = .next s)
  ∧ (∀ (s : State) (sc : BitVec 3) (a b : Reg), s.me.priv ≠ .user → sc.toNat < 4 →
    (∀ r ∈ s.fab.requests, ¬InScope sc s.cur (coreOf r.hart)) →
    (∀ p ∈ s.harts, InScope sc s.cur (coreOf p.1) → slotOfHart s p.1 = slotOfHart s s.cur → p.2.holdsStores = false) →
    ∃ t, exec (.tlbinv sc a b) s = .next t ∧ t.me.pc = s.me.pc + 4 ∧ SameRegs t.me s.me ∧ t.mem = s.mem
      ∧ (∀ c e, e ∈ (t.core c).tlb ↔ e ∈ (s.core c).tlb ∧ ¬(InScope sc s.cur c ∧ Names e (slotOfHart s s.cur) (s.rx a) (s.rx b)))
      ∧ (∀ d e, e ∈ (t.die d).tlb ↔ e ∈ (s.die d).tlb
          ∧ ¬((d = dieOf s.cur ∨ sc = 3) ∧ Names e (slotOfHart s s.cur) (s.rx a) (s.rx b))))
  ∧ ∀ (s : State) (e : Tlb), walk s (spaceOf s s.input.hart) s.input.word.toNat = .ok e →
    ∃ t, exec .tableWalk s = .next t ∧ e ∈ (t.core (coreOf s.input.hart)).tlb ∧ e ∈ (t.die (dieOf s.input.hart)).tlb
      ∧ t.harts = s.harts ∧ t.mem = s.mem ∧ t.parts = s.parts
      ∧ (∀ c, (t.core c).spad = (s.core c).spad ∧ (t.core c).tiles = (s.core c).tiles)

/-- R48, R335, R344, R345: `verflip` toggles one version bit of the hart's address space and no other, behind an implicit commit of an
open strip and a release, for which it waits; a write of `cw.sver` as a step of its own sets all eight, ordered as a `verflip` is. The
address space is the supervisor's at supervisor privilege, and the user's at the others, firmware included (log 17, DEDUCED). -/
def Sys2Proof.Claim.VersionBits : Prop :=
  (∀ (s u : State) (v : BitVec 3) (p : Nat), CommitSteps s (.verflip v)
    ∧ (CommitsFirst s u → slotOfHart u s.cur = some p → coreActive u s.cur = true →
      (releaseReady u s.cur 4 = false → exec (.verflip v) s = .next u)
      ∧ (releaseReady u s.cur 4 = true →
        ∃ t, exec (.verflip v) s = .next t ∧ KeepsRegs u t [] ∧ t.me.pc = u.me.pc + 4 ∧ t.mem = (release u s.cur 3).mem
          ∧ (∀ k : Nat, k < 8 → (kget 0 (t.part p).ver (flipped u.me)).getLsbD k
              = ((kget 0 (u.part p).ver (flipped u.me)).getLsbD k ^^ decide (k = v.toNat)))
          ∧ (∀ a, a ≠ flipped u.me → kget 0 (t.part p).ver a = kget 0 (u.part p).ver a) ∧ ∀ q, q ≠ p → t.part q = u.part q)))
  ∧ ∀ (s : State) (p : Nat), let i := s.input.hart
    slotOfHart s i = some p → (s.hart i).guarded = false →
    (releaseReady s i 4 = false → exec .sverWrite s = .next s)
    ∧ (releaseReady s i 4 = true → ∃ t, exec .sverWrite s = .next t ∧ t.mem = (release s i 3).mem
      ∧ kget 0 (t.part p).ver ((s.hart i).sw.sasid.toNat % 2 ^ 16) = BitVec.ofNat 8 (s.input.word.toNat % 2 ^ 8)
      ∧ (∀ a, a ≠ (s.hart i).sw.sasid.toNat % 2 ^ 16 → kget 0 (t.part p).ver a = kget 0 (s.part p).ver a)
      ∧ ∀ q, q ≠ p → t.part q = s.part q)

/-- R309, R335, R338, R344: `tlbinv`, TABLE_WALK, `verflip` and the write of `cw.sver`. -/
def Obligations.TranslationUpkeep : Prop := Sys2Proof.Claim.TranslationCaches ∧ Sys2Proof.Claim.VersionBits


/-- R50: `hbar` completes at once in a gang of one; else it enters the barrier, behind a release, and waits; HBAR_EXIT lets the
hart of its operand leave once every rank of the gang has entered as often or has exited, as the model counts entries (log 19, DEDUCED).
Stores that an open guarded strip holds stay held (log 66, DEDUCED). -/
def Obligations.GangBarrier : Prop :=
  (∀ (s : State) (n : BitVec 4), gangCount s.me ≤ 1 → releaseReady s s.cur 3 = true → coreActive s s.cur = true →
    ∃ t, exec (.hbar n) s = .next t ∧ t.me.pc = s.me.pc + 4 ∧ KeepsRegs s t [] ∧ t.mem = (release s s.cur 3).mem
      ∧ (t.die (dieOf s.cur)).gen = (s.die (dieOf s.cur)).gen + 1)
  ∧ (∀ (s : State) (n : BitVec 4) (p : Nat), 1 < gangCount s.me → slotOfHart s s.cur = some p → releaseReady s s.cur 3 = true →
    coreActive s s.cur = true → s.me.mode = .running →
    (let k := gangKey (gangId s.me) (gangRank s.me) n; kget 0 (s.part p).gangIn k ≤ kget 0 (s.part p).gangDone k) →
    ∃ t, exec (.hbar n) s = .next t ∧ t.me.mode = .waiting (.hbar n) false ∧ t.me.pc = s.me.pc ∧ SameRegs t.me s.me
      ∧ t.mem = (release s s.cur 3).mem
      ∧ ∀ k, kget 0 (t.part p).gangIn k = kget 0 (s.part p).gangIn k
          + (if k = gangKey (gangId s.me) (gangRank s.me) n then 1 else 0))
  ∧ ∀ (s : State) (n : BitVec 4) (p : Nat) (handler : Bool), slotOfHart s s.input.hart = some p → s.hold.phase = .none →
    let h := s.hart s.input.hart
    let e := kget 0 (s.part p).gangIn (gangKey (gangId h) (gangRank h) n)
    h.mode = .waiting (.hbar n) handler →
    (∀ r, r < gangCount h → e ≤ kget 0 (s.part p).gangIn (gangKey (gangId h) r n) ∨ (gangId h, r) ∈ (s.part p).gangOut) →
    ∃ t, exec .hbarExit s = .next t ∧ (t.hart s.input.hart).mode = (if handler then .trapped else .running)
      ∧ (t.hart s.input.hart).pc = h.pc + 4 ∧ SameRegs (t.hart s.input.hart) h ∧ t.mem = s.mem
      ∧ kget 0 (t.part p).gangDone (gangKey (gangId h) (gangRank h) n) = e

/-- R303, R304: `vqsave` completes once its area is ready and the level's work is done: it stops the channels, writes the block
of R301 and empties the channels; the level's image is given up; registers, masks and queues stay. -/
def Sys2Proof.Claim.ContextSaves : Prop :=
  ∀ (s : State) (a : Reg), AreaReady s a .store (if s.me.uw.mshape.getLsbD 63 then 0x122000 else 0x20000) →
    coreActive s s.cur = true →
    ∃ t, exec (.vqsave a) s = .next t ∧ t.me.pc = s.me.pc + 4 ∧ t.me.x = s.me.x ∧ t.me.v = s.me.v ∧ t.me.m = s.me.m
      ∧ t.me.q = s.me.q ∧ t.me.uw = s.me.uw ∧ t.me.frames = s.me.frames
      ∧ (t.me.level s.me.priv).stat.getLsbD 5 = false ∧ (t.me.level s.me.priv).image = []
      ∧ (∀ c : Fin 7, t.me.ch[c] = {}) ∧ t.me.saved = true
      ∧ ∃ u l, u = stopChannels s s.cur ∧ l = blockWords u s.cur (s.me.level s.me.priv).image (s.me.uw.mshape.getLsbD 63)
        ∧ l.length = 0x4000
        ∧ t.mem = (writeRange u s.cur (spaceOf u s.cur) (s.rx a)
            (bytesOf (l ++ if s.me.uw.mshape.getLsbD 63 then (u.core (coreOf s.cur)).words else []))).mem

/-- R301, R302: where the context block holds the version and the counts of queue entries, the slice count, the tag, the user
control words, the watch, the declaration, the pending user events, and each vector entry's instruction, restart index and address. -/
def Obligations.ContextBlockLayout : Prop :=
  ∀ (s : State) (i : Nat) (img : List QEntry) (m : Bool), (img.filter fun e => !isMatrix e.instr).length ≤ 64 →
    (img.filter fun e => isMatrix e.instr).length ≤ 16 →
    let h := s.hart i
    let l := blockWords s i img m
    let vs := img.filter fun e => !isMatrix e.instr
    l.length = 0x20000 / 8 ∧ fld (blockAt l 0) 15 0 = 1 ∧ fld (blockAt l 0) 39 32 = vs.length
    ∧ fld (blockAt l 0) 44 40 = img.length - vs.length ∧ (blockAt l 0).getLsbD 48 = m ∧ (blockAt l 0).getLsbD 49 = h.ckpt.isSome
    ∧ fld (blockAt l 8) 3 0 = popc8 h.slices ∧ (blockAt l 8).getLsbD 4 = h.prot ∧ fld (blockAt l 16) 31 0 = h.sw.sctx.toNat % 2 ^ 32
    ∧ (∀ n, n < 112 → blockAt l (0x40 + 8 * n) = userWord s i n)
    ∧ (blockAt l 0x3C0).getLsbD 0 = h.watch.armed ∧ (blockAt l 0x3C0).getLsbD 1 = h.watch.event
    ∧ blockAt l 0x3F8 = h.uipend.setWidth 64 ∧ blockAt l 0x670 = h.watch.c ∧ blockAt l 0x678 = h.sw.smsave
    ∧ ∀ j, j < vs.length → ∀ e, vs[j]? = some e → blockAt l (0x700 + 64 * j + 8) = e.addr
        ∧ fld (blockAt l (0x700 + 64 * j)) 31 0 = (firstBits e.instr).toNat
        ∧ fld (blockAt l (0x700 + 64 * j)) 63 32 = e.k % 2 ^ 32

/-- R84, R304: `vqload` completes on a block that fits the hart and is admitted, and restores what the block says: the user control
words but for six, the masks, the watch's value, the context tag, and the queue images into the level's image buffer; x and vector
registers stay. The lines that it reads at package scope leave the die first. -/
def Sys2Proof.Claim.ContextLoads : Prop :=
  ∀ (s : State) (a : Reg) (hd bs : List Byte) (img : List QEntry) (u : State), AreaReady s a .load 64 → coreActive s s.cur = true →
    let sp := spaceOf s s.cur
    let s1 := homeRange s s.cur sp (s.rx a) 64
    readRange s1 s.cur sp false (s.rx a) 64 = .ok hd →
    let n := if (BitVec.ofNat 64 (ofLE (hd.take 8))).getLsbD 48 then 0x122000 else 0x20000
    checkRange s1 s.cur sp .load (s.rx a) n = .ok () →
    let r := homeRange s1 s.cur sp (s.rx a) n
    readRange r s.cur sp false (s.rx a) n = .ok bs →
    let l := wordsOf (n / 8) bs
    blockOk l = true → matrixOk l = true → (s.me.level s.me.priv).stat.getLsbD 5 = false →
    fld (blockAt l 8) 3 0 = popc8 s.me.slices → (blockAt l 8).getLsbD 4 = s.me.prot →
    ((blockAt l 0).getLsbD 48 = true → (r.core (coreOf s.cur)).owner = none ∨ (r.core (coreOf s.cur)).owner = some s.cur) →
    imagesOf r.me s.cur (keptOf r s.cur (fld (blockAt l 16) 31 0)) (userSpace r s.cur) l = some img →
    admitDecl r s.cur (blockAt l 0x678) = .ok u →
    ∃ t, exec (.vqload a) s = .next t ∧ t.me.pc = s.me.pc + 4 ∧ t.me.x = s.me.x ∧ t.me.v = s.me.v ∧ t.me.priv = s.me.priv
      ∧ (∀ w ∈ [0x003, 0x010, 0x011, 0x012, 0x014, 0x018, 0x019, 0x01A, 0x01F, 0x020, 0x021, 0x028, 0x029, 0x02A, 0x02B, 0x030,
          0x031, 0x032, 0x033, 0x034, 0x035, 0x040, 0x041, 0x042, 0x048, 0x049, 0x050, 0x058, 0x060, 0x061],
          userWord t t.cur w = blockAt l (0x40 + 8 * w))
      ∧ t.me.uw.grant = s.me.uw.grant ∧ t.me.watch.c = blockAt l 0x670 ∧ fld t.me.sw.sctx 31 0 = fld (blockAt l 16) 31 0
      ∧ t.me.uipend = (blockAt l 0x3F8).setWidth 60
      ∧ ((t.me.level s.me.priv).stat.getLsbD 5 = !img.isEmpty) ∧ ((t.me.level s.me.priv).image.map (·.addr) = img.map (·.addr)
          ∨ img = [])
      ∧ ((blockAt l 0).getLsbD 48 = true → (t.core (coreOf s.cur)).owner = some s.cur) ∧ t.mem = r.mem

/-- R303, R304: `vqsave` and `vqload`. -/
def Obligations.ContextSaveAndLoad : Prop := Sys2Proof.Claim.ContextSaves ∧ Sys2Proof.Claim.ContextLoads


/-- R271, R305: `chsave` writes 320 bytes for each live frame, the outermost first, and nothing without frames; `chload` with no
frames completes with none, and with frames puts in place those that pass the check of R272, behind the eviction of the lines that it
reads (R84). -/
def Obligations.ChainFramesSaveAndLoad : Prop :=
  (∀ (s : State) (a : Reg), AreaReady s a .store (320 * s.me.frames.length) →
    ∃ t l, exec (.chsave a) s = .next t ∧ l = s.me.frames.flatMap Frame.words ∧ l.length = 40 * s.me.frames.length
      ∧ t.mem = (writeRange s s.cur (spaceOf s s.cur) (s.rx a) (bytesOf l)).mem
      ∧ (coreActive s s.cur = true → t.me.pc = s.me.pc + 4 ∧ SameRegs t.me s.me) ∧ t.me.frames = s.me.frames)
  ∧ (∀ (s : State) (a : Reg) (bs : List Byte) (fs : List Frame), AreaReady s a .load (320 * s.me.frames.length) →
    coreActive s s.cur = true →
    let n := s.me.frames.length
    let s1 := homeRange s s.cur (spaceOf s s.cur) (s.rx a) (320 * n)
    readRange s1 s.cur (spaceOf s1 s.cur) false (s.rx a) (320 * n) = .ok bs →
    let r := (List.range n).foldl (fun u j => homeRange u u.cur (userSpace u u.cur) ((wordsOf (40 * n) bs).getD (40 * j) 0) 64) s1
    framesOf r s.cur n (wordsOf (40 * n) bs) = .ok fs →
    ∃ t, exec (.chload a) s = .next t ∧ t.me.pc = s.me.pc + 4 ∧ t.me.frames.length = fs.length
      ∧ t.me.frames.map (·.desc) = fs.map (·.desc) ∧ SameRegs t.me s.me ∧ OnlyMe r t)
  ∧ ∀ (s : State) (a : Reg), AreaReady s a .load 0 → s.me.frames = [] →
    ∃ t, exec (.chload a) s = .next t ∧ t.me.frames = [] ∧ t.me.pc = s.me.pc + 4

namespace Sys2Proof.Claim

open Sys2Proof Sys2Proof.Machine

/-- What R165 asks of the descriptor at `va` before anything is enqueued: in state `u`, behind the commit of an open strip (R48), and
in `r`, behind the release of the `tspawn` and the eviction of the descriptor's lines (R84). -/
structure SpawnReads (s u r : State) (va : W64) (bs : List Byte) : Prop where
  aligned : va.toNat % 64 = 0
  range : checkRange s s.cur (spaceOf s s.cur) .load va 128 = .ok ()
  commit : CommitsFirst s u
  ready : releaseReady u s.cur 3 = true
  after : r = homeRange (release u s.cur 3) s.cur (spaceOf s s.cur) va 128
  bytes : readRange r s.cur (spaceOf s s.cur) false va 128 = .ok bs
  fields : taskReserved (wordsOf 16 bs) = false
  counters : countersOk r s.cur (taskSpace r (slotOfHart s s.cur) (taskOf (wordsOf 16 bs))) (taskOf (wordsOf 16 bs)).counters = .ok ()

/-- A queue of a partition slot. -/
def queueIn (s : State) (p n : Nat) : TaskQueue := (s.part p).queue n

/-- R316: no queue of a partition has a spill or a place in the order of waiters of hart `i`. -/
def NoSpillOf (s : State) (p i : Nat) : Prop :=
  ∀ m, m < 16 → (∀ x ∈ (queueIn s p m).spills, x.1 ≠ i) ∧ ∀ w ∈ (queueIn s p m).waiters, w.1 ≠ i

/-- The other queues of a partition, and its version bits, are as before. -/
def OtherQueues (s t : State) (p n : Nat) : Prop :=
  (∀ m, m ≠ n → queueIn t p m = queueIn s p m) ∧ (t.part p).ver = (s.part p).ver

/-- R307: the words of a resume header. -/
structure Header (s : State) (bs : List Byte) (n : Nat) : Prop where
  slices : fld ((wordsOf 8 bs).getD 1 0) 3 0 = n
  some : 1 ≤ n ∧ n ≤ 8
  high : fld ((wordsOf 8 bs).getD 1 0) 63 8 = 0
  top : fld ((wordsOf 8 bs).getD 2 0) 63 32 = 0
  rest : ((wordsOf 8 bs).drop 3).any (· != 0) = false
  part : fld ((wordsOf 8 bs).getD 2 0) 15 0 = (s.partOf (slotOfHart s s.cur)).record.id.toNat

/-- R51: x registers that a task does not start with a value in read zero. -/
def taskReg (i : Nat) (r : Reservation) (n : Reg) : W64 :=
  if n = 10 then r.task.args else if n = 11 then BitVec.ofNat 64 r.rank else if n = 12 then BitVec.ofNat 64 r.task.gang
  else if n = 4 then BitVec.ofNat 64 (0xF000000000 + (i % 4) * 0x100000)
  else if n = 2 then BitVec.ofNat 64 (0xF000000000 + (i % 4) * 0x100000 + 0xC0000) else 0

/-- R166: nothing ready waits at the hart's priority or above. -/
def noDemand (s : State) (i : Nat) : Prop := demand s i = false

end Sys2Proof.Claim

/-- R48, R165, R315: a `tspawn` whose descriptor passes every check completes with status 0 and its task last in the queue, on chip
where there is room; a descriptor outside the limits, for another partition or address space, or for a disabled queue completes
with status 1, 2 or 3 and enqueues nothing; status 1 goes before 2, and 2 before 3 (log 20, DEDUCED). An open guarded strip is committed
first. -/
def Sys2Proof.Claim.SpawnEnqueues : Prop :=
  (∀ (s : State) (d a : Reg), (s.rx a).toNat % 64 = 0 → checkRange s s.cur (spaceOf s s.cur) .load (s.rx a) 128 = .ok () →
    CommitSteps s (.tspawn d a))
  ∧ (∀ (s u r : State) (d a : Reg) (bs : List Byte) (p : Nat), SpawnReads s u r (s.rx a) bs → coreActive u s.cur = true →
    slotOfHart u s.cur = some p → NoSpillOf u p s.cur →
    let k := taskOf (wordsOf 16 bs)
    let q := queueIn u p k.queue
    k.badLimits = false → k.part = (u.part p).record.id → k.asid.toNat = fld u.me.sw.sasid 15 0 →
    (u.part p).enabled k.queue = true → q.spills = [] → q.waiters = [] → q.olen = 0 → q.chip.length < q.cap →
    ∃ t, exec (.tspawn d a) s = .next t ∧ t.rx d = 0 ∧ t.me.pc = u.me.pc + 4 ∧ KeepsRegs u t [d] ∧ t.mem = r.mem
      ∧ (queueIn t p k.queue).chip = q.chip ++ [⟨k, k.ndep == 0, 0⟩] ∧ OtherQueues u t p k.queue)
  ∧ ∀ (s u r : State) (d a : Reg) (bs : List Byte) (p st : Nat), SpawnReads s u r (s.rx a) bs → coreActive u s.cur = true →
    slotOfHart u s.cur = some p → NoSpillOf u p s.cur →
    let k := taskOf (wordsOf 16 bs)
    (k.badLimits = true ∧ st = 1)
      ∨ (k.badLimits = false ∧ (k.part ≠ (u.part p).record.id ∨ k.asid.toNat ≠ fld u.me.sw.sasid 15 0) ∧ st = 2)
      ∨ (k.badLimits = false ∧ k.part = (u.part p).record.id ∧ k.asid.toNat = fld u.me.sw.sasid 15 0
          ∧ (u.part p).enabled k.queue = false ∧ st = 3) →
    ∃ t, exec (.tspawn d a) s = .next t ∧ t.rx d = shown d (BitVec.ofNat 64 st) ∧ t.me.pc = u.me.pc + 4 ∧ KeepsRegs u t [d]
      ∧ t.mem = r.mem ∧ (queueIn t p k.queue).chip = (queueIn u p k.queue).chip ∧ OtherQueues u t p k.queue

/-- R316, R298: a `tspawn` whose queue has neither room on chip nor a free overflow entry traps with cause 0x0E at the area's
base; nothing is enqueued, and the queue shows the spill. Executed again and completed it leaves no spill of its own at any queue, the one
that its descriptor named before included. -/
def Sys2Proof.Claim.FullQueueSpills : Prop :=
  (∀ (s u r : State) (d a : Reg) (bs : List Byte) (p : Nat), SpawnReads s u r (s.rx a) bs → coreActive u s.cur = true →
    slotOfHart u s.cur = some p → u.me.priv = .user → u.me.sw.fdeleg.getLsbD 14 = true → u.me.mode = .running →
    let k := taskOf (wordsOf 16 bs)
    let q := queueIn u p k.queue
    k.badLimits = false → k.part = (u.part p).record.id → k.asid.toNat = fld u.me.sw.sasid 15 0 →
    (u.part p).enabled k.queue = true → q.spills = [] → q.waiters = [] → q.chip.length = q.cap → q.olen = q.ovn →
    ∃ t, exec (.tspawn d a) s = .next t ∧ t.me.priv = .sup ∧ t.me.sup.cause = 0x0E ∧ t.me.sup.val = q.ovf
      ∧ t.me.sup.pc = u.me.pc ∧ t.me.x = u.me.x ∧ (queueIn t p k.queue).chip = q.chip
      ∧ (queueIn t p k.queue).spills = [(s.cur, gangId u.me)] ∧ t.mem = r.mem)
  ∧ ∀ (s u r : State) (d a : Reg) (bs : List Byte) (p m : Nat), SpawnReads s u r (s.rx a) bs → coreActive u s.cur = true →
    slotOfHart u s.cur = some p → u.me.mode = .running → m < 16 → (∃ x ∈ (queueIn u p m).spills, x.1 = s.cur) →
    let k := taskOf (wordsOf 16 bs)
    let q := queueIn u p k.queue
    k.badLimits = false → k.part = (u.part p).record.id → k.asid.toNat = fld u.me.sw.sasid 15 0 →
    (u.part p).enabled k.queue = true → (∀ x ∈ q.spills, x.1 = s.cur) → q.waiters = [] → q.olen = 0 → q.chip.length < q.cap →
    ∃ t, exec (.tspawn d a) s = .next t ∧ t.rx d = 0 ∧ t.me.pc = u.me.pc + 4 ∧ NoSpillOf t p s.cur
      ∧ (queueIn t p k.queue).chip = q.chip ++ [⟨k, k.ndep == 0, 0⟩]

/-- R165, R315, R316: `tspawn`, with room in its queue and without. -/
def Obligations.TspawnEnqueues : Prop := Sys2Proof.Claim.SpawnEnqueues ∧ Sys2Proof.Claim.FullQueueSpills


/-- R317, R219: a 64-bit swap that rings the doorbell of an enabled queue with room, and names a good descriptor in the
partition's memory, enqueues its task last, is remembered, and is answered with 0; one that names a misaligned or foreign address
is answered with 3 and enqueues nothing. -/
def Obligations.DoorbellEnqueues : Prop :=
  ∀ (s : State) (r : RemoteReq) (p n : Nat), s.input.request = some r → r.op = .atomic .swap → r.width = 8 → n < 16 →
    r.addr = 0x4000000000000 + 8 * n → slotOfKey s r.key = some p → (revokes s = true → r.key ∉ s.fab.revoked) →
    fld s.fw.fnode 15 0 ≠ 0 → s.hold.phase = .none → dedupFind s r = none → r.retry = false → s.fab.dedup.length < 65536 →
    let pa := r.data.toNat
    let bs := s.mem.bytes pa 128
    let k := taskOf (wordsOf 16 bs)
    let q := queueIn s p n
    (pa % 64 = 0 → ownsPa s (some p) pa = true → ownsPa s (some p) (pa + 127) = true → poisonAt s .home (.mem pa) 128 = none →
      taskReserved (wordsOf 16 bs) = false → k.badLimits = false → k.part = (s.part p).record.id →
      asidNamed s (some p) k.asid = true → (s.part p).enabled n = true →
      countersOk s (dieHart (homeDie pa)) (taskSpace s (some p) k) k.counters = .ok () → q.olen = 0 → q.chip.length < q.cap →
      ∃ t, exec .doorbellEnqueue s = .next t ∧ (queueIn t p n).chip = q.chip ++ [⟨k, k.ndep == 0, 0⟩] ∧ OtherQueues s t p n
        ∧ t.fab.outbox = s.fab.outbox ++ [.answer (.value 0) false]
        ∧ t.fab.dedup = s.fab.dedup ++ [⟨r.key, r.source, r.hart, r.tag, r.seq, some 0⟩] ∧ t.mem = s.mem ∧ t.harts = s.harts)
    ∧ (pa % 64 ≠ 0 ∨ ownsPa s (some p) pa = false →
      ∃ t, exec .doorbellEnqueue s = .next t ∧ t.parts = s.parts ∧ t.mem = s.mem ∧ t.harts = s.harts
        ∧ t.fab.outbox = s.fab.outbox ++ [.answer (.value 3) false])

/-- R314, R316: a write that turns a queue on reads its descriptor once; one that passes every check gives the queue its fields and no
entries, and with one that fails a check the write of `cw.sqctl` traps with cause 0x06, with 0 as the trap value (log 63, DEDUCED), and
turns nothing on. Turning a queue off removes its entries and its tasks that are bound and not started; a `tspawn` that met a spill keeps
the spill bit. -/
def Obligations.QueuesTurnOnAndOff : Prop :=
  (∀ (s : State) (p n : Nat) (bs : List Byte) (q : TaskQueue), slotOfHart s s.input.hart = some p → s.input.queue = n → n < 16 →
    (s.part p).enabled n = false →
    let kasid := BitVec.ofNat 16 (s.hart s.input.hart).sw.skasid.toNat
    let sp : Space := { priv := .sup, asid := kasid, slot := some p, ver := kget 0 (s.part p).ver kasid.toNat }
    let va := (s.part p).sqtab + BitVec.ofNat 64 (256 * n)
    let u := homeRange s s.input.hart sp va 256
    readRange u s.input.hart sp false va 256 = .ok bs → queueOfWords (s.part p) kasid (wordsOf 32 bs) = some q →
    ((List.range 16).foldl (fun m j => if (s.part p).enabled j = true ∧ (queueIn s p j).home = q.home then
        m + (queueIn s p j).cap else m) 0) + q.cap ≤ (s.part p).record.entries q.home →
    ∃ t, exec .queueEnable s = .next t ∧ (t.part p).enabled n = true
      ∧ queueIn t p n = { q with spills := (queueIn s p n).spills, waiters := (queueIn s p n).waiters } ∧ q.chip = [] ∧ q.olen = 0
      ∧ 1 ≤ q.cap ∧ q.cap ≤ 512 ∧ q.home ≤ 5 ∧ OtherQueues s t p n ∧ t.harts = u.harts ∧ t.mem = u.mem)
  ∧ (∀ (s : State) (p n : Nat) (d a : Reg) (bs : List Byte), s.me.priv ≠ .user → slotOfHart s s.cur = some p → n < 16 →
    (s.part p).enabled n = false → s.rx a = (s.part p).sqctl ||| BitVec.ofNat 64 (2 ^ n) →
    let kasid := BitVec.ofNat 16 s.me.sw.skasid.toNat
    let sp : Space := { priv := .sup, asid := kasid, slot := some p, ver := kget 0 (s.part p).ver kasid.toNat }
    let va := (s.part p).sqtab + BitVec.ofNat 64 (256 * n)
    readRange (homeRange s s.cur sp va 256) s.cur sp false va 256 = .ok bs →
    (queueOfWords (s.part p) kasid (wordsOf 32 bs) = none ∨ ∃ q, queueOfWords (s.part p) kasid (wordsOf 32 bs) = some q
      ∧ (s.part p).record.entries q.home < ((List.range 16).foldl (fun m j =>
          if (s.part p).enabled j = true ∧ (queueIn s p j).home = q.home then m + (queueIn s p j).cap else m) 0) + q.cap) →
    ∃ t, exec (.cww 0x481 d a) s = .next t ∧ TrapTaken s t s.cur { cause := 0x06 })
  ∧ ∀ (s : State) (p n : Nat), slotOfHart s s.input.hart = some p → s.input.queue = n → n < 16 → (s.part p).enabled n = true →
    ∃ t, exec .queueDisable s = .next t ∧ (t.part p).enabled n = false ∧ (queueIn t p n).chip = [] ∧ (queueIn t p n).olen = 0
      ∧ (queueIn t p n).spills = (queueIn s p n).spills ∧ t.mem = s.mem
      ∧ ∀ i r, slotOfHart s i = some p → (s.hart i).resv = some r → r.ctx = none → r.queue = n → (t.hart i).resv = none

/-- R80, R318: a dependence read makes an entry ready when every counter has reached its target, and steps the die's generation; the L1
copies of the counters' lines on that die go first. An entry that is ready stays ready; the timer reads every entry and makes those
without counters ready. R368: an entry found uncorrectable is removed and logged. -/
def Obligations.DependencesMakeReady : Prop :=
  (∀ (s : State) (e : QTask), let i := s.input
    i.bad = false → (queueIn s i.slot i.queue).chip[i.index]? = some e → e.ready = false →
    let v := stepGeneration s (queueIn s i.slot i.queue).home
    let u := e.desc.counters.foldl (reachCounter (queueIn s i.slot i.queue).home (taskSpace v (some i.slot) e.desc)) v
    (v.die (queueIn s i.slot i.queue).home).gen = (s.die (queueIn s i.slot i.queue).home).gen + 1
    ∧ ∃ t, exec .dependenceRead s = .next t ∧ t.mem = u.mem ∧ t.harts = u.harts ∧ t.dies = u.dies
      ∧ (queueIn t i.slot i.queue).chip[i.index]? = some { e with
          ready := e.desc.counters.all fun c => match counterPlace u (dieHart (queueIn s i.slot i.queue).home)
              (taskSpace u (some i.slot) e.desc) c.1 with
            | .error _ => false
            | .ok l => (enginePoison u (queueIn s i.slot i.queue).home l 8).isNone && decide (c.2.toNat ≤ ofLE (engineRead u (queueIn s i.slot i.queue).home l 8)) }
      ∧ ∀ k, k ≠ i.index → (queueIn t i.slot i.queue).chip[k]? = (queueIn s i.slot i.queue).chip[k]?)
  ∧ (∀ s : State, let i := s.input
    ∃ t, exec .dependenceTimer s = .next t ∧ (∀ h, SameRegs (t.hart h) (s.hart h))
      ∧ (queueIn t i.slot i.queue).chip.map (·.desc) = (queueIn s i.slot i.queue).chip.map (·.desc)
      ∧ ∀ (k : Nat) (e : QTask), (queueIn s i.slot i.queue).chip[k]? = some e → e.ready = true ∨ e.desc.counters = [] →
          ((queueIn t i.slot i.queue).chip[k]?).map QTask.ready = some true)
  ∧ ∀ s : State, let i := s.input
    i.bad = true → i.index < (queueIn s i.slot i.queue).chip.length → (queueIn s i.slot i.queue).olen = 0 →
    (s.part i.slot).errs.length < 64 →
    ∃ t, exec .dependenceRead s = .next t ∧ (queueIn t i.slot i.queue).chip = (queueIn s i.slot i.queue).chip.eraseIdx i.index
      ∧ (t.part i.slot).errs = (s.part i.slot).errs ++ [⟨7, 0, 4, 0, 0xFFF, i.queue, 4⟩]

/-- R319, R310, R320, R351: the one ready task of a partition, a gang of one, is bound to the first Free hart of its core set, behind the
run of that core's arbiter for an earlier event (log 37, DEDUCED): the hart is reserved with the task's counts and a fresh tag, the task leaves its queue,
a share of another owner is zeroed, and the core's arbiter has an event. -/
def Obligations.DispatchBindsTheFirstFreeHart : Prop :=
  ∀ (s : State) (n i ln : Nat) (k : TaskDesc) (l : List Nat), let p := s.input.slot
    n < 16 → (s.part p).sqctl = BitVec.ofNat 64 (2 ^ n) → (queueIn s p n).chip = [⟨k, true, ln⟩] → (queueIn s p n).olen = 0 →
    k.gang = 1 → k.msdecl = 0 → s.hold.phase = .none → freeHarts s (some p) (queueIn s p n).cset = i :: l →
    let u := runPending s (coreOf i)
    ∃ t r, exec .dispatchBind s = .next t ∧ (t.hart i).resv = some r ∧ r.task = k ∧ r.queue = n ∧ r.rank = 0 ∧ r.prio = k.prio
      ∧ r.min = k.min ∧ r.pref = k.pref ∧ r.tag = (s.part p).nextTag ∧ r.got = 0 ∧ r.ctx = none ∧ (t.part p).nextTag ≠ 0
      ∧ (queueIn t p n).chip = [] ∧ (∀ j, j ≠ i → (t.hart j).resv = (u.hart j).resv) ∧ t.mem = u.mem
      ∧ (t.core (coreOf i)).arb = true
      ∧ (kget (0, 0) (u.core (coreOf i)).shares (i % 4) ≠ ((s.part p).record.id, k.asid) →
          (∀ o, o < 0x100000 → (t.core (coreOf i)).spad.read ((i % 4) * 0x100000 + o) = 0))

/-- R80, R324: the Proofer stages the next bytes, at most 64, of a bound task's first unstaged range in declaration order, within the
partition's budgets: of a tier-1 range into the share, where it remembers what it wrote (R327), and of a tier-0 range, for rank 0, as a
count only (log 32, DEDUCED). The hart does not start, and no register changes; the table's lines leave the L1 caches of the die first. -/
def Obligations.ProoferStagesNextBytes : Prop :=
  ∀ (s : State) (r : Reservation), let i := s.input.hart
    (s.hart i).resv = some r → r.ctx = none → (s.hart i).mode = .free → s.hold.phase = .none →
    let sp := r.space.getD (taskSpace s (slotOfHart s i) r.task)
    let u := reachTable s i sp r.task
    (∀ (one : Bool) (g : W64 × Nat × Nat) (n k : Nat),
      nextStage (stageRanges u i sp r.task (r.rank == 0) true) r.lines r.staged 0 = some ((one, g), n, k) →
      let m := min 64 (g.2.2 - k)
      (one = true → budgetRoom u (slotOfHart s i) (some (coreOf i)) m = true →
        let v := stageBytes u i sp g k m 2
        ∃ t r', exec .prooferStaging s = .next t ∧ (t.hart i).resv = some r' ∧ r'.staged.getD n 0 = k + m
          ∧ (∀ j, j ≠ n → r'.staged.getD j 0 = r.staged.getD j 0) ∧ r'.lines = r.lines ∧ r'.got = r.got ∧ r'.task = r.task
          ∧ r'.wrote = (g.2.1 + k, m) :: r.wrote ∧ t.cores = v.cores ∧ t.mem = v.mem
          ∧ (t.hart i).mode = .free ∧ ∀ j, SameRegs (t.hart j) (s.hart j))
      ∧ (one = true → budgetRoom u (slotOfHart s i) (some (coreOf i)) m = false → exec .prooferStaging s = .next u)
      ∧ (one = false → budgetRoom u (slotOfHart s i) none m = true →
        r.rank = 0 ∧ exec .prooferStaging s = .next (u.setHart i { u.hart i with resv := some { r with lines := r.lines + m } })))
    ∧ (nextStage (stageRanges u i sp r.task (r.rank == 0) true) r.lines r.staged 0 = none → exec .prooferStaging s = .next u)

/-- R51, R127, R161, R165, R326: a bound hart that holds its minimum starts its task: Running at user privilege at the even address of
the entry, its five registers set and the others zero, its gang and grant words set, empty queues and frames, behind a step of its die's
generation and the copy of what the Proofer has not staged. -/
def Obligations.HartStartsTask : Prop :=
  ∀ (s : State) (r : Reservation), let i := s.input.hart
    (s.hart i).resv = some r → r.ctx = none → r.min ≤ popc8 r.got → s.hold.phase = .none → coreActive s i = true →
    r.rank < 2 ^ 16 → r.task.gang < 2 ^ 16 →
    ∃ t, exec .hartStart s = .next t ∧ (t.hart i).mode = .running ∧ (t.hart i).priv = .user ∧ (t.hart i).pc = r.task.entry &&& ~~~1
      ∧ (∀ n, (t.hart i).getX n = taskReg i r n) ∧ (t.hart i).resv = none
      ∧ gangCount (t.hart i) = r.task.gang ∧ gangRank (t.hart i) = r.rank ∧ gangId (t.hart i) = r.gid % 2 ^ 32
      ∧ (t.hart i).slices = r.got ∧ (t.hart i).prot = false ∧ (t.hart i).vq = [] ∧ (t.hart i).mq = [] ∧ (t.hart i).frames = []
      ∧ (∀ v, v < 32 → (t.hart i).v[v]? = some 0) ∧ (t.hart i).uw.vl = 0 ∧ (t.hart i).uw.slip = 4
      ∧ (t.hart i).task = some r.task ∧ (t.hart i).sw.sctx = BitVec.ofNat 64 r.tag.toNat
      ∧ (t.hart i).sw.sasid = BitVec.ofNat 64 r.task.asid.toNat
      ∧ (t.die (dieOf i)).gen = (s.die (dieOf i)).gen + 1 ∧ t.mem = (stageRest (withdraw s i) i r).mem

/-- R127, R307, R320: `hstart` reserves a Free hart of the partition for the context whose header it reads, behind the run of that core's
arbiter for an earlier event (log 37, DEDUCED), and traps with cause 0x06, with 0 as the trap value (log 63, DEDUCED), where the target is
not Free; when the arbiter has given exactly the header's
slices, PREEMPTED_RESUME starts it at supervisor privilege. -/
def Obligations.HstartReservesAndResumes : Prop :=
  (∀ (s : State) (a b : Reg) (bs : List Byte) (p n : Nat), s.me.priv ≠ .user →
    checkRange s s.cur (spaceOf s s.cur) .load (s.rx a) 64 = .ok () →
    let u := homeRange s s.cur (spaceOf s s.cur) (s.rx a) 64
    readRange u s.cur (spaceOf s s.cur) false (s.rx a) 64 = .ok bs → slotOfHart s s.cur = some p → Header s bs n →
    let i := (s.rx b).toNat
    let v := runPending u (coreOf i)
    (i ≠ s.cur → (s.hart i).mode = .free → slotOfHart s i = some p → (s.hart i).resv = none →
      ∃ t r, exec (.hstart a b) s = .next t ∧ (t.hart i).resv = some r ∧ r.ctx = some (s.rx a) ∧ r.min = n ∧ r.pref = n
        ∧ r.resume = (wordsOf 8 bs).getD 0 0 ∧ r.prot = ((wordsOf 8 bs).getD 1 0).getLsbD 4
        ∧ r.prio = fld ((wordsOf 8 bs).getD 1 0) 7 5 ∧ r.got = 0 ∧ (t.core (coreOf i)).arb = true
        ∧ (coreActive s s.cur = true → t.me.pc = v.me.pc + 4 ∧ SameRegs t.me v.me)
        ∧ ((s.core (coreOf i)).arb = false → coreActive s s.cur = true → t.me.pc = s.me.pc + 4 ∧ SameRegs t.me s.me)
        ∧ t.mem = v.mem)
    ∧ ((s.hart i).mode ≠ .free → ∃ t, exec (.hstart a b) s = .next t ∧ TrapTaken u t s.cur { cause := 0x06 }))
  ∧ ∀ (s : State) (r : Reservation) (area : W64), let i := s.input.hart
    (s.hart i).resv = some r → r.ctx = some area → popc8 r.got = r.min → s.hold.phase = .none → coreActive s i = true →
    ∃ t, exec .preemptedResume s = .next t ∧ (t.hart i).mode = .running ∧ (t.hart i).priv = .sup ∧ (t.hart i).pc = r.resume &&& ~~~1
      ∧ (t.hart i).getX 10 = area ∧ (t.hart i).slices = r.got ∧ (t.hart i).prot = r.prot ∧ (t.hart i).vq = []
      ∧ (t.hart i).mq = [] ∧ (t.hart i).sup.stat.getLsbD 5 = false ∧ (t.hart i).sw.sswz = 0 ∧ (t.hart i).sw.sctx = 0
      ∧ (t.hart i).resv = none ∧ t.mem = s.mem

/-- R308: `hstop` of the own id, once the hart's queues and copies have drained (log 21, DEDUCED), ends the context: the hart is Free,
without frames, marks, queues, slices or matrix ownership, and its core's arbiter has an event, behind its run for an earlier one (R320;
log 37, DEDUCED); before that it waits; of another live hart it leaves a pending pre-emption of code 1; of a Free hart it does nothing;
outside the partition it traps, with 0 as the trap value (log 63, DEDUCED). -/
def Obligations.HstopEndsContexts : Prop :=
  (∀ (s : State) (a : Reg), s.me.priv ≠ .user → (s.rx a).toNat = s.cur →
    (s.me.copiesOut = true ∨ s.me.drained = false → exec (.hstop a) s = .next s)
    ∧ (s.me.copiesOut = false → s.me.drained = true → s.me.gs = false → (∀ r ∈ s.fab.requests, r.hart = s.cur → r.store = false) →
    ∃ t, exec (.hstop a) s = .next t ∧ t.me.mode = .free ∧ t.me.resv = none ∧ t.me.frames = [] ∧ t.me.marks = []
      ∧ t.me.vq = [] ∧ t.me.mq = [] ∧ t.me.slices = 0 ∧ (t.core (coreOf s.cur)).owner ≠ some s.cur ∧ t.me.charge = 0
      ∧ (∀ c : Fin 7, t.me.ch[c] = {}) ∧ (t.core (coreOf s.cur)).arb = true ∧ t.mem = (runPending s (coreOf s.cur)).mem))
  ∧ (∀ (s : State) (a : Reg) (p : Nat), let i := (s.rx a).toNat
    s.me.priv ≠ .user → i ≠ s.cur → slotOfHart s s.cur = some p → slotOfHart s i = some p → coreActive s s.cur = true →
    ((s.hart i).mode ≠ .free → 1 ∉ (s.hart i).preempt →
      ∃ t, exec (.hstop a) s = .next t ∧ (t.hart i).preempt = (s.hart i).preempt ++ [1] ∧ t.me.pc = s.me.pc + 4
        ∧ SameRegs t.me s.me ∧ SameRegs (t.hart i) (s.hart i) ∧ t.mem = s.mem)
    ∧ ((s.hart i).mode = .free → exec (.hstop a) s = .next (s.setMe { s.me with pc := s.me.pc + 4 })))
  ∧ ∀ (s : State) (a : Reg), s.me.priv ≠ .user → (s.rx a).toNat ≠ s.cur → slotOfHart s (s.rx a).toNat ≠ slotOfHart s s.cur →
    ∃ t, exec (.hstop a) s = .next t ∧ TrapTaken s t s.cur { cause := 0x06 }

/-- R166: `tyield` completes at once without demand, else the hart waits, one that runs a handler too (log 67, DEDUCED); TYIELD_RESOLVE then leaves a pre-emption of code 2, or
completes the `tyield` once the demand has gone. -/
def Sys2Proof.Claim.TyieldYields : Prop :=
  (∀ s : State, noDemand s s.cur → exec .tyield s = .next (s.setMe { s.me with pc := s.me.pc + 4 }))
  ∧ (∀ s : State, ¬noDemand s s.cur →
    exec .tyield s = .next (s.setMe { s.me with mode := .waiting .tyield (s.me.mode == .trapped) }))
  ∧ ∀ (s : State) (handler : Bool), let i := s.input.hart
    (s.hart i).mode = .waiting .tyield handler → 2 ∉ (s.hart i).preempt → s.hold.phase = .none →
    (¬noDemand s i → ∃ t, exec .tyieldResolve s = .next t ∧ (t.hart i).preempt = (s.hart i).preempt ++ [2]
      ∧ (t.hart i).mode = (s.hart i).mode ∧ (t.hart i).pc = (s.hart i).pc)
    ∧ (noDemand s i → ∃ t, exec .tyieldResolve s = .next t ∧ (t.hart i).preempt = (s.hart i).preempt
      ∧ (t.hart i).mode = (if handler then .trapped else .running) ∧ (t.hart i).pc = (s.hart i).pc + 4
      ∧ SameRegs (t.hart i) (s.hart i))

/-- R32, R320, R322: an expired yield window leaves a pre-emption of code 0 at a live hart with an unmet request, behind the run of its
core's arbiter for an earlier event (log 37, DEDUCED); it is an event for that arbiter itself. -/
def Sys2Proof.Claim.YieldWindowExpires : Prop :=
  ∀ s : State, let i := s.input.hart
    s.hold.phase = .none → (s.hart i).yreq ≠ 0 → (s.hart i).mode ≠ .free → 0 ∉ (s.hart i).preempt →
    let u := runPending s (coreOf i)
    ∃ t, exec .yieldWindowExpiry s = .next t ∧ (t.hart i).preempt = (u.hart i).preempt ++ [0] ∧ SameRegs (t.hart i) (u.hart i)
      ∧ (t.core (coreOf i)).arb = true ∧ t.mem = u.mem

/-- R32, R166, R322: `tyield`, and the end of a yield window. -/
def Obligations.YieldsToDemand : Prop := Sys2Proof.Claim.TyieldYields ∧ Sys2Proof.Claim.YieldWindowExpires


/-- R319, R320, R321: a run of the arbiter, for an event that it has not run for, gives a core's only waiting hart, where its minimum is
free, the lowest free slices up to its preferred count, and none that another hart holds; without an event it does nothing (log 37,
DEDUCED). -/
def Obligations.ArbiterGivesFreeSlices : Prop :=
  (∀ (s : State) (i : Nat) (r : Reservation), s.hold.phase = .none → (s.core s.input.core).arb = true → i / 4 = s.input.core →
    (s.hart i).resv = some r → r.got = 0 → (s.hart i).slices = 0 → r.min ≤ r.pref → 0 < r.min →
    (∀ j, j / 4 = s.input.core → j ≠ i → (s.hart j).resv = none ∧ ∀ ew n d a b, (s.hart j).mode ≠ .waiting (.lease ew n d a) b) →
    r.min ≤ popc8 (freeSlices s s.input.core) → (∀ ew n d a b, (s.hart i).mode ≠ .waiting (.lease ew n d a) b) →
    ∃ t r', exec .arbiterRun s = .next t ∧ (t.hart i).resv = some r'
      ∧ popc8 r'.got = min r.pref (popc8 (freeSlices s s.input.core)) ∧ r'.got &&& ~~~(freeSlices s s.input.core) = 0
      ∧ (∀ k l : Nat, k < l → r'.got.getLsbD l = true → (freeSlices s s.input.core).getLsbD k = true → r'.got.getLsbD k = true)
      ∧ (t.core s.input.core).arb = false ∧ (∀ j, j ≠ i → t.hart j = s.hart j) ∧ t.mem = s.mem)
  ∧ ∀ s : State, (s.core s.input.core).arb = false → exec .arbiterRun s = .next s

/-- R27, R321: no slice of a core is ever held by two harts: a run of the arbiter keeps the harts' slices disjoint. -/
def Obligations.ArbiterKeepsSlicesDisjoint : Prop :=
  ∀ s : State, (∀ i j, i / 4 = s.input.core → j / 4 = s.input.core → i ≠ j →
      (s.hart i).heldSlices &&& (s.hart j).heldSlices = 0) →
    ∃ t, exec .arbiterRun s = .next t ∧ ∀ i j, i / 4 = s.input.core → j / 4 = s.input.core → i ≠ j →
      (t.hart i).heldSlices &&& (t.hart j).heldSlices = 0


namespace Sys2Proof.Claim

open Sys2Proof Sys2Proof.Machine

/-! ## Vector and matrix instructions at the front end (R25, R206 to R209, R221, R300, R302) -/

/-- The instructions of the vector queue: majors 0x21 to 0x2B, `cbload`, and the four queued instructions of the Gathering. -/
def vectorQueued : Instr → Bool
  | .vfadd .. | .vfsub .. | .vfmul .. | .vfma .. | .vfnma .. | .vfmin .. | .vfmax .. | .vfdiv .. | .vfsqrt .. | .vfrsq ..
  | .vfuq .. | .vfabs .. | .vfneg .. | .vfsgn .. | .vfscale .. | .vfeq .. | .vflt .. | .vfle .. | .vfcls .. | .vfcvt ..
  | .vfcvti .. | .vficvt .. | .vsig .. | .vrand .. | .vadd .. | .vsub .. | .vmul .. | .vmulh .. | .vmin .. | .vmax ..
  | .vand .. | .vor .. | .vxor .. | .vsll .. | .vsrl .. | .vsra .. | .vadds .. | .vsubs .. | .vabsd .. | .vseq .. | .vsne ..
  | .vslt .. | .vsltu .. | .vsel .. | .vmv .. | .vbcast .. | .vidx .. | .vwma .. | .vwmul .. | .vwadd .. | .vdot4 ..
  | .vred .. | .vperm .. | .vslup .. | .vsldn .. | .vcompress .. | .vexpand .. | .vxpose8 .. | .vscan .. | .mand .. | .mor ..
  | .mxor .. | .mnot .. | .mpop .. | .mffs .. | .mfromvl .. | .mmvx .. | .vld .. | .vlds .. | .vldx .. | .vldxO .. | .vldFf ..
  | .vst .. | .vsts .. | .vstx .. | .vstxO .. | .vstN .. | .vamoadd .. | .vamomin .. | .vamomax .. | .vamoor .. | .vamoand ..
  | .vamoxor .. | .vmvx .. | .vmvv .. | .cbload .. | .ginit | .gunite .. | .gfind .. | .grelabel .. => true
  | _ => false

/-- The instructions of the matrix queue, of 64 bits. -/
def matrixQueued : Instr → Bool
  | .mldb .. | .mldbx .. | .mmulO .. | .mmulF .. | .mzero .. | .mrd .. | .mwr .. | .mst .. | .msig .. | .mscl .. => true
  | _ => false

/-- The queued instructions that commit a guarded strip first (R48, R279): vector atomics and the Gathering. -/
def commitsFirst : Instr → Bool
  | .vamoadd .. | .vamomin .. | .vamomax .. | .vamoor .. | .vamoand .. | .vamoxor ..
  | .ginit | .gunite .. | .gfind .. | .grelabel .. => true
  | _ => false

/-- The queued instructions that store, and commit the strip first where its buffer has no room (R48). -/
def storesBytes : Instr → Bool
  | .vst .. | .vsts .. | .vstx .. | .vstxO .. | .vstN .. | .mst .. => true
  | _ => false

/-- Nothing of R209, R220 and R300 forbids the instruction, and no strip has to be committed: outside guarded strips, or where the
instruction does not commit and a store finds room (R48). -/
structure QueueOpen (s : State) (i : Instr) : Prop where
  image : s.me.priv = .user ∨ (s.me.level s.me.priv).stat.getLsbD 5 = false
  owner : matrixQueued i = true → (s.core (coreOf s.cur)).owner = some s.cur
  barrier : isBarrier i = true → s.me.openBinding = false
  unbound : ∀ w d x, loadDest i = some (w, true, d) → s.me.q[d.toNat]? = some x → x.bound = true → x.consumer = true
  strip : s.me.guarded = false ∨ (commitsFirst i = false ∧ (storesBytes i = true →
    s.me.committing = false ∧ stripBytes s.me + (entryOf s i).storeBytes s.me ≤ 0x40000))

/-- The load queue that a load would fill still has its consumer (R208; that the load stalls then is log 44, DEDUCED). -/
def QueueTaken (s : State) (i : Instr) : Prop :=
  ∃ w d x, loadDest i = some (w, true, d) ∧ s.me.q[d.toNat]? = some x ∧ x.consumer = true

/-- The length of the queue that the instruction enters, and its bound. -/
def queueLength (s : State) (i : Instr) : Nat := if matrixQueued i then s.me.mq.length else s.me.vq.length
def queueBound (i : Instr) : Nat := if matrixQueued i then 16 else 64

/-- What an entry captures when it is queued. -/
structure Captured (s : State) (i : Instr) (e : QEntry) : Prop where
  instr : e.instr = i
  addr : e.addr = s.me.pc
  fresh : e.k = 0 ∧ e.dispatched = false ∧ e.fault = none
  operands : (e.o1, e.o2, e.o3) = captures s i
  format : e.fw = (formatOf s i).1
  vl : i ≠ .ginit → (∀ t a, i ≠ .cbload t a) → e.vl = s.me.uw.vl.toNat
  group : e.g.toNat = s.me.uw.vgrp.toNat % 4 ∧ e.ew.toNat = s.me.uw.vgrp.toNat / 4 % 4
  shape : e.sm = s.me.uw.tl.toNat % 512 ∧ e.sn = s.me.uw.mshape.toNat / 2 ^ 16 % 2 ^ 16 ∧ e.sk = s.me.uw.mshape.toNat / 2 ^ 32 % 2 ^ 16
  draw : e.stoch = capturesDraw s i ∧ (e.stoch = true → e.srctr = s.me.uw.srctr ∧ e.hid = s.cur)
  slip : e.slip = s.me.uw.slip.toNat % 32
  space : e.space.priv = s.me.priv ∧ e.space.asid = (spaceOf s s.cur).asid ∧ e.space.slot = slotOfHart s s.cur
  queues : e.qa = boundQueue s.me i (vshape i).a ∧ e.qb = boundQueue s.me i (vshape i).b

/-- The load queues behind an instruction: a load into a queue binds it, and a consumer takes the bound queues that its operands
name (R207). -/
def QueuesBehind (s t : State) (i : Instr) (e : QEntry) : Prop :=
  ∀ (n : Nat) (x : LoadQueue), s.me.q[n]? = some x → t.me.q[n]? = some (
    match loadDest i with
    | some (w, true, d) => if d.toNat = n then { w := w, bound := true } else x
    | _ => if e.qa = some n ∨ e.qb = some n then { x with bound := false, consumer := true } else x)

/-! ## Strips (R24, R26 to R30, R45, R47, R173, R174, R216) -/

/-- A hart that runs. -/
def Steady (s : State) : Prop := s.me.mode = .running ∨ s.me.mode = .trapped

/-- Nothing holds a `vsetl` back (R206, R209, R300). -/
structure StripOpen (s : State) : Prop where
  image : s.me.priv = .user ∨ (s.me.level s.me.priv).stat.getLsbD 5 = false
  binding : s.me.openBinding = false
  first : ∀ e ∈ s.me.vq, ∀ w m d a, e.instr ≠ .vldFf w m d a
  mode : Steady s

/-- The queues of the moving hart are empty. -/
def Drained (s : State) : Prop := s.me.vq = [] ∧ s.me.mq = [] ∧ s.me.openBinding = false

/-- R29, R173: the length that `vsetl` sets under `l` lanes that hold data. -/
def newLength (l : Nat) (ew n : BitVec 2) (avl : W64) : Nat := min avl.toNat (2 ^ n.toNat * 256 * l / (8 * 2 ^ ew.toNat))

/-- R173: what every `vsetl` leaves: the length in x[d] and `cw.vl`, and the codes in `cw.vgrp`. -/
def LengthSet (s t : State) (ew n : BitVec 2) (d : Reg) (vl : Nat) : Prop :=
  t.rx d = shown d (BitVec.ofNat 64 vl) ∧ t.me.uw.vl = BitVec.ofNat 64 vl ∧ t.me.uw.vgrp = BitVec.ofNat 64 (4 * ew.toNat + n.toNat)
  ∧ t.me.pc = s.me.pc + 4 ∧ (∀ r, r ≠ d → t.rx r = s.rx r) ∧ t.me.vq = s.me.vq ∧ t.me.mq = s.me.mq ∧ t.mem = s.mem

/-- A `vsetl` outside guarded strips sets the length, and leaves the grant and the registers. -/
def VsetlSetsLength : Prop :=
  ∀ (s : State) (ew n : BitVec 2) (d a : Reg), StripOpen s → s.me.priv ≠ .user ∨ (s.me.gs = false ∧ s.me.uw.guard.getLsbD 0 = false) →
    ∃ t, exec (.vsetl false ew n d a) s = .next t ∧ LengthSet s t ew n d (newLength s.me.leff ew n (s.rx a))
      ∧ t.me.v = s.me.v ∧ t.me.m = s.me.m ∧ t.me.uw.grant = s.me.uw.grant

/-- A `vsetl` that begins a guarded strip takes a checkpoint that restarts at itself. -/
def VsetlBeginsStrip : Prop :=
  ∀ (s : State) (ew n : BitVec 2) (d a : Reg), StripOpen s → s.me.priv = .user → s.me.gs = false → s.me.uw.guard.getLsbD 0 = true →
    Drained s →
    ∃ t c, exec (.vsetl false ew n d a) s = .next t ∧ LengthSet s t ew n d (newLength s.me.leff ew n (s.rx a))
      ∧ t.me.gs = true ∧ t.me.ckpt = some c ∧ c.restart = s.me.pc ∧ c.guard = s.me.uw.guard
      ∧ c.vcarry = s.me.uw.vcarry ∧ c.xs = t.me.x.toList

/-- A grant point of a hart that is alone on its core takes the preferred count of its lease and the protected mode asked for; a
grant that changes zeroes the vector and mask registers; the length is that of the new grant. -/
def VsetlTakesGrant : Prop :=
  ∀ (s : State) (ew n : BitVec 2) (d a : Reg), StripOpen s → s.me.priv = .user → s.me.gs = false → Drained s →
    (∀ j, j / 4 = coreOf s.cur → j ≠ s.cur → (s.hart j).mode = .free ∧ (s.hart j).resv = none ∧ (s.hart j).slices = 0) →
    s.me.resv = none → s.me.yreq = 0 → fld s.me.uw.lease 3 0 ≤ 8 → max 1 (fld s.me.uw.lease 3 0) ≤ popc8 s.me.slices →
    ∃ t, exec (.vsetl true ew n d a) s = .next t ∧ LengthSet s t ew n d (newLength t.me.leff ew n (s.rx a))
      ∧ popc8 t.me.slices = max (max 1 (fld s.me.uw.lease 3 0)) (min 8 (fld s.me.uw.lease 7 4))
      ∧ t.me.prot = s.me.uw.guard.getLsbD 1
      ∧ (t.me.slices = s.me.slices ∧ t.me.prot = s.me.prot → t.me.v = s.me.v ∧ t.me.m = s.me.m)
      ∧ (¬(t.me.slices = s.me.slices ∧ t.me.prot = s.me.prot) → (∀ r : Fin 32, t.me.v[r] = 0) ∧ ∀ r : Fin 8, t.me.m[r] = 0)

/-- `vsetl.g` is illegal above user privilege (R30). -/
def GrantNeedsUser : Prop :=
  ∀ (s : State) (ew n : BitVec 2) (d a : Reg), s.me.priv ≠ .user →
    ∃ t, exec (.vsetl true ew n d a) s = .next t ∧ TrapTaken s t s.cur { cause := 0x00, val := firstBits (.vsetl true ew n d a) }

/-- `vgrant` reads the grant once the queues are empty. -/
def VgrantReads : Prop :=
  ∀ (s : State) (d : Reg), s.me.priv = .user ∨ (s.me.level s.me.priv).stat.getLsbD 5 = false → Drained s →
    ∃ t, exec (.vgrant d) s = .next t ∧ t.rx d = shown d (BitVec.ofNat 64 (s.me.uw.grant.toNat % 2 ^ 18)) ∧ t.me.pc = s.me.pc + 4
      ∧ OnlyRegs s t [d]

/-- `scommit` changes nothing outside a guarded strip; in one it empties the strip store buffer and takes a checkpoint behind itself,
with the control words of the last `vsetl` (R45). Where the stores are performed one by one, each may be any that writes no byte of
an older one (R102), and of two to device-ordered pages the older goes first (R341). -/
def ScommitCommits : Prop :=
  (∀ s : State, s.me.priv = .user → s.me.gs = false → exec .scommit s = .next (s.setMe { s.me with pc := s.me.pc + 4 }))
  ∧ (∀ s : State, s.me.priv = .user → s.me.gs = true → Drained s → Steady s → bufferError s s.cur = none → s.pick = none →
    (∀ b ∈ s.me.buf, ∀ pa n a, b.loc ≠ .fabric pa n a) → (∀ r ∈ s.fab.requests, r.hart ≠ s.cur) → s.me.storeFaults = [] →
    ∃ t c, exec .scommit s = .next t ∧ t.me.buf = [] ∧ t.me.gs = true ∧ t.me.committing = false ∧ t.me.ckpt = some c
      ∧ c.restart = s.me.pc + 4 ∧ (∀ k, s.me.ckpt = some k → c.guard = k.guard ∧ c.vcarry = k.vcarry)
      ∧ t.me.pc = s.me.pc + 4 ∧ t.me.x = s.me.x ∧ t.me.v = s.me.v ∧ t.me.uw = s.me.uw)
  ∧ ∀ (s : State) (n : Nat) (b : Held), s.me.priv = .user → s.me.gs = true → Drained s → Steady s → bufferError s s.cur = none →
    s.pick = some n → s.me.buf[n]? = some b → 1 < s.me.buf.length → (∀ pa n a, b.loc ≠ .fabric pa n a) →
    (∀ o ∈ s.me.buf.drop (n + 1), b.add = none ∧ b.meets o = false ∧ ¬(b.dev = true ∧ o.dev = true)) →
    (b.dev = true → devStoresOut s s.cur = false) →
    ∃ t, exec .scommit s = .next t ∧ t.me.buf = s.me.buf.eraseIdx n ∧ t.me.committing = true ∧ t.me.ckpt = s.me.ckpt
      ∧ t.me.pc = s.me.pc ∧ t.me.x = s.me.x ∧ t.me.v = s.me.v ∧ t.me.uw = s.me.uw
      ∧ t.mem = (performHeld s s.cur b).mem ∧ ∀ c, (t.core c).spad = ((performHeld s s.cur b).core c).spad

/-! ## The vector unit (R25, R36 to R38, R58, R176, R185) -/

/-- The units of a hart can move: power is on, the core is active, and a context is resident. -/
structure UnitsReady (s : State) (i : Nat) : Prop where
  power : s.hold.phase = .none
  active : coreActive s i = true
  live : (s.hart i).mode ≠ .free

/-- The oldest entry is dispatched when every check of R25 passes; its version bits are those in force then (R343). -/
def DispatchStarts : Prop :=
  ∀ (s : State) (e : QEntry) (l : List QEntry), let i := s.input.hart
    UnitsReady s i → (s.hart i).vq = e :: l → (s.hart i).mq = [] → e.dispatched = false → e.fault = none →
    dispatchCheck s i e = .ok () →
    ∃ t e', exec .vectorDispatch s = .next t ∧ t = s.setHart i { s.hart i with vq := e' :: l } ∧ e'.dispatched = true
      ∧ e'.fault = none ∧ e'.instr = e.instr ∧ e'.addr = e.addr ∧ e'.k = e.k ∧ e'.vl = e.vl ∧ e'.fw = e.fw
      ∧ e'.space = { e.space with ver := kget 0 (s.partOf e.space.slot).ver e.space.asid.toNat }

/-- A format word with a reserved bit or the reserved rounding code faults with cause 0x14 and the word (R58), whatever else is wrong
with the entry (log 47, DEDUCED). -/
def ReservedFormatFaults : Prop :=
  ∀ (s : State) (e : QEntry) (l : List QEntry), let i := s.input.hart
    UnitsReady s i → (s.hart i).vq = e :: l → (s.hart i).mq = [] → e.dispatched = false → e.fault = none → (s.hart i).sram = [] →
    (vshape e.instr).fw.isSome = true → fwRsv e.fw ≠ 0 ∨ fwRnd e.fw = 7 →
    ∃ t, exec .vectorDispatch s = .next t ∧ t = s.setHart i { s.hart i with
      vq := { e with fault := some { cause := 0x14, val := e.fw, vf := true, idx := e.k } } :: l }

/-- The oldest entry of a hart has been dispatched, passes every check, and stands at an element below its VL; nothing that it reads is
poisoned, no element has been performed ahead, its registers hold VL elements, and the step names it and no divergence. -/
structure CommitReady (s : State) (i : Nat) (e : QEntry) (l : List QEntry) : Prop where
  units : UnitsReady s i
  head : (s.hart i).vq = e :: l
  alone : (s.hart i).mq = []
  started : e.dispatched = true ∧ e.fault = none ∧ e.done = []
  checked : dispatchCheck s i e = .ok ()
  step : s.input.index = 0 ∧ s.input.bad = false ∧ s.input.queue = 0 ∧ s.input.word = 0
  clean : (s.hart i).vpoison = [] ∧ (s.hart i).sram = []
  some : e.k < e.vl
  fits : 0 < (s.hart i).leff ∧ e.vl * e.ewval ≤ e.gval * 256 * (s.hart i).leff

/-- The element behind the last one of the group at element `e.k`: `n` elements to a group. -/
def groupStop (n : Nat) (e : QEntry) : Nat := min e.vl ((e.k / n + 1) * n)

/-- The same of `ginit`, whose elements are the entries of the forest. -/
structure GatherReady (s : State) (i : Nat) (e : QEntry) (l : List QEntry) : Prop where
  units : UnitsReady s i
  head : (s.hart i).vq = e :: l
  alone : (s.hart i).mq = []
  started : e.dispatched = true ∧ e.fault = none ∧ e.done = []
  step : s.input.index = 0 ∧ s.input.bad = false ∧ s.input.queue = 0 ∧ s.input.word = 0
  clean : (s.hart i).vpoison = [] ∧ (s.hart i).sram = []
  some : e.k < e.vl

/-- The group of an entry commits up to `hi`: the entry moves on, or leaves the queue (R37). -/
def EntryMoves (t : State) (i : Nat) (e : QEntry) (l : List QEntry) (hi : Nat) : Prop :=
  (t.hart i).vq = if hi = e.vl then l else { e with k := hi } :: l

/-- R185: integer instructions whose result is the low bits of a sum, difference or product, or a bitwise combination: predicate,
destination, sources, and the result of two elements of a width. -/
def laneArith : Instr → Option (BitVec 3 × Reg × Reg × Reg × (Nat → Nat → Nat → Nat))
  | .vadd m _ d a b => some (m, d, a, b, fun w x y => (x + y) % 2 ^ w)
  | .vsub m _ d a b => some (m, d, a, b, fun w x y => (x + 2 ^ w - y) % 2 ^ w)
  | .vmul m _ d a b => some (m, d, a, b, fun w x y => x * y % 2 ^ w)
  | .vand m _ d a b => some (m, d, a, b, fun _ x y => x &&& y)
  | .vor m _ d a b => some (m, d, a, b, fun _ x y => x ||| y)
  | .vxor m _ d a b => some (m, d, a, b, fun _ x y => x ^^^ y)
  | _ => none

/-- The next element group of the oldest entry commits: each admitted element gets its result, the others keep their values, and
the entry moves on or leaves the queue. -/
def GroupCommits : Prop :=
  ∀ (s : State) (e : QEntry) (l : List QEntry) (m : BitVec 3) (d a b : Reg) (f : Nat → Nat → Nat → Nat),
    let i := s.input.hart
    let h := s.hart i
    let w := codeWidth (fwD e.fw)
    let hi := groupStop h.leff e
    CommitReady s i e l → laneArith e.instr = some (m, d, a, b, f) → e.qa = none → e.qb = none → fwNb e.fw = 0 →
    fwA e.fw = fwD e.fw → fwB e.fw = fwD e.fw →
    ∃ t, exec .groupCommit s = .next t
      ∧ (∀ x, e.k ≤ x → x < hi → h.admits m x = true →
          (t.hart i).elem d.toNat w x = f w (h.elem a.toNat w x) (h.elem b.toNat w x))
      ∧ (∀ x, x < e.vl → ¬(e.k ≤ x ∧ x < hi ∧ h.admits m x = true) → (t.hart i).elem d.toNat w x = h.elem d.toNat w x)
      ∧ (∀ r, r ∉ e.regs ⟨d.toNat, w, 1⟩ → (t.hart i).v[r]? = h.v[r]?)
      ∧ (t.hart i).m = h.m ∧ (t.hart i).x = h.x ∧ (t.hart i).uw = h.uw ∧ t.mem = s.mem ∧ EntryMoves t i e l hi

/-- R61 to R66: a value rounded into fmt_d of an entry; `conv` marks a conversion (R64). -/
def rounded (h : Hart) (e : QEntry) (x : Nat) (conv : Bool) (v : Exact) (fl : Nat) : Res :=
  let r := encodeNum (fmtOf (fwD e.fw)) (Rnd.ofCode (fwRnd e.fw)) (fwNan e.fw) conv (draw h e x) (tableOf h e) v
  { r with fl := r.fl ||| fl }

/-- R55, R66: the invalid flag of a sum, and of a product. -/
def nvSum (a b : Exact) : Nat := if addInvalid a b then 16 else 0
def nvProduct (a b : Exact) : Nat := if mulInvalid a b then 16 else 0

/-- R180, R188: a product added to a value, and the flags of both. -/
def productSum (down : Bool) (a b c : Exact) : Exact × Nat :=
  (Exact.add down (Exact.mul a b) c, nvProduct a b ||| nvSum (Exact.mul a b) c)

/-- R188: the four products of element `x` of `vdot4` added to vd's element one after another. -/
def dotSum (h : Hart) (e : QEntry) (d a b : Reg) (x : Nat) : Exact × Nat :=
  let p := fun j => numA h { e with vl := 4 * e.vl } a (4 * x + j)
  let q := fun j => numB h e b (4 * x + j)
  let add := fun (r : Exact × Nat) j => let u := productSum (Rnd.ofCode (fwRnd e.fw) == .rdn) (p j) (q j) r.1; (u.1, r.2 ||| u.2)
  add (add (add (add (numD h e d x, 0) 0) 1) 2) 3

/-- R59, R181: the block scale of element `x`. -/
def blockScale (h : Hart) (e : QEntry) (b : Reg) (x : Nat) : Nat :=
  match e.qb with
  | some n => h.qelem n (x / 32)
  | none => h.elem b.toNat 8 (x / 32)

/-- R179 to R188, R63, R67: destination and result of element `x` of the instructions that write a vector register element by element,
and whether the result has an m0 bit. -/
def laneResult (h : Hart) (e : QEntry) (x : Nat) : Option (Reg × Res × Bool) :=
  let down := Rnd.ofCode (fwRnd e.fw) == .rdn
  let w := codeWidth (fwD e.fw)
  let A := fun r => numA h e r x
  let B := fun r => numB h e r x
  let a := fun r => (numA h e r x).toInt
  let b := fun r => (numB h e r x).toInt
  let float := fun d v fl => some (d, rounded h e x false v fl, true)
  let int := fun (d : Reg) (n : Int) => some (d, rounded h e x false (.ofInt n) 0, true)
  let low := fun (d : Reg) (n : Int) => some (d, ({ bits := (n % 2 ^ w).toNat } : Res), false)
  let bits := fun (d : Reg) (n : Nat) => some (d, ({ bits := n } : Res), false)
  let by' := fun r => (b r % (w : Int)).toNat
  match e.instr with
  | .vfadd _ _ d p q => float d (Exact.add down (A p) (B q)) (nvSum (A p) (B q))
  | .vfsub _ _ d p q => float d (Exact.add down (A p) (B q).negate) (nvSum (A p) (B q).negate)
  | .vfmul _ _ d p q => float d (Exact.mul (A p) (B q)) (nvProduct (A p) (B q))
  | .vfma _ _ d p q => let r := productSum down (A p) (B q) (numD h e d x); float d r.1 r.2
  | .vfnma _ _ d p q => let r := productSum down (A p).negate (B q) (numD h e d x); float d r.1 r.2
  | .vfmin _ _ d p q => float d (Exact.minimum (A p) (B q)) 0
  | .vfmax _ _ d p q => float d (Exact.maximum (A p) (B q)) 0
  | .vfdiv _ _ d p q => some (d, quotient h e x (Exact.div (A p) (B q)), true)
  | .vfsqrt _ _ d p => let r := Exact.sqrt (A p); float d r.1 r.2
  | .vfrsq _ _ d p => some (d, quotient h e x (Exact.rsqrt (A p)), true)
  | .vfuq _ _ d p q => some (d, updateQuotient (fmtOf (fwD e.fw)) (Rnd.ofCode (fwRnd e.fw)) (fwNan e.fw) (draw h e x) (tableOf h e)
      (A p) (B q) (decodeNum (fmtOf (fwB e.fw)) (tableOf h e) e.eps.toNat), true)
  | .vfabs _ _ d p => float d ((A p).withSign false) 0
  | .vfneg _ _ d p => float d (A p).negate 0
  | .vfsgn _ _ d p q =>
    let neg := if fwB e.fw = 6 then (tableOf h e (rawB h e q x % 16)).msb else (rawB h e q x).testBit (codeWidth (fwB e.fw) - 1)
    float d ((A p).withSign neg) 0
  | .vfscale _ _ d p q =>
    let k := blockScale h e q x
    if fwScale e.fw = 0 then float d (scaleBy (A p) (b q)) 0
    else if k % 256 = 255 then float d .nan 0
    else float d (scaleBy (A p) (if fwScale e.fw = 1 then (k : Int) - 127 else 127 - k)) 0
  | .vfcls _ _ d p => int d (classMask (fmtOf (fwA e.fw)) (A p))
  | .vfcvt _ _ d p | .vfcvti _ _ d p | .vficvt _ _ d p => some (d, rounded h e x true (A p) 0, true)
  | .vadd _ _ d p q => low d (a p + b q)
  | .vsub _ _ d p q => low d (a p - b q)
  | .vmul _ _ d p q => low d (a p * b q)
  | .vmulh _ _ d p q => low d (a p * b q / 2 ^ w)
  | .vmin _ _ d p q => int d (min (a p) (b q))
  | .vmax _ _ d p q => int d (max (a p) (b q))
  | .vand _ _ d p q => bits d (rawA h e p x &&& rawB h e q x)
  | .vor _ _ d p q => bits d (rawA h e p x ||| rawB h e q x)
  | .vxor _ _ d p q => bits d (rawA h e p x ^^^ rawB h e q x)
  | .vsll _ _ d p q => bits d (rawA h e p x * 2 ^ by' q)
  | .vsrl _ _ d p q => bits d (rawA h e p x / 2 ^ by' q)
  | .vsra _ _ d p q => low d ((BitVec.ofNat w (rawA h e p x)).toInt / 2 ^ by' q)
  | .vadds _ _ d p q => int d (a p + b q)
  | .vsubs _ _ d p q => int d (a p - b q)
  | .vabsd _ _ d p q => int d (a p - b q).natAbs
  | .vsel m _ d p q => some (d, (if h.mbit m x then moveInto h e x (fwA e.fw) (bitsA h e p x)
      else moveInto h e x (fwB e.fw) (some (rawB h e q x))), true)
  | .vmv _ _ d p => some (d, moveInto h e x (fwA e.fw) (bitsA h e p x), true)
  | .vbcast _ _ d _ => some (d, moveInto h e x (fwA e.fw) (some (e.o1.toNat % 2 ^ codeWidth (fwA e.fw))), true)
  | .vidx _ _ d => int d x
  | .vwma _ _ d p q => int d ((numD h e d x).toInt + a p * b q)
  | .vwmul _ _ d p q => int d (a p * b q)
  | .vwadd _ _ d p q => int d (a p + b q)
  | .vdot4 _ _ d p q => let r := dotSum h e d p q x; float d r.1 r.2
  | .vrand _ _ d =>
    let p := philox (h.uw.seed.toNat % 2 ^ 32 ^^^ fwSalt e.fw) (h.uw.seed.toNat / 2 ^ 32) x (e.srctr.toNat % 2 ^ 32)
      (e.srctr.toNat / 2 ^ 32) e.hid
    bits d (if w = 64 then p.2.1 * 2 ^ 32 + p.1 else p.1)
  | _ => none

/-- R65, R66: the flags and the sticky bit of some results. -/
def flagsOf (l : List Res) : Nat := l.foldl (fun n r => n ||| r.fl) 0
def stickyOf (e : QEntry) (l : List Res) : W64 := if fwNan e.fw = true ∧ (∃ r ∈ l, r.bad = true) then 0x1000 else 0

/-- The elements of a group that the predicate admits. -/
def admitted (h : Hart) (e : QEntry) (lo hi : Nat) : List Nat :=
  ((List.range (hi - lo)).map (lo + ·)).filter fun x => h.admits (vshape e.instr).m x

/-- R179 to R188: a group of any instruction that writes a vector register element by element: each admitted element gets its result
and, where the instruction writes m0, its m0 bit; the flags collect; all else stays. -/
def LanesCommit : Prop :=
  ∀ (s : State) (e : QEntry) (l : List QEntry) (d : Reg) (m0 : Bool) (r : Nat → Res),
    let i := s.input.hart
    let h := s.hart i
    let w := codeWidth (fwD e.fw)
    let hi := groupStop h.leff e
    let xs := admitted h e e.k hi
    CommitReady s i e l → (∀ x, laneResult h e x = some (d, r x, m0)) →
    ∃ t, exec .groupCommit s = .next t
      ∧ (∀ x, x < e.vl → (t.hart i).elem d.toNat w x = if x ∈ xs then (r x).bits % 2 ^ w else h.elem d.toNat w x)
      ∧ (∀ n, n ∉ e.regs ⟨d.toNat, w, 1⟩ → (t.hart i).v[n]? = h.v[n]?)
      ∧ (∀ x, x < 16384 → (t.hart i).mbit 0 x = if m0 = true ∧ x ∈ xs then (r x).m0 else h.mbit 0 x)
      ∧ (∀ n, n ≠ 0 → ∀ x, (t.hart i).mbit n x = h.mbit n x)
      ∧ (t.hart i).uw = (if m0 then { h.uw with
          fflags := h.uw.fflags ||| BitVec.ofNat 64 (flagsOf (xs.map r)), lsticky := h.uw.lsticky ||| stickyOf e (xs.map r) } else h.uw)
      ∧ (e.qa = none → e.qb = none → (t.hart i).q = h.q) ∧ (t.hart i).x = h.x ∧ t.mem = s.mem ∧ EntryMoves t i e l hi

/-- R182, R186, R192: mask destination, bit and invalid flag of element `x` of the comparisons and the mask operations. -/
def maskResult (h : Hart) (e : QEntry) (x : Nat) : Option (BitVec 3 × Bool × Bool) :=
  let A := fun r => numA h e r x
  let B := fun r => numB h e r x
  let nan := fun p q => (A p).isNaN || (B q).isNaN
  match e.instr with
  | .vfeq _ _ d p q => some (d, Exact.eqv (A p) (B q), false)
  | .vflt _ _ d p q => some (d, Exact.lt (A p) (B q), nan p q)
  | .vfle _ _ d p q => some (d, Exact.le (A p) (B q), nan p q)
  | .vseq _ _ d p q => some (d, decide ((A p).toInt = (B q).toInt), false)
  | .vsne _ _ d p q => some (d, decide ((A p).toInt ≠ (B q).toInt), false)
  | .vslt _ _ d p q => some (d, decide ((A p).toInt < (B q).toInt), false)
  | .vsltu _ _ d p q => some (d, decide (rawA h e p x < rawB h e q x), false)
  | .mand d p q => some (d, h.mbit p x && h.mbit q x, false)
  | .mor d p q => some (d, h.mbit p x || h.mbit q x, false)
  | .mxor d p q => some (d, h.mbit p x != h.mbit q x, false)
  | .mnot d p => some (d, !h.mbit p x, false)
  | _ => none

/-- A group of a comparison or a mask operation writes the bits of its admitted elements and the invalid flag, and nothing else. -/
def MasksCommit : Prop :=
  ∀ (s : State) (e : QEntry) (l : List QEntry) (d : BitVec 3) (bit nv : Nat → Bool),
    let i := s.input.hart
    let h := s.hart i
    let hi := groupStop h.leff e
    let xs := admitted h e e.k hi
    CommitReady s i e l → e.vl ≤ 16384 → (∀ x, maskResult h e x = some (d, bit x, nv x)) →
    ∃ t, exec .groupCommit s = .next t
      ∧ (∀ x, (t.hart i).mbit d x = if x ∈ xs then bit x else h.mbit d x)
      ∧ (∀ n, n ≠ d → ∀ x, (t.hart i).mbit n x = h.mbit n x)
      ∧ (t.hart i).uw = { h.uw with fflags := h.uw.fflags ||| (if ∃ x ∈ xs, nv x = true then 16 else 0) }
      ∧ (t.hart i).v = h.v ∧ (t.hart i).x = h.x ∧ t.mem = s.mem ∧ EntryMoves t i e l hi

/-- R189: destination, source and predicate of a permutation, and the source element that element `x` of the destination takes: none
where it keeps its value, no element where it becomes zero. -/
def movedFrom (h : Hart) (e : QEntry) (x : Nat) : Option (Reg × Reg × Option (Option Nat)) :=
  let n := e.o1.toNat
  let below := fun m => ((List.range x).filter fun y => h.admits m y).length
  match e.instr with
  | .vperm m _ d a b => some (d, a, if h.admits m x then some (
      let j := (numB h e b x).toInt
      if 0 ≤ j ∧ j < e.vl then some j.toNat else none) else none)
  | .vslup m _ d a _ => some (d, a, if h.admits m x = true ∧ n ≤ x then some (some (x - n)) else none)
  | .vsldn m _ d a _ => some (d, a, if h.admits m x then some (if x + n < e.vl then some (x + n) else none) else none)
  | .vcompress m _ d a => some (d, a, some ((List.range e.vl).filter fun y => h.admits m y)[x]?)
  | .vexpand m _ d a => some (d, a, some (if h.admits m x then some (below m) else none))
  | _ => none

/-- R189: the element that a permutation moves, as bits of fmt_d (R186). -/
def movedElem (h : Hart) (e : QEntry) (a : Reg) (x : Nat) (y : Option Nat) : Res :=
  moveInto h e x (fwA e.fw) (y.map fun y => h.elem a.toNat (codeWidth (fwA e.fw)) y)

/-- R68, R69, R190: the result of a reduction, and of element `x` of a scan: what their trees leave over the active elements. -/
def reduced (h : Hart) (e : QEntry) (m : BitVec 3) (o : BitVec 2) (a : Reg) : Res :=
  match (upSweep h e m o a).getLast? with
  | some (some r :: _) => r
  | _ => identity h e o.toNat
def scanned (h : Hart) (e : QEntry) (m : BitVec 3) (o : BitVec 2) (a : Reg) (x : Nat) : Res :=
  (downSweep h e o (upSweep h e m o a) x).getD (identity h e o.toNat)

/-- R183, R192, R215: the x register and value that an instruction with a scalar result writes. -/
def scalarResult (h : Hart) (e : QEntry) : Option (Reg × W64) :=
  let act := fun m => (List.range e.vl).filter fun x => h.admits m x
  let wa := codeWidth (fwA e.fw)
  match e.instr with
  | .vsig m _ d a => some (d, crc64 (packElems wa ((act m).map fun x => rawA h e a x % 2 ^ wa)))
  | .mpop m d a => some (d, BitVec.ofNat 64 ((act m).filter fun x => h.mbit a x).length)
  | .mffs m d a => some (d, match (act m).find? fun x => h.mbit a x with
      | some x => BitVec.ofNat 64 x
      | none => BitVec.ofInt 64 (-1))
  | .mmvx d a _ => some (d, if 64 * e.o1.toNat < e.vl then
      BitVec.ofNat 64 (h.m[a.toNat].toNat % 2 ^ e.vl / 2 ^ (64 * e.o1.toNat)) else 0)
  | .vmvx d a _ => some (d, if e.o1.toNat < e.vl then
      BitVec.ofInt 64 (BitVec.ofNat e.ewval (h.elem a.toNat e.ewval e.o1.toNat)).toInt else 0)
  | _ => none

/-- R68 to R70, R183, R189 to R192, R215: an instruction that commits all or nothing writes its results in one step: the permutations
and the scan their elements, the reduction element 0, each with its m0 bits; `vxpose8` the transposed blocks; the others a scalar
register, a mask or one element. -/
def WholeCommits : Prop :=
  (∀ (s : State) (e : QEntry) (l : List QEntry) (d a : Reg) (y : Nat → Option (Option Nat)),
    let i := s.input.hart
    let h := s.hart i
    let w := codeWidth (fwD e.fw)
    (∀ x, movedFrom h e x = some (d, a, y x)) → CommitReady s i e l → e.k = 0 → e.vl ≤ 16384 →
    ∃ t, exec .groupCommit s = .next t ∧ (t.hart i).vq = l ∧ t.mem = s.mem ∧ (t.hart i).x = h.x
      ∧ (∀ x, x < e.vl → (t.hart i).elem d.toNat w x = match y x with
          | some z => (movedElem h e a x z).bits % 2 ^ w
          | none => h.elem d.toNat w x)
      ∧ (∀ x, x < e.vl → (t.hart i).mbit 0 x = match y x with
          | some z => (movedElem h e a x z).m0
          | none => h.mbit 0 x)
      ∧ ∀ n, n ∉ e.regs ⟨d.toNat, w, 1⟩ → (t.hart i).v[n]? = h.v[n]?)
  ∧ (∀ (s : State) (e : QEntry) (l : List QEntry) (m f : BitVec 3) (o : BitVec 2) (d a : Reg),
    let i := s.input.hart
    let h := s.hart i
    let w := codeWidth (fwD e.fw)
    (e.instr = .vred m f o d a → CommitReady s i e l → e.k = 0 → e.vl ≤ 16384 →
      ∃ t, exec .groupCommit s = .next t ∧ (t.hart i).vq = l ∧ t.mem = s.mem
      ∧ (∀ x, x < e.vl → (t.hart i).elem d.toNat w x = if x = 0 then (reduced h e m o a).bits % 2 ^ w else h.elem d.toNat w x)
      ∧ (∀ x, x < e.vl → (t.hart i).mbit 0 x = if x = 0 then (reduced h e m o a).m0 else h.mbit 0 x)
      ∧ (t.hart i).uw.fflags = h.uw.fflags ||| BitVec.ofNat 64 (reduced h e m o a).fl ∧ (t.hart i).x = h.x)
    ∧ (e.instr = .vscan m f o d a → CommitReady s i e l → e.k = 0 → e.vl ≤ 16384 →
      ∃ t, exec .groupCommit s = .next t ∧ (t.hart i).vq = l ∧ t.mem = s.mem
      ∧ (∀ x, x < e.vl → (t.hart i).elem d.toNat w x = (scanned h e m o a x).bits % 2 ^ w)
      ∧ (∀ x, x < e.vl → (t.hart i).mbit 0 x = (scanned h e m o a x).m0)
      ∧ (t.hart i).uw.fflags = h.uw.fflags ||| BitVec.ofNat 64 (flagsOf ((List.range e.vl).map (scanned h e m o a)))
      ∧ (t.hart i).x = h.x))
  ∧ (∀ (s : State) (e : QEntry) (l : List QEntry) (f : BitVec 3) (d : Reg),
    let i := s.input.hart
    let h := s.hart i
    e.instr = .vxpose8 0 f d → d.toNat + 7 ≤ 31 → CommitReady s i e l → e.k = 0 → e.vl ≤ 16384 →
    ∃ t, exec .groupCommit s = .next t ∧ (t.hart i).vq = l ∧ t.mem = s.mem ∧ (t.hart i).m = h.m ∧ (t.hart i).x = h.x ∧ (t.hart i).uw = h.uw
      ∧ ∀ j x, j < 8 → x < e.vl → (t.hart i).elem (d.toNat + j) e.ewval x =
          if x / 8 * 8 + j < e.vl then h.elem (d.toNat + x % 8) e.ewval (x / 8 * 8 + j) else h.elem (d.toNat + j) e.ewval x)
  ∧ (∀ (s : State) (e : QEntry) (l : List QEntry) (d : Reg) (v : W64),
    let i := s.input.hart
    let h := s.hart i
    scalarResult h e = some (d, v) → CommitReady s i e l → e.k = 0 → e.vl ≤ 16384 →
    ∃ t, exec .groupCommit s = .next t ∧ (t.hart i).vq = l ∧ t.mem = s.mem ∧ (t.hart i).x = (if d = 0 then h.x else h.x.set d.toNat v)
      ∧ (t.hart i).v = h.v ∧ (t.hart i).m = h.m
      ∧ (t.hart i).uw = h.uw)
  ∧ (∀ (s : State) (e : QEntry) (l : List QEntry) (d : BitVec 3),
    let i := s.input.hart
    let h := s.hart i
    e.instr = .mfromvl d → CommitReady s i e l → e.k = 0 → e.vl ≤ 16384 →
    ∃ t, exec .groupCommit s = .next t ∧ (t.hart i).vq = l ∧ t.mem = s.mem ∧ (∀ x, (t.hart i).mbit d x = decide (x < e.vl))
      ∧ (∀ n, n ≠ d → ∀ x, (t.hart i).mbit n x = h.mbit n x) ∧ (t.hart i).v = h.v ∧ (t.hart i).x = h.x)
  ∧ ∀ (s : State) (e : QEntry) (l : List QEntry) (d a b : Reg),
    let i := s.input.hart
    let h := s.hart i
    e.instr = .vmvv d a b → CommitReady s i e l → e.k = 0 → e.vl ≤ 16384 →
    ∃ t, exec .groupCommit s = .next t ∧ (t.hart i).vq = l ∧ t.mem = s.mem ∧ (t.hart i).m = h.m ∧ (t.hart i).x = h.x ∧ (t.hart i).uw = h.uw
      ∧ ∀ x, x < e.vl → (t.hart i).elem d.toNat e.ewval x = if x = e.o2.toNat then e.o1.toNat % 2 ^ e.ewval else h.elem d.toNat e.ewval x

/-! ## Vector accesses to memory (R87, R96, R101, R196 to R202, R205, R212 to R214) -/

/-- R199: the accesses of some elements, `n` bytes each, pass their checks and land in the package at `p`, none at a device-ordered
page. -/
def AccessesLand (s : State) (i : Nat) (e : QEntry) (n : Nat) (acc : Acc) (xs : List Nat) (p : Nat → Loc) : Prop :=
  ∀ x ∈ xs, elemCheck s i e n x acc = .ok ⟨p x, false⟩ ∧ ∀ pa node a, p x ≠ .fabric pa node a

/-- The accesses of a group go to scratchpads, or the group has one element. -/
def OwnPlaces (e : QEntry) (hi : Nat) (xs : List Nat) (p : Nat → Loc) : Prop := hi = e.k + 1 ∨ ∀ x ∈ xs, ∃ c o, p x = .spad c o

/-- The bytes of a scratchpad. -/
def spadBytesAt (s : State) (c o n : Nat) : List Byte := (s.core c).spad.bytes o n

/-- R197 to R200, R208: a group of a load that lands in the package: each admitted element becomes the bytes that the hart sees there,
lowest first, in its register or in its load queue, where an element that the predicate does not admit becomes 0. -/
def LoadsCommit : Prop :=
  ∀ (s : State) (e : QEntry) (l : List QEntry) (w : BitVec 2) (q : Bool) (d : Reg) (p : Nat → Loc),
    let i := s.input.hart
    let h := s.hart i
    let n := memWidth w
    let hi := groupStop h.leff e
    let xs := admitted h e e.k hi
    let bytes := fun x => ofLE (loadAt s i (vectorView i) ⟨p x, false⟩ n).2
    CommitReady s i e l → loadDest e.instr = some (w, q, d) → e.qa = none → e.qb = none →
    (∀ w m d a, e.instr = .vldFf w m d a → AccessesLand s i e n .load ((List.range (hi - e.k)).map (e.k + ·)) p) →
    AccessesLand s i e n .load xs p → OwnPlaces e hi xs p → (∀ x ∈ xs, loadPoison s i (vectorView i) ⟨p x, false⟩ n = none) →
    (q = true → queueFull h e e.k = false ∧ d.toNat < 4) →
    ∃ t, exec .groupCommit s = .next t ∧ EntryMoves t i e l hi ∧ (t.hart i).m = h.m ∧ (t.hart i).x = h.x ∧ (t.hart i).uw = h.uw
      ∧ (∀ c, (t.core c).spad = (s.core c).spad)
      ∧ (q = false → (∀ x, x < e.vl → (t.hart i).elem d.toNat (8 * n) x = if x ∈ xs then bytes x else h.elem d.toNat (8 * n) x)
        ∧ (∀ r, r ∉ e.regs ⟨d.toNat, 8 * n, 1⟩ → (t.hart i).v[r]? = h.v[r]?) ∧ (t.hart i).q = h.q)
      ∧ (q = true → (t.hart i).v = h.v ∧ (∀ r, r ≠ d.toNat → (t.hart i).q[r]? = h.q[r]?)
        ∧ (∀ y, (t.hart i).q[d.toNat]? = some y → y.progress = hi
          ∧ ∀ x, e.k ≤ x → x < hi → kget 0 y.elems x = BitVec.ofNat 64 (if x ∈ xs then bytes x else 0)))

/-- R205: a `vld.ff` whose element `k`, above 0, is the first that fails its checks otherwise than by an error loads the elements below
it, sets `cw.vl` to `k` and completes. -/
def FirstFaultTrims : Prop :=
  ∀ (s : State) (e : QEntry) (l : List QEntry) (w : BitVec 2) (m : BitVec 3) (d a : Reg) (p : Nat → Loc) (k : Nat) (f : TrapInfo),
    let i := s.input.hart
    let h := s.hart i
    let n := memWidth w
    let xs := admitted h e e.k k
    CommitReady s i e l → e.instr = .vldFf w m d a → e.k ≤ k → 0 < k → k < groupStop h.leff e →
    AccessesLand s i e n .load ((List.range (k - e.k)).map (e.k + ·)) p → (∀ x ∈ xs, ∃ c o, p x = .spad c o) →
    (∀ x ∈ xs, loadPoison s i (vectorView i) ⟨p x, false⟩ n = none) → elemCheck s i e n k .load = .error f → f.cause ≠ 0x09 →
    ∃ t, exec .groupCommit s = .next t ∧ (t.hart i).vq = l ∧ (t.hart i).uw = { h.uw with vl := BitVec.ofNat 64 k }
      ∧ (∀ x, x < e.vl → (t.hart i).elem d.toNat (8 * n) x =
          if x ∈ xs then ofLE (loadAt s i (vectorView i) ⟨p x, false⟩ n).2 else h.elem d.toNat (8 * n) x)
      ∧ (t.hart i).m = h.m ∧ (t.hart i).x = h.x ∧ t.mem = s.mem

/-- R212: the address of the progress word of an entry; 0 for every store but `vst.n`. -/
def progressOf (e : QEntry) : W64 := match e.instr with
  | .vstN .. => e.o2
  | _ => 0

/-- A vector store: its width and data. -/
def vectorStore : Instr → Option (BitVec 2 × Reg)
  | .vst w _ d _ | .vsts w _ d _ _ | .vstx w _ d _ _ | .vstxO w _ d _ _ | .vstN w _ d _ => some (w, d)
  | _ => none

/-- The bytes of element `x` of a vector store, lowest first. -/
def storedBytes (h : Hart) (w : BitVec 2) (d : Reg) (x : Nat) : List Byte := toLE (2 ^ w.toNat) (h.elem d.toNat (8 * 2 ^ w.toNat) x)

/-- R87, R101, R197, R212: a group of a store whose elements go to places of their own. Outside guarded strips each admitted element's
bytes stand at its place, and no other byte differs but those of the progress word of `vst.n`, to which the group's positions are
added. In a guarded strip the stores are held, each with its place and its bytes one behind another in the strip store buffer (log 13,
DEDUCED), and memory is as before (R47). -/
def StoresCommit : Prop :=
  ∀ (s : State) (e : QEntry) (l : List QEntry) (w : BitVec 2) (d : Reg) (p : Nat → Loc),
    let i := s.input.hart
    let h := s.hart i
    let n := 2 ^ w.toNat
    let hi := groupStop h.leff e
    let xs := admitted h e e.k hi
    CommitReady s i e l → vectorStore e.instr = some (w, d) → AccessesLand s i e n .store (admitted h e 0 hi) p →
    (admitted h e 0 hi).Pairwise (fun x y => p x ≠ p y) →
    (e.guarded h = false → progressOf e = 0 → ∀ c, (∀ x ∈ xs, ∃ o, p x = .spad c o ∧ o % n = 0) →
      ∃ t, exec .groupCommit s = .next t ∧ EntryMoves t i e l hi ∧ (t.hart i).v = h.v ∧ (t.hart i).x = h.x ∧ (t.hart i).uw = h.uw
        ∧ (∀ x ∈ xs, ∀ o, p x = .spad c o → spadBytesAt t c o n = storedBytes h w d x)
        ∧ (∀ o, (∀ x ∈ xs, ¬ Within (p x) n (.spad c o)) → (t.core c).spad.read o = (s.core c).spad.read o)
        ∧ (∀ k, k ≠ c → (t.core k).spad = (s.core k).spad) ∧ t.mem = s.mem)
    ∧ (e.guarded h = false → progressOf e = 0 → ∀ x a, hi = e.k + 1 → xs = [x] → p x = .mem a → a % 64 + n ≤ 64 →
      MemoryForm s →
      ∃ t, exec .groupCommit s = .next t ∧ EntryMoves t i e l hi ∧ (t.hart i).v = h.v ∧ (t.hart i).x = h.x ∧ (t.hart i).uw = h.uw
        ∧ bytesAt t (vectorView i) (.mem a) n = storedBytes h w d x ∧ OtherBytes (touchAt s (vectorView i) (.mem a)) t (.mem a) n)
    ∧ (e.guarded h = false → ∀ c o, progressOf e ≠ 0 → e.k % h.leff = 0 → xs = [] →
      locate s i e.space false .store e.o2 = .ok ⟨.spad c o, false⟩ → addPoison s i (.spad c o) = none →
      ∃ t, exec .groupCommit s = .next t ∧ EntryMoves t i e l hi ∧ (t.hart i).v = h.v ∧ (t.hart i).x = h.x
        ∧ ofLE (spadBytesAt t c o 8) = (ofLE (spadBytesAt s c o 8) + (hi - e.k)) % 2 ^ 64
        ∧ (∀ b, ¬ Within (.spad c o) 8 (.spad c b) → (t.core c).spad.read b = (s.core c).spad.read b) ∧ t.mem = s.mem)
    ∧ (e.guarded h = true → progressOf e = 0 →
      ∃ t, exec .groupCommit s = .next t ∧ EntryMoves t i e l hi ∧ (t.hart i).v = h.v ∧ (t.hart i).x = h.x ∧ (t.hart i).uw = h.uw
        ∧ (t.hart i).buf = (xs.zipIdx.reverse.map fun q => ⟨p q.1, storedBytes h w d q.1, storeScope (p q.1), elemAddr h e n q.1, false,
            none, heldBytes h + n * q.2, vectorView i⟩) ++ h.buf
        ∧ t.mem = s.mem ∧ (∀ c, t.core c = { s.core c with spadPoison := (t.core c).spadPoison }) ∧ t.dies = s.dies)

/-- R68, R214: what the elements of a chunk at the address of element `x` amount to: the tree of their values in ascending order. -/
def chunkValue (h : Hart) (e : QEntry) (w : BitVec 2) (d : Reg) (xs : List Nat) (x : Nat) : Nat :=
  let n := 2 ^ w.toNat
  let same := xs.filter fun y => elemAddr h e n y = elemAddr h e n x
  (treeOf (fun a b => atomicNew (vamoOp e.instr) n a b 0) 64 (same.map fun y => h.elem d.toNat (8 * n) y)).getD 0

/-- R96, R213, R214: a chunk of a vector atomic in the scratchpad: the word at each address becomes the operation on its old value and
what the chunk's elements there amount to; no other byte differs, and no register. -/
def AtomicsCommit : Prop :=
  ∀ (s : State) (e : QEntry) (l : List QEntry) (w : BitVec 2) (d : Reg) (p : Nat → Loc) (c : Nat),
    let i := s.input.hart
    let h := s.hart i
    let n := 2 ^ w.toNat
    let hi := groupStop 64 e
    let xs := admitted h e e.k hi
    CommitReady s i e l → storeSrc e.instr = some (w, d) → vectorStore e.instr = none →
    let all := xs.filterMap fun x => (chunkCheck s i e n x).toOption
    (∀ x ∈ xs, chunkPlace s i e n all x = .ok ⟨p x, false⟩ ∧ ∃ o, p x = .spad c o ∧ o % n = 0) →
    (∀ x ∈ xs, ∀ y ∈ xs, p x = p y ↔ elemAddr h e n x = elemAddr h e n y) →
    ∃ t, exec .groupCommit s = .next t ∧ EntryMoves t i e l hi ∧ (t.hart i).v = h.v ∧ (t.hart i).m = h.m ∧ (t.hart i).x = h.x
      ∧ (∀ x ∈ xs, ∀ o, p x = .spad c o → spadBytesAt t c o n =
          toLE n (atomicNew (vamoOp e.instr) n (ofLE (spadBytesAt s c o n)) (chunkValue h e w d xs x) 0))
      ∧ (∀ o, (∀ x ∈ xs, ¬ Within (p x) n (.spad c o)) → (t.core c).spad.read o = (s.core c).spad.read o)
      ∧ (∀ k, k ≠ c → (t.core k).spad = (s.core k).spad) ∧ t.mem = s.mem

/-- R196: `cbload` takes the 16 entries of its table from 32 aligned bytes in the package, two bytes to an entry. -/
def CodebookLoads : Prop :=
  ∀ (s : State) (e : QEntry) (l : List QEntry) (t : BitVec 4) (a : Reg) (p : Loc),
    let i := s.input.hart
    let h := s.hart i
    let bs := (loadAt s i (vectorView i) ⟨p, false⟩ 32).2
    CommitReady s i e l → e.instr = .cbload t a → e.k = 0 → e.vl = 1 → e.o1.toNat % 32 = 0 →
    touchesBuffer (e.guarded h) h i e.o1 32 = false → locate s i e.space false .load e.o1 = .ok ⟨p, false⟩ →
    (∀ pa node a, p ≠ .fabric pa node a) → loadPoison s i (vectorView i) ⟨p, false⟩ 32 = none →
    ∃ u, exec .groupCommit s = .next u ∧ (u.hart i).vq = l
      ∧ (∀ c, c < 16 → (u.hart i).code t.toNat c = BitVec.ofNat 16 (ofLE ((bs.drop (2 * c)).take 2)))
      ∧ (∀ n c, c < 16 → n ≠ t.toNat → (u.hart i).code n c = h.code n c)
      ∧ (u.hart i).v = h.v ∧ (u.hart i).m = h.m ∧ (u.hart i).x = h.x ∧ (u.hart i).uw = h.uw

/-! ## The matrix unit (R220, R221, R224, R231) -/

/-- R224: a request for a shape: each dimension at most 256. -/
def grantedShape (w : W64) : Nat :=
  min 256 (w.toNat % 2 ^ 16) + 2 ^ 16 * min 256 (w.toNat / 2 ^ 16 % 2 ^ 16) + 2 ^ 32 * min 256 (w.toNat / 2 ^ 32 % 2 ^ 16)

/-- What every `mshape` that completes leaves: the shape in x[d] and `cw.mshape`, and M in `cw.tl`. -/
def ShapeSet (s t : State) (d : Reg) (g : Nat) (own : Bool) : Prop :=
  t.rx d = shown d (BitVec.ofNat 64 g) ∧ t.me.uw.mshape = BitVec.ofNat 64 (g + if own then 2 ^ 63 else 0)
  ∧ t.me.uw.tl = BitVec.ofNat 64 (g % 2 ^ 16) ∧ t.me.pc = s.me.pc + 8 ∧ (∀ r, r ≠ d → t.rx r = s.rx r) ∧ t.me.v = s.me.v ∧ t.mem = s.mem

/-- `mshape` claims a free matrix unit, whose tiles and banks read as zero unless this hart owned it last; it is refused while
another hart owns the unit; a request of zero gives the unit up. -/
def MshapeClaims : Prop :=
  ∀ (s : State) (d a : Reg), s.me.priv = .user ∨ (s.me.level s.me.priv).stat.getLsbD 5 = false →
    let c := s.core (coreOf s.cur)
    let own := fun (t : State) => (t.core (coreOf s.cur)).owner
    (fld (s.rx a) 47 0 ≠ 0 → c.owner = none →
      ∃ t, exec (.mshape d a) s = .next t ∧ ShapeSet s t d (grantedShape (s.rx a)) true ∧ own t = some s.cur
        ∧ (c.lastOwner = some s.cur → (t.core (coreOf s.cur)).tiles = c.tiles ∧ (t.core (coreOf s.cur)).banks = c.banks)
        ∧ (c.lastOwner ≠ some s.cur → (∀ k r n, k < 12 → r < 64 → n < 256 → (t.core (coreOf s.cur)).tile k r n = 0)
            ∧ ∀ b : Fin 2, (t.core (coreOf s.cur)).banks[b] = {}))
    ∧ (fld (s.rx a) 47 0 ≠ 0 → c.owner = some s.cur →
      ∃ t, exec (.mshape d a) s = .next t ∧ ShapeSet s t d (grantedShape (s.rx a)) true ∧ t.cores = s.cores)
    ∧ (fld (s.rx a) 47 0 ≠ 0 → (∃ j, j ≠ s.cur ∧ c.owner = some j) →
      ∃ t, exec (.mshape d a) s = .next t ∧ ShapeSet s t d 0 false ∧ t.cores = s.cores)
    ∧ (fld (s.rx a) 47 0 = 0 → c.owner = some s.cur → s.me.mq = [] →
      ∃ t, exec (.mshape d a) s = .next t ∧ ShapeSet s t d 0 false ∧ own t = none
        ∧ (t.core (coreOf s.cur)).tiles = c.tiles)
    ∧ (fld (s.rx a) 47 0 = 0 → c.owner ≠ some s.cur →
      ∃ t, exec (.mshape d a) s = .next t ∧ ShapeSet s t d 0 false ∧ t.cores = s.cores)

/-- The oldest matrix instruction of a hart has been dispatched, passes every check of R225 to R234, finds a shape without a dimension of
zero, and reads nothing poisoned; the step runs all of it (log 43, DESIGN CHOICE). -/
structure MatrixReady (s : State) (i : Nat) (e : QEntry) (l : List QEntry) : Prop where
  units : UnitsReady s i
  head : (s.hart i).mq = e :: l
  alone : (s.hart i).vq = []
  started : e.dispatched = true ∧ e.fault = none ∧ e.k = 0
  format : badMatrixFormat e = false
  groups : (e.reads ++ e.writes).any e.badGroup = false
  shape : emptyShape e = false ∧ badShape (s.hart i) e = false ∧ badRows s i e = none
  lanes : 0 < (s.hart i).leff
  clean : (s.hart i).vpoison = [] ∧ (s.hart i).sram = [] ∧ (s.core (coreOf i)).accPoison = []
    ∧ ∀ b : Fin 2, (s.core (coreOf i)).banks[b].parity = []
  whole : s.input.word = 0

/-- MATRIX_EXECUTE of `mzero` clears its tiles and no other, and takes the instruction from the queue. -/
def MzeroClears : Prop :=
  ∀ (s : State) (e : QEntry) (l : List QEntry) (acc cnt : BitVec 4), let i := s.input.hart
    UnitsReady s i → (s.hart i).mq = e :: l → (s.hart i).vq = [] → e.fault = none → (s.hart i).sram = [] → e.instr = .mzero acc cnt →
    let c := s.core (coreOf i)
    ∃ t, exec .matrixExecute s = .next t ∧ (t.hart i).mq = l ∧ (t.hart i).x = (s.hart i).x ∧ (t.hart i).v = (s.hart i).v
      ∧ (∀ k r n, r < 64 → n < 256 → (t.core (coreOf i)).tile k r n
          = if acc.toNat ≤ k ∧ k ≤ acc.toNat + cnt.toNat then 0 else c.tile k r n)
      ∧ (t.core (coreOf i)).banks = c.banks ∧ (t.core (coreOf i)).spad = c.spad ∧ t.mem = s.mem

/-- MATRIX_EXECUTE of `mrd` copies the admitted elements of a row of a tile, converted to fmt_d, into a vector register; into FP32 a
finite element is copied as it stands (R232). -/
def MrdReadsRow : Prop :=
  ∀ (s : State) (e : QEntry) (l : List QEntry) (acc : BitVec 4) (f d b : Reg) (m : BitVec 3), let i := s.input.hart
    let h := s.hart i
    let c := s.core (coreOf i)
    let w := codeWidth (fwD e.fw)
    let bits := c.tile acc.toNat e.o2.toNat
    let r := fun n => encodeNum (fmtOf (fwD e.fw)) (Rnd.ofCode (fwRnd e.fw)) (fwNan e.fw) true (draw h e (e.o2.toNat * 256 + n))
      (tableOf h e) (decodeFloat .fp32 (bits n))
    MatrixReady s i e l → e.instr = .mrd acc f d b m → e.vl ≤ 256 → e.vl * e.ewval ≤ e.gval * 256 * h.leff →
    ∃ t, exec .matrixExecute s = .next t ∧ (t.hart i).mq = l
      ∧ (∀ n, n < e.vl → (t.hart i).elem d.toNat w n = if h.admits m n then (r n).bits % 2 ^ w else h.elem d.toNat w n)
      ∧ (∀ n, n < e.vl → h.admits m n = true → (t.hart i).mbit 0 n = (r n).m0)
      ∧ (fwD e.fw = 0 → ∀ n, n < e.vl → h.admits m n = true → bits n % 2 ^ 31 < 0x7F800000 → (t.hart i).elem d.toNat 32 n = bits n)
      ∧ (∀ k, k ∉ e.regs ⟨d.toNat, w, 1⟩ → (t.hart i).v[k]? = h.v[k]?) ∧ (t.hart i).x = h.x ∧ t.core (coreOf i) = c ∧ t.mem = s.mem

/-- R226, R227: the addresses of the rows that `mldb` and `mldbx` load. -/
def bankRow (h : Hart) (e : QEntry) (k : Nat) : W64 :=
  match e.instr with
  | .mldbx _ _ _ b _ => e.o1 + BitVec.ofNat 64 (h.elem b.toNat e.ewval k) * e.o3
  | _ => e.o1 + BitVec.ofNat 64 k * e.o2

/-- The bank that `mldb` or `mldbx` loads. -/
def bankNamed : Instr → Option (BitVec 1)
  | .mldb b _ _ _ => some b
  | .mldbx b _ _ _ _ => some b
  | _ => none

/-- R72, R226, R227: `mldb` and `mldbx` load K rows of N packed elements from the scratchpad into a bank, quantised block by block;
integer elements stand there as they are. The other bank, the tiles and the registers stay. -/
def BanksLoad : Prop :=
  ∀ (s : State) (e : QEntry) (l : List QEntry) (b : BitVec 1) (bs : Nat → List Byte),
    let i := s.input.hart
    let h := s.hart i
    let c := s.core (coreOf i)
    let f := fmtOf (fwB e.fw)
    let bits := fun k n => packedElem f.width (bs k) n
    MatrixReady s i e l → bankNamed e.instr = some b → e.sk ≤ 256 → e.sn ≤ 256 →
    (∀ k, k < e.sk → rowCheck s i e (bankRow h e k) e.sn f.width = none
      ∧ windowRow s i (bankRow h e k) (packedBytes f.width e.sn) = .ok (bs k)) →
    ∃ t, exec .matrixExecute s = .next t ∧ (t.hart i).mq = l
      ∧ (t.core (coreOf i)).banks[b.toNat]? = some (bankOf f (tableOf h e) e.sk e.sn bits)
      ∧ (f.isInt = true → ∀ k n, k < e.sk → n < e.sn → ∀ y, (t.core (coreOf i)).banks[b.toNat]? = some y →
          kget 0 y.q (256 * k + n) = BitVec.ofInt 16 (decodeNum f (tableOf h e) (bits k n)).toInt ∧ kget 0 y.scale (8 * n + k / 32) = 0)
      ∧ (∀ n, n ≠ b.toNat → (t.core (coreOf i)).banks[n]? = c.banks[n]?) ∧ (t.core (coreOf i)).tiles = c.tiles
      ∧ (t.core (coreOf i)).spad = c.spad ∧ (t.hart i).v = h.v ∧ (t.hart i).m = h.m ∧ (t.hart i).x = h.x ∧ t.mem = s.mem

/-- The forms of `mmul`: tiles, bank, source of A, register of A, predicate, and whether the sums are ordered. -/
def mmulForm : Instr → Option (BitVec 4 × BitVec 1 × Bool × Reg × BitVec 3 × Bool)
  | .mmulO acc b _ asrc oa _ m => some (acc, b, asrc, oa, m, true)
  | .mmulF acc b _ asrc oa _ m => some (acc, b, asrc, oa, m, false)
  | _ => none

/-- R71, R72: the K-blocks of a row of A as integers with their scales; a codebook's values count as BF16. -/
def blocksOfA (h : Hart) (e : QEntry) (bits : List Nat) : List (List Int × Int × Bool) :=
  let f := fmtOf (fwA e.fw)
  let g := if f = .c4 then Fmt.bf16 else f
  (kBlocks 8 (bits.map fun x => decodeNum f (tableOf h e) x)).map (quantBlock g.isInt (planes g))

/-- R73: the sums that adding the block results to an accumulator element can leave: the blocks in order with `.o`, else the blocks
joined by any full binary tree and then added. -/
def mmulSum (ord : Bool) (old : Nat) (l : List Nat) (v : Nat) : Prop :=
  if ord then v = l.foldl addFp32 old else ∃ pick, v = addFp32 old (anyTree pick l.length l)

/-- R71 to R73, R228: `mmul` adds the product of each admitted row of A with the bank to its row of the tiles, from column 0 to N − 1;
with at most 32 elements to a row both forms add the one block result. No other element of a tile differs. -/
def MmulAccumulates : Prop :=
  ∀ (s : State) (e : QEntry) (l : List QEntry) (acc : BitVec 4) (b : BitVec 1) (asrc : Bool) (oa : Reg) (m : BitVec 3) (ord : Bool)
    (A : Nat → List Nat) (y : Bank),
    let i := s.input.hart
    let h := s.hart i
    let c := s.core (coreOf i)
    let product := fun r n => blocksOf y (blocksOfA h e (A r)) n
    MatrixReady s i e l → mmulForm e.instr = some (acc, b, asrc, oa, m, ord) → c.banks[b.toNat]? = some y → e.sn ≤ 256 → e.sk ≤ 256 →
    (∀ r, r < e.sm → h.admits m r = true → rowOfA s i e asrc oa r = .ok (A r)) →
    ∃ t, exec .matrixExecute s = .next t ∧ (t.hart i).mq = l
      ∧ (∀ r n, r < e.sm → n < e.sn → h.admits m r = true →
          mmulSum ord (c.tile (acc.toNat + r / 64) (r % 64) n) (product r n) ((t.core (coreOf i)).tile (acc.toNat + r / 64) (r % 64) n)
          ∧ (e.sk ≤ 32 → (t.core (coreOf i)).tile (acc.toNat + r / 64) (r % 64) n
              = addFp32 (c.tile (acc.toNat + r / 64) (r % 64) n) ((product r n).headD 0)))
      ∧ (∀ k r n, r < 64 → n < 256 →
          ¬(acc.toNat ≤ k ∧ 64 * (k - acc.toNat) + r < e.sm ∧ n < e.sn ∧ h.admits m (64 * (k - acc.toNat) + r) = true) →
          (t.core (coreOf i)).tile k r n = c.tile k r n)
      ∧ (t.core (coreOf i)).banks = c.banks ∧ (t.core (coreOf i)).spad = c.spad ∧ (t.hart i).v = h.v ∧ (t.hart i).m = h.m
      ∧ (t.hart i).x = h.x ∧ t.mem = s.mem

/-- R233: `mwr` writes the admitted elements of a vector register, converted to FP32, into a row of a tile, with their m0 bits. -/
def MwrWritesRow : Prop :=
  ∀ (s : State) (e : QEntry) (l : List QEntry) (acc : BitVec 4) (f a b : Reg) (m : BitVec 3),
    let i := s.input.hart
    let h := s.hart i
    let c := s.core (coreOf i)
    let g := fmtOf (fwA e.fw)
    let r := fun n => encodeNum .fp32 (Rnd.ofCode (fwRnd e.fw)) (fwNan e.fw) false (draw h e (e.o2.toNat * 256 + n)) (tableOf h e)
      (decodeNum g (tableOf h e) (h.elem a.toNat g.width n))
    MatrixReady s i e l → e.instr = .mwr acc f a b m → e.vl ≤ 256 →
    ∃ t, exec .matrixExecute s = .next t ∧ (t.hart i).mq = l
      ∧ (∀ k q n, q < 64 → n < 256 → (t.core (coreOf i)).tile k q n =
          if k = acc.toNat ∧ q = e.o2.toNat ∧ n < e.vl ∧ h.admits m n = true then (r n).bits % 2 ^ 32 else c.tile k q n)
      ∧ (∀ n, n < e.vl → (t.hart i).mbit 0 n = if h.admits m n then (r n).m0 else h.mbit 0 n)
      ∧ (t.core (coreOf i)).banks = c.banks ∧ (t.core (coreOf i)).spad = c.spad ∧ (t.hart i).v = h.v ∧ (t.hart i).x = h.x ∧ t.mem = s.mem

/-- R234: the packed bytes of a row of tiles as `mst` stores it. -/
def rowBytes (h : Hart) (c : Core) (e : QEntry) (acc : BitVec 4) (row : Nat) : List Byte :=
  let f := fmtOf (fwD e.fw)
  packElems f.width ((List.range e.sn).map fun n => (encodeNum f (Rnd.ofCode (fwRnd e.fw)) (fwNan e.fw) true
    (draw h e (row % 64 * 256 + n)) (tableOf h e) (decodeFloat .fp32 (c.tile (acc.toNat + row / 64) (row % 64) n))).bits)

/-- R234: `mst` outside guarded strips stores each admitted row of N elements, converted to fmt_d and packed, at its address in the
scratchpad, where the rows lie apart; no other byte differs, and neither do tiles, banks and vector registers. -/
def MstStoresRows : Prop :=
  ∀ (s : State) (e : QEntry) (l : List QEntry) (acc : BitVec 4) (f a b : Reg) (m : BitVec 3) (k : Nat) (o : Nat → Nat),
    let i := s.input.hart
    let h := s.hart i
    let c := s.core (coreOf i)
    let n := packedBytes (codeWidth (fwD e.fw)) e.sn
    let rows := (List.range e.sm).filter fun r => h.admits m r
    MatrixReady s i e l → e.instr = .mst acc f a b m → e.guarded h = false →
    (∀ r ∈ rows, ∃ ps, storeRowPlaces s i e (e.o1 + BitVec.ofNat 64 r * e.o2) n (codeWidth (fwD e.fw)) = .ok ps
      ∧ ∀ q ∈ ps, q.2.1 = ⟨.spad k (o r + (q.1 - (e.o1 + BitVec.ofNat 64 r * e.o2)).toNat), false⟩) →
    (∀ r ∈ rows, ∀ q ∈ rows, r ≠ q → o r + n ≤ o q ∨ o q + n ≤ o r) →
    ∃ t, exec .matrixExecute s = .next t ∧ (t.hart i).mq = l
      ∧ (∀ r ∈ rows, (t.core k).spad.bytes (o r) n = rowBytes h c e acc r)
      ∧ (∀ j, (∀ r ∈ rows, j < o r ∨ o r + n ≤ j) → (t.core k).spad.read j = (s.core k).spad.read j)
      ∧ (∀ j, j ≠ k → (t.core j).spad = (s.core j).spad) ∧ (t.core (coreOf i)).tiles = c.tiles ∧ (t.core (coreOf i)).banks = c.banks
      ∧ (t.hart i).v = h.v ∧ (t.hart i).m = h.m ∧ (t.hart i).x = h.x ∧ t.mem = s.mem

/-- R183, R235: `msig` writes the CRC-64 of the 64 rows of 256 FP32 elements of a tile, row by row and lowest byte first, to x[d]. -/
def MsigSigns : Prop :=
  ∀ (s : State) (e : QEntry) (l : List QEntry) (acc : BitVec 4) (d : Reg),
    let i := s.input.hart
    let h := s.hart i
    let c := s.core (coreOf i)
    let row := fun r => (List.range 256).flatMap fun n => toLE 4 (c.tile acc.toNat r n)
    MatrixReady s i e l → e.instr = .msig acc d →
    ∃ t, exec .matrixExecute s = .next t ∧ (t.hart i).mq = l
      ∧ (t.hart i).x = (if d = 0 then h.x else h.x.set d.toNat (crc64 ((List.range 64).flatMap row)))
      ∧ (t.hart i).v = h.v ∧ (t.hart i).m = h.m ∧ t.core (coreOf i) = c ∧ t.mem = s.mem

/-- R236: `mscl` multiplies the first N elements of each admitted row below M and below VL by the FP32 element of va with the row's
number. -/
def MsclScales : Prop :=
  ∀ (s : State) (e : QEntry) (l : List QEntry) (acc : BitVec 4) (a : Reg) (m : BitVec 3),
    let i := s.input.hart
    let h := s.hart i
    let c := s.core (coreOf i)
    MatrixReady s i e l → e.instr = .mscl acc a m → e.sn ≤ 256 →
    ∃ t, exec .matrixExecute s = .next t ∧ (t.hart i).mq = l
      ∧ (∀ k r n, r < 64 → n < 256 → (t.core (coreOf i)).tile k r n =
          let q := 64 * (k - acc.toNat) + r
          if acc.toNat ≤ k ∧ q < e.sm ∧ q < e.vl ∧ n < e.sn ∧ h.admits m q = true then
            (encodeFloat .fp32 .rne true 0 (Exact.mul (decodeFloat .fp32 (c.tile k r n))
              (decodeFloat .fp32 (h.elem a.toNat 32 q)))).bits % 2 ^ 32
          else c.tile k r n)
      ∧ (t.core (coreOf i)).banks = c.banks ∧ (t.core (coreOf i)).spad = c.spad ∧ (t.hart i).v = h.v ∧ (t.hart i).m = h.m
      ∧ (t.hart i).x = h.x ∧ t.mem = s.mem

end Sys2Proof.Claim

/-- R25, R206, R207, R221, R302: every vector and matrix instruction is queued with its captured operands when its queue has room, and
changes nothing but the queue, the load queues it binds or takes, the pc and the counter of R63; it stalls while the queue is full,
while a `vld.ff` is queued, or while the load queue it would fill has its consumer (log 44, DEDUCED). R48, R279: a vector atomic, a
gathering instruction, and a store that does not find room commit an open strip first. R300: while the level's image is held it is an
illegal instruction. -/
def Obligations.VectorInstructionsQueue : Prop :=
  ∀ (s : State) (i : Instr), i.wf = true → (vectorQueued i || matrixQueued i) = true →
    (commitsFirst i = true ∨ (storesBytes i = true ∧ (s.me.committing = true ∨ 0x40000 < stripBytes s.me + (entryOf s i).storeBytes s.me)) →
      CommitSteps s i
      ∧ ∀ u, s.me.guarded = true → Committed s u → (matrixQueued i = true → (u.core (coreOf s.cur)).owner = some s.cur) →
        ∃ t e, exec i s = .next t ∧ Captured u i e ∧ OnlyMe u t ∧ t.me.vq ++ t.me.mq = [e]
          ∧ t.me.pc = s.me.pc + (if matrixQueued i then 8 else 4) ∧ t.me.x = s.me.x ∧ t.me.v = u.me.v ∧ QueuesBehind u t i e) ∧
    (QueueOpen s i → (∀ e ∈ s.me.vq, ∀ w m d a, e.instr ≠ .vldFf w m d a) → ¬ QueueTaken s i → queueLength s i < queueBound i →
      ∃ t e, exec i s = .next t ∧ Captured s i e ∧ OnlyMe s t
        ∧ t.me.vq = (if matrixQueued i then s.me.vq else s.me.vq ++ [e])
        ∧ t.me.mq = (if matrixQueued i then s.me.mq ++ [e] else s.me.mq)
        ∧ t.me.pc = s.me.pc + (if matrixQueued i then 8 else 4) ∧ t.me.x = s.me.x ∧ t.me.v = s.me.v ∧ t.me.m = s.me.m
        ∧ t.me.uw = { s.me.uw with srctr := s.me.uw.srctr + (if e.stoch then 1 else 0) } ∧ QueuesBehind s t i e)
    ∧ (QueueOpen s i → queueBound i ≤ queueLength s i ∨ (∃ e ∈ s.me.vq, ∃ w m d a, e.instr = .vldFf w m d a)
        ∨ QueueTaken s i → exec i s = .next s)
    ∧ (s.me.priv ≠ .user → (s.me.level s.me.priv).stat.getLsbD 5 = true →
      ∃ t, exec i s = .next t ∧ TrapTaken s t s.cur { cause := 0x00, val := firstBits i })

/-- R24, R26, R27, R30, R45, R47, R173, R174, R216: `vsetl`, with and without a guarded strip and with a grant point, `vgrant` and
`scommit`. -/
def Obligations.StripControl : Prop :=
  VsetlSetsLength ∧ VsetlBeginsStrip ∧ VsetlTakesGrant ∧ GrantNeedsUser ∧ VgrantReads ∧ ScommitCommits

/-- R25, R36 to R38, R58, R176, R178 to R192, R196 to R202, R205, R212 to R215: VECTOR_DISPATCH checks and starts the oldest entry, or
records its fault; GROUP_COMMIT commits one element group of it, for every family of vector instruction. A format fault comes before
every other (log 47, DEDUCED); results stand as logs 68 to 70 (DEDUCED) read a quotient, an update and an integer overflow; of held
bytes see log 13. -/
def Obligations.VectorUnitRuns : Prop :=
  DispatchStarts ∧ ReservedFormatFaults ∧ GroupCommits ∧ LanesCommit ∧ MasksCommit ∧ WholeCommits ∧ LoadsCommit ∧ FirstFaultTrims
  ∧ StoresCommit ∧ AtomicsCommit ∧ CodebookLoads

/-- R220, R221, R224, R226 to R236: `mshape` claims, keeps, is refused or gives up the matrix unit; MATRIX_EXECUTE runs the oldest
matrix instruction, here the whole of it in one step (log 43, DESIGN CHOICE). -/
def Obligations.MatrixUnitRuns : Prop :=
  MshapeClaims ∧ MzeroClears ∧ MrdReadsRow ∧ BanksLoad ∧ MmulAccumulates ∧ MwrWritesRow ∧ MstStoresRows ∧ MsigSigns ∧ MsclScales

namespace Sys2Proof.Claim

open Sys2Proof Sys2Proof.Machine

/-! ## Stage barriers (R242 to R245, R247, R253) -/

/-- The barriers of the hart's core but for number `n` are as before. -/
def OtherBars (s t : State) (n : BitVec 5) : Prop := ∀ k : BitVec 5, k ≠ n → t.bar (coreOf s.cur) k = s.bar (coreOf s.cur) k

/-- A hart of the core that waited on barrier `n` has completed its `sbwait` with a status. -/
def Released (s t : State) (n : BitVec 5) (st : Nat) : Prop :=
  ∀ j d f b, j / 4 = coreOf s.cur → (s.hart j).mode = .waiting (.sbwait d n f) b →
    (t.hart j).mode = (if b then .trapped else .running) ∧ (t.hart j).pc = (s.hart j).pc + 4
    ∧ (t.hart j).getX d = shown d (BitVec.ofNat 64 st)

/-- R243: `sbinit` clears a barrier that no stream holds; its waiting harts complete with status 2. -/
def SbinitClears : Prop :=
  ∀ (s : State) (n : BitVec 5), Steady s → barHeld s (coreOf s.cur) n.toNat = false →
    ∃ t, exec (.sbinit n) s = .next t ∧ t.bar (coreOf s.cur) n = { s.bar (coreOf s.cur) n with count := 0, st := .idle }
      ∧ OtherBars s t n ∧ Released s t n 2 ∧ SameRegs t.me s.me ∧ t.me.pc = s.me.pc + 4 ∧ t.mem = s.mem

/-- R243: `sbexpect` adds a count of 1 to 2^31 − 1 bytes and arms a barrier that is not broken; another count traps, with value 0 (log 63,
DEDUCED). -/
def SbexpectArms : Prop :=
  (∀ (s : State) (n : BitVec 5) (a : Reg), barHeld s (coreOf s.cur) n.toNat = false → 0 < (s.rx a).toNat → (s.rx a).toNat < 2 ^ 31 →
    let x := s.bar (coreOf s.cur) n
    ∃ t, exec (.sbexpect n a) s = .next t ∧ (t.bar (coreOf s.cur) n).count = x.count + BitVec.ofNat 32 (s.rx a).toNat
      ∧ (t.bar (coreOf s.cur) n).p = x.p ∧ (t.bar (coreOf s.cur) n).st = (if x.st = .broken then .broken else .armed)
      ∧ OtherBars s t n ∧ SameRegs t.me s.me ∧ t.me.pc = s.me.pc + 4 ∧ t.mem = s.mem ∧ ∀ j, j ≠ s.cur → t.hart j = s.hart j)
  ∧ ∀ (s : State) (n : BitVec 5) (a : Reg), s.rx a = 0 ∨ 2 ^ 31 ≤ (s.rx a).toNat →
    ∃ t, exec (.sbexpect n a) s = .next t ∧ TrapTaken s t s.cur { cause := 0x06 }

/-- R243: `sbcancel` abandons an armed barrier with status 2, and leaves another as it is. -/
def SbcancelAbandons : Prop :=
  ∀ (s : State) (n : BitVec 5), barHeld s (coreOf s.cur) n.toNat = false →
    ((s.bar (coreOf s.cur) n).st = .armed → Steady s → ∃ t, exec (.sbcancel n) s = .next t
      ∧ t.bar (coreOf s.cur) n = { s.bar (coreOf s.cur) n with count := 0, st := .idle } ∧ OtherBars s t n ∧ Released s t n 2
      ∧ SameRegs t.me s.me ∧ t.me.pc = s.me.pc + 4 ∧ t.mem = s.mem)
    ∧ ((s.bar (coreOf s.cur) n).st ≠ .armed → exec (.sbcancel n) s = .next (s.setMe { s.me with pc := s.me.pc + 4 }))

/-- R245: `sbwait` answers 0 with an acquire at a complete barrier, 2 at a broken one, 1 where it may not wait, and waits otherwise, in a
handler too (log 67, DEDUCED); behind a progress add of the hart that is queued, a release, it stands (R90, R105). SBWAIT_TIMEOUT answers
1. -/
def SbwaitAnswers : Prop :=
  (∀ (s : State) (n : BitVec 5) (d a : Reg), addPending s.me = true → exec (.sbwait n d a) s = .next s)
  ∧ (∀ (s : State) (n : BitVec 5) (d a : Reg), addPending s.me = false → let st := (s.bar (coreOf s.cur) n).st
    (st = .complete → ∃ t, exec (.sbwait n d a) s = .next t ∧ t.rx d = 0 ∧ t.me.pc = s.me.pc + 4 ∧ KeepsRegs s t [d]
      ∧ (t.die (dieOf s.cur)).gen = (s.die (dieOf s.cur)).gen + 1 ∧ t.mem = s.mem)
    ∧ (st = .broken → ∃ t, exec (.sbwait n d a) s = .next t ∧ t.rx d = shown d 2 ∧ t.me.pc = s.me.pc + 4 ∧ OnlyRegs s t [d])
    ∧ (st = .idle ∨ st = .armed → s.rx a = 0 →
      ∃ t, exec (.sbwait n d a) s = .next t ∧ t.rx d = shown d 1 ∧ t.me.pc = s.me.pc + 4 ∧ OnlyRegs s t [d])
    ∧ (st = .idle ∨ st = .armed → s.rx a ≠ 0 → exec (.sbwait n d a) s
        = .next (s.setMe { s.me with mode := .waiting (.sbwait d n (s.rx a == ~~~0)) (s.me.mode == .trapped) })))
  ∧ ∀ (s : State) (d : Reg) (n : BitVec 5) (b : Bool), let i := s.input.hart
    (s.hart i).mode = .waiting (.sbwait d n false) b → s.hold.phase = .none → coreActive s i = true →
    ∃ t, exec .sbwaitTimeout s = .next t ∧ (t.hart i).mode = (if b then .trapped else .running) ∧ (t.hart i).pc = (s.hart i).pc + 4
      ∧ (t.hart i).getX d = shown d 1 ∧ (∀ r, r ≠ d → (t.hart i).getX r = (s.hart i).getX r) ∧ t.mem = s.mem

/-! ## Copies and streams (R98, R238 to R241, R246, R253) -/

/-- A command of the moving hart can be handed to an engine in state `u`: an open strip has been committed (R48) and the release of R98 is
ready. -/
def HandsOver (s u : State) : Prop := CommitsFirst s u ∧ releaseReady u s.cur 3 = true ∧ Steady s

/-- The channels of the moving hart but for number `c` are as before. -/
def OtherChannels (s t : State) (c : Nat) : Prop := ∀ k, k ≠ c → t.me.chan k = s.me.chan k

/-- The machine behind the release of R98 and the eviction of the 64 bytes at an address from the hart's die, which R84 asks of what is
read at package scope. -/
def besideHome (s : State) (va : W64) : State := homeRange (release s s.cur 3) s.cur (spaceOf (release s s.cur 3) s.cur) va 64

/-- R239: the checks of a copy's operands have passed. -/
def CopyOk (s : State) (c : Nat) (b : Reg) : Prop :=
  fld (s.rx b) 63 48 = 0 ∧ ((s.rx b).getLsbD 47 = true ∨ (s.rx (b + 1)).toNat % 8 = 0)
  ∧ ((s.rx b).getLsbD 45 = false ∨ barHeld s (coreOf s.cur) (fld (s.rx b) 44 40) = false) ∧ (s.me.chan c).stream = none

/-- R239: `cpcopy` takes the channel's next number and puts the copy last in its queue, behind a release and, in an open strip, its commit
(R48). -/
def CpcopyQueues : Prop :=
  ∀ (s u : State) (o : Bool) (c : BitVec 3) (d a b : Reg), c.toNat < 7 → CopyOk s c.toNat b → (s.me.pendingSeqs c.toNat).length < 16 →
    let x := s.me.chan c.toNat
    CommitSteps s (.cpcopy o c d a b)
    ∧ (HandsOver s u → ∃ t y, exec (.cpcopy o c d a b) s = .next t ∧ (t.me.chan c.toNat).copies = x.copies ++ [y] ∧ (t.me.chan c.toNat).seq = x.seq + 1
      ∧ y.dst = s.rx d ∧ y.src = s.rx a ∧ y.ctl = s.rx b ∧ ((s.rx b).getLsbD 47 = false → y.stamp = s.rx (b + 1))
      ∧ y.seq = x.seq + 1 ∧ y.ord = o ∧ y.vstart = 0 ∧ y.fault = none ∧ y.space = spaceOf (release u s.cur 3) s.cur
      ∧ OtherChannels s t c.toNat ∧ t.me.pc = s.me.pc + 4
      ∧ KeepsRegs u t [] ∧ t.mem = (release u s.cur 3).mem)

/-- R246: `cpdecl` of address 0 ends the channel's stream; of a declaration inside the rules it gives the channel that stream. -/
def CpdeclDeclares : Prop :=
  (∀ (s u : State) (c : BitVec 3) (a : Reg), c.toNat < 7 → s.rx a = 0 → (s.me.chan c.toNat).copies = [] → HandsOver s u →
    (c.toNat = 6 → s.me.frames = []) →
    ∃ t, exec (.cpdecl c a) s = .next t ∧ (t.me.chan c.toNat).stream = none ∧ (t.me.chan c.toNat).seq = (s.me.chan c.toNat).seq
      ∧ OtherChannels s t c.toNat ∧ t.me.pc = s.me.pc + 4 ∧ t.me.x = s.me.x)
  ∧ (∀ (s : State) (c : BitVec 3) (a : Reg), c.toNat < 6 → (s.rx a).toNat % 64 = 0 → (s.me.chan c.toNat).copies = [] →
    CommitSteps s (.cpdecl c a))
  ∧ ∀ (s u : State) (c : BitVec 3) (a : Reg) (bs : List Byte) (r : Stream), c.toNat < 6 → s.rx a ≠ 0 → (s.rx a).toNat % 64 = 0 →
    (s.me.chan c.toNat).copies = [] → HandsOver s u →
    readRange (besideHome u (s.rx a)) s.cur (spaceOf (besideHome u (s.rx a)) s.cur) false (s.rx a) 64 = .ok bs →
    streamOf (wordsOf 8 bs) = some r →
    ∃ t r', exec (.cpdecl c a) s = .next t ∧ (t.me.chan c.toNat).stream = some r' ∧ r'.src = r.src ∧ r'.stride = r.stride
      ∧ r'.len = r.len ∧ r'.buf = r.buf ∧ r'.slot = r.slot ∧ r'.nslots = r.nslots ∧ r'.ew = r.ew ∧ r'.sb0 = r.sb0 ∧ r'.p = 0
      ∧ r'.k = 0 ∧ r'.strips = [] ∧ OtherChannels s t c.toNat ∧ t.me.pc = s.me.pc + 4 ∧ t.me.x = s.me.x

/-- R253: `cpstat` reads the channel's last number, how many of its copies have not completed, the Spine's on channel 6 among them (R14), or a
barrier. -/
def CpstatReads : Prop :=
  ∀ (s : State) (c : BitVec 3) (d a : Reg), ∃ t, exec (.cpstat c d a) s = .next t ∧ t.me.pc = s.me.pc + 4 ∧ OnlyRegs s t [d]
    ∧ (s.rx a = 0 → t.rx d = shown d (s.me.chan c.toNat).seq)
    ∧ (s.rx a = 2 → t.rx d = shown d (BitVec.ofNat 64 (s.me.pendingSeqs c.toNat).length))
    ∧ (32 ≤ (s.rx a).toNat → (s.rx a).toNat ≤ 63 → d ≠ 0 →
      let x := s.bar (coreOf s.cur) (BitVec.ofNat 5 ((s.rx a).toNat - 32))
      fld (t.rx d) 31 0 = x.count.toNat ∧ (t.rx d).getLsbD 32 = x.p ∧ fld (t.rx d) 34 33 = x.st.code)

/-- The engine of a hart's copies can move. -/
def CopiesReady (s : State) (i : Nat) : Prop := UnitsReady s i ∧ (s.hart i).chStopped = false

/-- R78, R97, R239, R240, R341: a piece of the oldest copy of a channel, whose source and destination bytes lie in the package, lands, at the
copy's index or at a later word of the destination: at least one byte and at most as many as asked for, up to the end of the last 8-byte
word (log 38, DESIGN CHOICE). The index moves over what has landed at it. What lies in the first line of the source stands at the
destination. -/
def CopyLands : Prop :=
  ∀ (s : State) (y : Copy) (l : List Copy) (n off : Nat) (p q : Place), let i := s.input.hart
    let c := s.input.queue
    let x := y.vstart + off
    let sv := y.src + BitVec.ofNat 64 x
    let dv := y.dst + BitVec.ofNat 64 x
    CopiesReady s i → c < 7 → ((s.hart i).chan c).copies = y :: l → y.fault = none → y.saved = [] → y.pieces = [] →
    s.input.landing = .copy 0 n off → off = 0 ∨ dv.toNat % 8 = 0 → ordWaits (s.hart i) c y = false → 0 < n → x < fld y.ctl 39 0 →
    y.ctl.getLsbD 45 = false →
    outOfRegion y.src sv = false → outOfRegion y.dst dv = false →
    commandPlace s i y.space true .load sv = .ok p → commandPlace s i y.space true .store dv = .ok q →
    (∀ pa node a, p.loc ≠ .fabric pa node a) → (∀ pa node a, q.loc ≠ .fabric pa node a) →
    sv.toNat % 64 + n + 7 ≤ 64 ∨ (∃ core o, p.loc = .spad core o) →
    enginePoison s (dieOf i) p.loc (64 - sv.toNat % 64) = none → MemoryForm s →
    (∀ pa, p.loc = .mem pa → pa % 64 = sv.toNat % 64) → (∀ pa, q.loc = .mem pa → pa % 64 = dv.toNat % 64) →
    ∃ t y' k, exec .copyLanding s = .next t ∧ ((t.hart i).chan c).copies = y' :: l ∧ 1 ≤ k ∧ k ≤ n + 7 ∧ x + k ≤ fld y.ctl 39 0
      ∧ y'.vstart = (if off = 0 then y.vstart + k else y.vstart) ∧ y'.fault = none ∧ y'.pieces = (if off = 0 then [] else [(x, k)])
      ∧ (let m := min k (64 - sv.toNat % 64); engineRead t (dieOf i) q.loc m = engineRead s (dieOf i) p.loc m)
      ∧ ∀ j, j ≠ i → (t.hart j).x = (s.hart j).x

/-- R12, R353, R357: a piece of the oldest copy whose source lies in a fabric window is asked for: a load of the window's node under the key of
the hart's partition, where the core has a free request slot, and nothing lands. -/
def CopyAsks : Prop :=
  ∀ (s : State) (y : Copy) (l : List Copy) (n pa a : Nat) (node : BitVec 16) (dev : Bool) (q : Place), let i := s.input.hart
    let c := s.input.queue
    let sv := y.src + BitVec.ofNat 64 y.vstart
    let dv := y.dst + BitVec.ofNat 64 y.vstart
    CopiesReady s i → c < 7 → ((s.hart i).chan c).copies = y :: l → y.fault = none → y.pieces = [] → y.asked = [] →
    s.input.landing = .copy 0 n 0 → ordWaits (s.hart i) c y = false → 0 < n → y.vstart < fld y.ctl 39 0 →
    outOfRegion y.src sv = false → outOfRegion y.dst dv = false →
    commandPlace s i y.space true .load sv = .ok ⟨.fabric pa node a, dev⟩ → commandPlace s i y.space true .store dv = .ok q →
    (slotFree s i = false → exec .copyLanding s = .next s)
    ∧ (slotFree s i = true → fld s.fw.fnode 15 0 ≠ 0 → ∃ t r y' k, exec .copyLanding s = .next t
      ∧ t.fab.requests = s.fab.requests ++ [r] ∧ r.hart = i ∧ r.node = node ∧ r.addr = a ∧ r.key = keyOf s i ∧ r.store = false
      ∧ 1 ≤ k ∧ k ≤ n + 7 ∧ r.msg = .load s.fab.nextId node a k (keyOf s i) ∧ t.fab.outbox = s.fab.outbox ++ [r.msg]
      ∧ ((t.hart i).chan c).copies = y' :: l ∧ y'.vstart = y.vstart ∧ y'.pieces = [] ∧ t.mem = s.mem ∧ t.cores = s.cores)

/-- R239: a copy whose bytes have all landed, with neither stamp nor interrupt, leaves its channel. -/
def CopyCompletes : Prop :=
  ∀ (s : State) (y : Copy) (l : List Copy), let i := s.input.hart
    let c := s.input.queue
    CopiesReady s i → c < 7 → s.input.index = 0 → ((s.hart i).chan c).copies = y :: l → y.fault = none → ordWaits (s.hart i) c y = false →
    fld y.ctl 39 0 ≤ y.vstart →
    y.ctl.getLsbD 47 = true → y.ctl.getLsbD 46 = false →
    ∃ t, exec .copyComplete s = .next t ∧ ((t.hart i).chan c).copies = l ∧ ((t.hart i).chan c).lastFailed = false
      ∧ ((t.hart i).chan c).seq = ((s.hart i).chan c).seq ∧ t.mem = s.mem ∧ (t.hart i).x = (s.hart i).x

/-! ## The Collator (R254 to R259) -/

/-- R255: `epush` puts the 64 bytes at its address last in the FIFO, behind a release and, in an open strip, its commit (R48). -/
def EpushAppends : Prop :=
  ∀ (s u : State) (a b : Reg) (f : Nat) (bs : List Byte), endpoint s (s.rx a) = some f → (s.rx b).toNat % 64 = 0 → f < 16 →
    (s.fifo (dieOf s.cur) f).held < 8 →
    CommitSteps s (.epush a b)
    ∧ (HandsOver s u →
    readRange (besideHome u (s.rx b)) s.cur (spaceOf (besideHome u (s.rx b)) s.cur) false (s.rx b) 64 = .ok bs →
    ∃ t c, exec (.epush a b) s = .next t ∧ (t.fifo (dieOf s.cur) f).cmds = (s.fifo (dieOf s.cur) f).cmds ++ [c]
      ∧ c.addr = s.rx b ∧ c.raw = bs ∧ c.hart = s.cur ∧ (t.fifo (dieOf s.cur) f).results = (s.fifo (dieOf s.cur) f).results
      ∧ (∀ g, g ≠ f → t.fifo (dieOf s.cur) g = s.fifo (dieOf s.cur) g) ∧ t.me.pc = s.me.pc + 4 ∧ KeepsRegs u t []
      ∧ t.mem = (besideHome u (s.rx b)).mem)

/-- R255: `epop` takes the oldest result entry with an acquire, behind the hart's queued progress adds (R90, R105), or answers 0; `eprobe`
answers the results waiting and the room. A bad endpoint traps with value 0 (log 63, DEDUCED). -/
def EndpointsRead : Prop :=
  (∀ (s : State) (d a : Reg) (f : Nat), endpoint s (s.rx a) = some f → f < 16 →
    ((s.fifo (dieOf s.cur) f).results = [] →
      ∃ t, exec (.epop d a) s = .next t ∧ t.rx d = 0 ∧ t.me.pc = s.me.pc + 4 ∧ OnlyRegs s t [d])
    ∧ (∀ r l, (s.fifo (dieOf s.cur) f).results = r :: l → addPending s.me = true → exec (.epop d a) s = .next s)
    ∧ (∀ r l, (s.fifo (dieOf s.cur) f).results = r :: l → addPending s.me = false →
      ∃ t, exec (.epop d a) s = .next t ∧ t.rx d = shown d r ∧ (t.fifo (dieOf s.cur) f).results = l ∧ t.me.pc = s.me.pc + 4
        ∧ (t.die (dieOf s.cur)).gen = (s.die (dieOf s.cur)).gen + 1 ∧ KeepsRegs s t [d] ∧ t.mem = s.mem)
    ∧ ((s.fifo (dieOf s.cur) f).results.length ≤ 8 → ∃ t, exec (.eprobe d a) s = .next t ∧ t.me.pc = s.me.pc + 4 ∧ OnlyRegs s t [d]
      ∧ t.rx d = shown d (BitVec.ofNat 64 ((s.fifo (dieOf s.cur) f).results.length
          + 256 * (8 - (s.fifo (dieOf s.cur) f).held)))))
  ∧ ∀ (s : State) (d a : Reg), endpoint s (s.rx a) = none →
    (s.me.guarded = false ∨ s.me.openBinding = false → ∃ t, exec (.epush a d) s = .next t ∧ TrapTaken s t s.cur { cause := 0x06 })
    ∧ (∃ t, exec (.epop d a) s = .next t ∧ TrapTaken s t s.cur { cause := 0x06 })
    ∧ ∃ t, exec (.eprobe d a) s = .next t ∧ TrapTaken s t s.cur { cause := 0x06 }

/-- R256: the oldest command of an idle FIFO starts with the tables that it names, or is rejected. Reading the tables evicts the L1 copies of
their lines and wakes a core whose scratchpad holds one (R80, R329). -/
def CommandStarts : Prop :=
  ∀ (s : State) (c : ColCmd) (l : List ColCmd), let d := s.input.die
    let f := s.input.queue
    s.hold.phase = .none → f < 16 → (s.fifo d f).cmds = c :: l → (s.fifo d f).run = none → (s.fifo d f).waiting = [] →
    (∀ u r, startCommand s c = .ok (u, r) → ∃ t, exec .collatorCommandStart s = .next t
      ∧ t = (forget u c.asked).setFifo d f { s.fifo d f with cmds := l, run := some r } ∧ r.cmd = { c with asked := [] }
      ∧ r.rejected = false ∧ r.done = [] ∧ r.failed = none
      ∧ r.ring.length = fld c.head 31 16 ∧ r.buckets.length = fld c.head 47 32)
    ∧ (c.ok = false → ∃ t r, exec .collatorCommandStart s = .next t
      ∧ t = (forget s c.asked).setFifo d f { s.fifo d f with cmds := l, run := some r } ∧ r.cmd = { c with asked := [] }
      ∧ r.rejected = true)

/-- R257: a bucket of one s32 element over two members is summed and the sum written to both members, and their ready words are written
back to 0: the reads and writes are those of R257, in ring order. Where no member lies in a fabric window one step does it all (log 26,
DESIGN CHOICE); at most four buckets run at once. -/
def BucketReduces : Prop :=
  ∀ (s : State) (r : ColRun) (m0 m1 : W64 × W64) (off va0 va1 : W64) (v0 v1 : Nat) (s1 s2 s3 u0 u1 w0 w1 : State),
    let d := s.input.die
    let f := s.input.queue
    let j := s.input.index
    let sum := (v0 + v1) % 2 ^ 32
    s.hold.phase = .none → f < 16 → (s.fifo d f).run = some r → r.rejected = false → r.failed = none → j ∉ r.done →
    r.begun j = false → ((List.range r.buckets.length).filter r.begun).length < 4 →
    r.ring = [m0, m1] → r.buckets[j]? = some (off, 1, 10, 0) → bucketReady s r j = .ok (s1, true) →
    memberAddr m0.1 off 0 4 = .ok va0 → memberAddr m1.1 off 0 4 = .ok va1 →
    memberRead s1 r.cmd j va1 4 (elemIx 1 0) = .ok (s2, v1) → memberRead s2 r.cmd j va0 4 (elemIx 0 0) = .ok (s3, v0) →
    v0 < 2 ^ 32 → v1 < 2 ^ 32 →
    memberWrite s3 r.cmd j va0 4 (writeIx 0 0) sum = .ok u0 → memberWrite u0 r.cmd j va1 4 (writeIx 1 0) sum = .ok u1 →
    memberWrite u1 r.cmd j (m0.2 + BitVec.ofNat 64 (8 * j)) 8 (clearIx 0) 0 = .ok w0 →
    memberWrite w0 r.cmd j (m1.2 + BitVec.ofNat 64 (8 * j)) 8 (clearIx 1) 0 = .ok w1 →
    ∃ t r', exec .bucketStart s = .next t ∧ t = w1.setFifo d f { w1.fifo d f with run := some r' } ∧ r'.done = j :: r.done
      ∧ (∀ k, k ≠ j → r'.begun k = r.begun k) ∧ r'.begun j = false
      ∧ r' = { r with done := r'.done, values := r'.values, reduced := r'.reduced, cmd := { r.cmd with asked := r'.cmd.asked } }

/-- R255, R257: a command that is rejected, failed or done, with a result entry and neither stamp nor interrupt, posts its entry
while the results have room, and counts; an entry that waited is posted when there is room. -/
def CommandPosts : Prop :=
  (∀ (s : State) (r : ColRun), let d := s.input.die
    let f := s.input.queue
    let x := s.fifo d f
    s.hold.phase = .none → f < 16 → x.run = some r →
    r.rejected = true ∨ r.failed.isSome = true ∨ (∀ j, j < r.buckets.length → j ∈ r.done) →
    (∀ j, j < r.buckets.length → r.begun j = false) →
    r.cmd.hasStamp = false → r.cmd.hasUi = false → r.cmd.hasRes = true → x.results.length < 8 → (∀ j, r.failed = some j → j < 64) →
    ∃ t w, exec .collatorCompletion s = .next t
      ∧ t = s.setFifo d f { x with run := none, count := x.count + 1, results := x.results ++ [w] } ∧ w.getLsbD 63 = true
      ∧ fld w 55 48 = (if r.rejected then 2 else if r.failed.isSome then 1 else 0) ∧ fld w 61 56 = r.failed.getD 0
      ∧ fld w 47 0 = r.cmd.addr.toNat % 2 ^ 48)
  ∧ ∀ (s : State) (e : W64) (l : List (W64 × Option (Nat × BitVec 32 × W64))), let d := s.input.die
    let f := s.input.queue
    let x := s.fifo d f
    s.hold.phase = .none → f < 16 → x.waiting = (e, none) :: l → x.results.length < 8 →
    ∃ t, exec .resultEntryPost s = .next t ∧ t = s.setFifo d f { x with results := x.results ++ [e], waiting := l }

/-! ## The Gathering in the vector unit (R276 to R284) and `gundo` (R287), on a forest in a scratchpad -/

/-- Entry `n` of the forest of hart `i` lies at byte `o` of the scratchpad of core `c`, where no held store covers it, and reads `w`. -/
structure EntryAt (s : State) (i : Nat) (sp : Space) (n c o : Nat) (w : W64) : Prop where
  below : n < (s.hart i).uw.gcount.toNat
  place : gatherPlace s i sp (s.hart i).uw.gforest ((s.hart i).uw.gforest + BitVec.ofNat 64 (8 * n)) 8 = .ok ⟨.spad c o, false⟩
  aligned : o % 8 = 0
  unheld : (s.hart i).buf = []
  word : ofLE (spadBytesAt s c o 8) = w.toNat

/-- R276: a root of size `z`, and a link of number `q` to a parent. -/
def rootWord (z n : Nat) : Nat := 2 ^ 63 + 2 ^ 32 * z + n
def linkWord (q p : Nat) : Nat := 2 ^ 32 * q + p

/-- The scratchpads differ at most in the bytes of some ranges of that of core `c`, and local memory does not. -/
def OnlySpad (s t : State) (c : Nat) (l : List (Nat × Nat)) : Prop :=
  (∀ b, (∀ p ∈ l, b < p.1 ∨ p.1 + p.2 ≤ b) → (t.core c).spad.read b = (s.core c).spad.read b)
  ∧ (∀ k, k ≠ c → (t.core k).spad = (s.core k).spad) ∧ t.mem = s.mem

/-- R280: `ginit` makes the entries of a step roots of size 1; the control words change when the last entry has been written. -/
def InitWrites : Prop :=
  ∀ (s : State) (e : QEntry) (l : List QEntry) (c : Nat) (o : Nat → Nat),
    let i := s.input.hart
    let h := s.hart i
    let hi := groupStop 64 e
    GatherReady s i e l → e.instr = .ginit → e.vl < 2 ^ 31 →
    (∀ x, e.k ≤ x → x < hi → ∃ w, EntryAt s i e.space x c (o x) w) →
    (∀ x y, e.k ≤ x → x < y → y < hi → o x ≠ o y) →
    ∃ t, exec .groupCommit s = .next t ∧ EntryMoves t i e l hi
      ∧ (∀ x, e.k ≤ x → x < hi → ofLE (spadBytesAt t c (o x) 8) = rootWord 1 x)
      ∧ OnlySpad s t c (((List.range (hi - e.k)).map (e.k + ·)).map fun x => (o x, 8))
      ∧ (t.hart i).v = h.v ∧ (t.hart i).x = h.x
      ∧ (hi = e.vl → (t.hart i).marks = [] ∧ (t.hart i).uw = { h.uw with gseq := 0, gclasses := h.uw.gcount })
      ∧ (hi < e.vl → (t.hart i).marks = h.marks ∧ (t.hart i).uw = h.uw)

/-- R281, R282: `gunite` of a pair of roots links the smaller class, or of two equal ones that of the higher number, to the other, whose size
becomes the sum; with a mark open the undo log gets its entry; of one root twice nothing is linked. The root goes to vd. -/
def UniteLinks : Prop :=
  ∀ (s : State) (e : QEntry) (l : List QEntry) (m : BitVec 3) (d a b : Reg) (x c oa ob ol za zb : Nat),
    let i := s.input.hart
    let h := s.hart i
    let hi := groupStop h.leff e
    let na := h.elem a.toNat 32 x
    let nb := h.elem b.toNat 32 x
    let q := h.uw.gseq.toNat + 1
    let la := h.uw.glog + BitVec.ofNat 64 (16 * (q - h.marks.headD 0 - 1))
    CommitReady s i e l → e.instr = .gunite m d a b → admitted h e e.k hi = [x] → za < 2 ^ 31 → zb < 2 ^ 31 →
    EntryAt s i e.space na c oa (BitVec.ofNat 64 (rootWord za na)) →
    (na = nb → ∃ t, exec .groupCommit s = .next t ∧ EntryMoves t i e l hi ∧ (t.hart i).uw = h.uw ∧ OnlySpad s t c []
      ∧ (t.hart i).elem d.toNat 32 x = na)
    ∧ (na ≠ nb → oa ≠ ob → za + zb < 2 ^ 31 → q < 2 ^ 31 → EntryAt s i e.space nb c ob (BitVec.ofNat 64 (rootWord zb nb)) →
      (h.marks ≠ [] → la.toNat + 16 ≤ h.uw.glogend.toNat ∧ gatherPlace s i e.space h.uw.glog la 16 = .ok ⟨.spad c ol, false⟩
        ∧ (∀ y ∈ [oa, ob], ol + 16 ≤ y ∨ y + 8 ≤ ol)) →
      let r := if zb < za ∨ (za = zb ∧ na < nb) then (na, oa, nb, ob, za) else (nb, ob, na, oa, zb)
      ∃ t, exec .groupCommit s = .next t ∧ EntryMoves t i e l hi
        ∧ ofLE (spadBytesAt t c r.2.1 8) = rootWord (za + zb) r.1 ∧ ofLE (spadBytesAt t c r.2.2.2.1 8) = linkWord q r.1
        ∧ (h.marks ≠ [] → spadBytesAt t c ol 16 = toLE 4 r.2.2.1 ++ toLE 4 r.1 ++ toLE 4 r.2.2.2.2 ++ toLE 4 q)
        ∧ OnlySpad s t c ((oa, 8) :: (ob, 8) :: if h.marks = [] then [] else [(ol, 16)])
        ∧ (t.hart i).uw.gseq = BitVec.ofNat 64 q ∧ (t.hart i).uw.gclasses.toNat = (h.uw.gclasses.toNat + 2 ^ 32 - 1) % 2 ^ 32
        ∧ (t.hart i).marks = h.marks ∧ (t.hart i).x = h.x ∧ (t.hart i).elem d.toNat 32 x = r.1)

/-- R283: `gfind` of an element two links below its root gives the root, and links the element to it where the numbers of both links are at
most the bound: the oldest open mark, or 2^31 with none. A root gives itself. -/
def FindCompresses : Prop :=
  ∀ (s : State) (e : QEntry) (l : List QEntry) (m : BitVec 3) (d a : Reg) (x c oa : Nat),
    let i := s.input.hart
    let h := s.hart i
    let hi := groupStop h.leff e
    let n := h.elem a.toNat 32 x
    let bound := if h.marks = [] then 2 ^ 31 else h.marks.headD 0
    CommitReady s i e l → e.instr = .gfind m d a → admitted h e e.k hi = [x] →
    let found := fun (r : Nat) (w : Nat) => ∃ t, exec .groupCommit s = .next t ∧ EntryMoves t i e l hi
      ∧ (t.hart i).elem d.toNat 32 x = r ∧ ofLE (spadBytesAt t c oa 8) = w ∧ OnlySpad s t c [(oa, 8)]
      ∧ (t.hart i).uw = h.uw ∧ (t.hart i).marks = h.marks ∧ (t.hart i).x = h.x
    (∀ z, z < 2 ^ 31 → EntryAt s i e.space n c oa (BitVec.ofNat 64 (rootWord z n)) → found n (rootWord z n))
    ∧ ∀ k r z q p ok or', z < 2 ^ 31 → q < 2 ^ 31 → p < 2 ^ 31 →
      EntryAt s i e.space n c oa (BitVec.ofNat 64 (linkWord q k)) → EntryAt s i e.space k c ok (BitVec.ofNat 64 (linkWord p r)) →
      EntryAt s i e.space r c or' (BitVec.ofNat 64 (rootWord z r)) →
      found r (if q ≤ bound ∧ p ≤ bound then linkWord (max q p) r else linkWord q k)

/-- R284: what a chunk of `grelabel` adds to the word of root `r`: the 32-bit sum, or with `.fs` the tree of FP32 sums, of its elements'
values in ascending order. -/
def relabelled (h : Hart) (fs : Bool) (b : Reg) (root : Nat → Nat) (xs : List Nat) (r : Nat) : Nat :=
  let add := fun u v => if fs then addFp32 u v else (u + v) % 2 ^ 32
  (treeOf add 64 ((xs.filter fun y => root y = r).map fun y => h.elem b.toNat 32 y)).getD 0

/-- R284: a chunk of `grelabel` adds to the word of each root in an array in a scratchpad what its elements amount to; with `.b` the last
chunk, here the only one, leaves in each active element of vb the word of its root. -/
def RelabelAdds : Prop :=
  ∀ (s : State) (e : QEntry) (l : List QEntry) (fs wb : Bool) (m : BitVec 3) (d a b : Reg) (c : Nat) (root o : Nat → Nat) (w : Nat → W64),
    let i := s.input.hart
    let h := s.hart i
    let hi := groupStop 64 e
    let xs := admitted h e e.k hi
    let sum := fun x => let v := relabelled h fs b root xs (root x)
      let old := ofLE (spadBytesAt s c (o (root x)) 4)
      if fs then addFp32 old v else (old + v) % 2 ^ 32
    CommitReady s i e l → e.instr = .grelabel fs wb m d a b → h.buf = [] → (wb = true → e.k = 0 ∧ hi = e.vl) →
    (∀ x ∈ xs, rootOf s i e.space (h.elem a.toNat 32 x) = .ok (s, root x, w x)
      ∧ gatherPlace s i e.space e.o1 (e.o1 + BitVec.ofNat 64 (4 * root x)) 4 = .ok ⟨.spad c (o (root x)), false⟩) →
    (∀ x ∈ xs, ∀ y ∈ xs, root x ≠ root y → o (root x) + 4 ≤ o (root y) ∨ o (root y) + 4 ≤ o (root x)) →
    ∃ t, exec .groupCommit s = .next t ∧ EntryMoves t i e l hi
      ∧ (∀ x ∈ xs, ofLE (spadBytesAt t c (o (root x)) 4) = sum x)
      ∧ OnlySpad s t c (xs.map fun x => (o (root x), 4))
      ∧ (∀ x, x < e.vl → (t.hart i).elem b.toNat 32 x = if wb = true ∧ x ∈ xs then sum x else h.elem b.toNat 32 x)
      ∧ (t.hart i).m = h.m ∧ (t.hart i).x = h.x ∧ (t.hart i).uw = h.uw

/-- R287: with a link newer than the newest mark, a step of `gundo` takes the newest link back as its log entry says, and `gundo` stands: the
child is a root again, of the size that the parent loses. -/
def UndoUnlinks : Prop :=
  ∀ (s : State) (m k p c ok op ol z old num : Nat) (w : W64), let sp := spaceOf s s.cur
    let q := s.me.uw.gseq.toNat
    Drained s → s.me.guarded = false → s.me.marks.getLast? = some m → m < q → q < 2 ^ 31 → forestCheck s s.cur sp = .ok () →
    gatherPlace s s.cur sp s.me.uw.glog (s.me.uw.glog + BitVec.ofNat 64 (16 * (q - s.me.marks.headD 0 - 1))) 16 = .ok ⟨.spad c ol, false⟩ →
    spadBytesAt s c ol 16 = toLE 4 k ++ toLE 4 p ++ toLE 4 old ++ toLE 4 num → k < 2 ^ 31 → p < 2 ^ 31 → ok ≠ op → old ≤ z → z < 2 ^ 31 →
    EntryAt s s.cur sp k c ok w → EntryAt s s.cur sp p c op (BitVec.ofNat 64 (rootWord z p)) →
    ∃ t, exec .gundo s = .next t ∧ ofLE (spadBytesAt t c ok 8) = rootWord (z - old) k ∧ ofLE (spadBytesAt t c op 8) = rootWord old p
      ∧ OnlySpad s t c [(ok, 8), (op, 8)] ∧ t.me.uw.gseq = BitVec.ofNat 64 (q - 1)
      ∧ t.me.uw.gclasses.toNat = (s.me.uw.gclasses.toNat + 1) % 2 ^ 32 ∧ t.me.marks = s.me.marks ∧ t.me.pc = s.me.pc ∧ t.me.x = s.me.x

/-! ## The Gathering at the front end (R285 to R287) and the loss scale (R193 to R195) -/

/-- R276, R285: `gsize` of an element that is a root answers the size in its entry. -/
def GsizeReads : Prop :=
  ∀ (s u : State) (d a : Reg) (e : W64), let n := (s.rx a).toNat
    Drained s → forestCheck s s.cur (spaceOf s s.cur) = .ok () → n < s.me.uw.gcount.toNat →
    readEntry s s.cur (spaceOf s s.cur) n = .ok (u, e) → e.getLsbD 63 = true →
    ∃ t, exec (.gsize d a) s = .next t ∧ t.rx d = shown d (BitVec.ofNat 64 (fld e 62 32)) ∧ t.me.pc = s.me.pc + 4 ∧ KeepsRegs s t [d]
      ∧ t.mem = u.mem

/-- R286, R287: `gsnap` pushes the sequence number as a mark, at most four; `gdrop` pops the newest mark; `gundo` with no link above
the newest mark pops it, and with no mark does nothing. -/
def MarksPushAndPop : Prop :=
  ∀ s : State, Drained s → s.me.guarded = false →
    (∀ d : Reg, s.me.marks.length < 4 → ∃ t, exec (.gsnap d) s = .next t ∧ t.me.marks = s.me.marks ++ [s.me.uw.gseq.toNat]
      ∧ t.rx d = shown d s.me.uw.gseq ∧ t.me.pc = s.me.pc + 4 ∧ KeepsRegs s t [d] ∧ OnlyMe s t)
    ∧ (∀ d : Reg, 4 ≤ s.me.marks.length → ∃ t, exec (.gsnap d) s = .next t ∧ TrapTaken s t s.cur { cause := 0x0C })
    ∧ (∃ t, exec .gdrop s = .next t ∧ t.me.marks = s.me.marks.dropLast ∧ t.me.pc = s.me.pc + 4 ∧ KeepsRegs s t [] ∧ OnlyMe s t)
    ∧ (s.me.marks = [] → exec .gundo s = .next (s.setMe { s.me with pc := s.me.pc + 4 }))
    ∧ ∀ m, s.me.marks.getLast? = some m → fld s.me.uw.gseq 30 0 ≤ m → forestCheck s s.cur (spaceOf s s.cur) = .ok () →
      ∃ t, exec .gundo s = .next t ∧ t.me.marks = s.me.marks.dropLast ∧ t.me.pc = s.me.pc + 4 ∧ KeepsRegs s t [] ∧ OnlyMe s t

/-- R48, R279: `gsnap`, `gundo` and `gdrop` commit an open strip first. -/
def MarksCommitFirst : Prop :=
  ∀ s : State, (∀ d : Reg, CommitSteps s (.gsnap d)) ∧ CommitSteps s .gundo ∧ CommitSteps s .gdrop

/-- R194: the value of the stored scale. -/
def scaleOf (h : Hart) : Nat := h.uw.lscale.toNat % 2 ^ 32

/-- R194: the code of half a positive finite scale, rounded with RNE below 2^−126, and at least 2^−149. -/
def halved (n : Nat) : Nat := if 0x01000000 ≤ n then n - 0x00800000 else max 1 ((n + n / 2 % 2) / 2)
/-- R194: the code of twice a positive finite scale, at most 2^127. -/
def doubled (n : Nat) : Nat := if n < 0x00800000 then 2 * n else min 0x7F000000 (n + 0x00800000)

/-- R194, R195: behind the queues `lsupd` with a nonzero indicator halves a positive finite scale, clears the growth count and the sticky
bits, and answers 1; with 0 it counts, and where the count reaches a nonzero interval doubles the scale and starts again; `lsacc` sets
`cw.lsticky.vec` where its register is not 0. Both wait while earlier vector and matrix instructions are queued. -/
def LossScaleMoves : Prop :=
  (∀ (s : State) (d a : Reg), Drained s →
    let w := s.me.uw
    let n := scaleOf s.me
    let bad := s.rx a ≠ 0
    let g := min (w.lgrow.toNat % 2 ^ 32 + 1) 0xFFFFFFFF
    let grown := w.lint.toNat % 2 ^ 32 ≠ 0 ∧ g = w.lint.toNat % 2 ^ 32
    ∃ t, exec (.lsupd d a) s = .next t ∧ t.rx d = shown d (if bad then 1 else 0) ∧ t.me.pc = s.me.pc + 4
      ∧ scaleOf t.me = (if 0 < n ∧ n < 0x7F800000 then (if bad then halved n else if grown then doubled n else n) else n)
      ∧ t.me.uw.lgrow.toNat = (if bad ∨ grown then 0 else g) ∧ t.me.uw.lsticky = (if bad then 0 else w.lsticky)
      ∧ t.me.uw = { w with lscale := t.me.uw.lscale, lgrow := t.me.uw.lgrow, lsticky := t.me.uw.lsticky }
      ∧ (∀ r, r ≠ d → t.rx r = s.rx r) ∧ OnlyMe s t)
  ∧ (∀ (s : State) (a : Reg), Drained s →
    ∃ t, exec (.lsacc a) s = .next t ∧ t.me.pc = s.me.pc + 4 ∧ t.me.x = s.me.x ∧ OnlyMe s t
      ∧ t.me.uw = (if s.rx a = 0 then s.me.uw else { s.me.uw with lsticky := s.me.uw.lsticky ||| 0x1000 }))
  ∧ (∀ (s : State) (d a : Reg), ¬(s.me.vq = [] ∧ s.me.mq = []) → s.me.openBinding = false →
    exec (.lsupd d a) s = .next s ∧ exec (.lsacc a) s = .next s)
  ∧ ∀ d a : Reg, encode (.lsupd d a) = qWord 0 0 0 a d 0x30 ∧ encode (.lsacc a) = qWord 0 1 0 a 0 0x30

end Sys2Proof.Claim

/-- R242 to R245, R247: the stage-barrier instructions and the end of a wait. A bad count traps with value 0 (log 63, DEDUCED), and a handler
waits too (log 67, DEDUCED). -/
def Obligations.StageBarriers : Prop := SbinitClears ∧ SbexpectArms ∧ SbcancelAbandons ∧ SbwaitAnswers

/-- R98, R238 to R241, R246, R253: copies are queued, behind the commit of an open strip (R48), ask the fabric, land and complete; streams are
declared and ended; `cpstat` reads. What part of a copy lands in a step is log 38 (DESIGN CHOICE). -/
def Obligations.CopiesAndStreams : Prop :=
  CpcopyQueues ∧ CpdeclDeclares ∧ CpstatReads ∧ CopyLands ∧ CopyAsks ∧ CopyCompletes

/-- R254 to R257: the endpoint instructions, `epush` behind the commit of an open strip (R48), and the steps of a Collator command. A step of a
bucket is log 26 (DESIGN CHOICE); a bad endpoint traps with value 0 (log 63, DEDUCED). -/
def Obligations.CollatorCommands : Prop := EpushAppends ∧ EndpointsRead ∧ CommandStarts ∧ BucketReduces ∧ CommandPosts

/-- R194, R195, R276, R280 to R287: forests initialised, united, searched and relabelled, links undone, sizes, marks, and the loss scale. -/
def Obligations.GatheringMarksAndLossScale : Prop :=
  InitWrites ∧ UniteLinks ∧ FindCompresses ∧ RelabelAdds ∧ UndoUnlinks ∧ GsizeReads ∧ MarksPushAndPop ∧ MarksCommitFirst ∧ LossScaleMoves


namespace Sys2Proof.Claim

open Sys2Proof Sys2Proof.Machine

/-! ## Chains (R122, R260 to R274) -/

/-- The channels of the moving hart hold no copy (R263). -/
def NoCopies (h : Hart) : Prop := ∀ c : Fin 7, (h.ch[c]).copies = []

/-- A chain instruction that has no handler, queue or strip to wait for. -/
def ChainOpen (s : State) : Prop :=
  s.me.uw.uicause.getLsbD 4 = false ∧ s.me.guarded = false ∧ Drained s ∧ NoCopies s.me

/-- R260: `chain` on a descriptor that passes every check pushes a frame at the start of its schedule; at depth four it traps with
code 0, and on a descriptor outside the limits with code 2. The descriptor is read at package scope (R84). -/
def ChainPushes : Prop :=
  ∀ (s : State) (a : Reg) (bs : List Byte), ChainOpen s → (s.rx a).toNat % 64 = 0 → (s.me.chan 6).stream = none →
    let u := homeRange s s.cur (spaceOf s s.cur) (s.rx a) 64
    readRange u s.cur (spaceOf u s.cur) false (s.rx a) 64 = .ok bs →
    (∀ d, s.me.frames.length < 4 → chainCheck (wordsOf 8 bs) = .ok d →
      ∃ t f, exec (.chain a) s = .next t ∧ t.me.frames = s.me.frames ++ [f] ∧ f.desc = s.rx a ∧ f.d = d ∧ f.phase = .idle
        ∧ f.act = 0 ∧ f.mism = 0 ∧ f.reps = 0 ∧ f.cont = s.me.pc + 4 ∧ f.repairs = [] ∧ (∀ v ∈ f.slots, v.1 = false)
        ∧ SameRegs t.me s.me ∧ OnlyMe u t)
    ∧ (4 ≤ s.me.frames.length → ∃ t, exec (.chain a) s = .next t ∧ TrapTaken u t s.cur { cause := 0x13, code := 0 })
    ∧ (s.me.frames.length < 4 → chainFields (wordsOf 8 bs) (chainDescOf (wordsOf 8 bs)) = false →
      ∃ t, exec (.chain a) s = .next t ∧ TrapTaken u t s.cur { cause := 0x13, code := 2 })

/-- R265: the slots of a frame behind an action that the schedule `p` stands behind: a slot that the schedule frees there is no longer
valid. -/
def SlotsBehind (f g : Frame) (p : Sched) : Prop :=
  ∀ (j : Nat) (v : Bool × Nat), f.slots[j]? = some v →
    g.slots[j]? = some (if j ∈ p.slots.map (·.1) ∧ j ∉ p.settled.slots.map (·.1) then (false, v.2) else v)

/-- R48, R128, R209: a chain instruction that passes its own first checks commits an open strip first; with an open queue binding it is illegal
before any of them. -/
def ChainOrder : Prop :=
  (∀ (s : State) (a : Reg), s.me.uw.uicause.getLsbD 4 = false → (s.rx a).toNat % 64 = 0 → CommitSteps s (.chain a))
  ∧ (∀ s : State, s.me.uw.uicause.getLsbD 4 = false → s.me.frames ≠ [] → CommitSteps s .chabort)
  ∧ ∀ (s : State) (a : Reg) (i : Instr), i = .chain a ∨ i = .chret ∨ i = .chabort → s.me.openBinding = true →
    ∃ t, exec i s = .next t ∧ TrapTaken s t s.cur { cause := 0x00, val := firstBits i }

/-- R262, R263: `chret` ends the innermost frame's routine call: behind an ADVANCE the next state is live, behind an ADJOINT no state
is where the descriptor says that it is clobbered; the schedule moves on. With no call under way, or with x2 or x4 changed, it traps. -/
def ChretReturns : Prop :=
  (∀ (s : State) (f : Frame) (k : Nat) (p : Sched), ChainOpen s → s.me.frames.getLast? = some f →
    f.phase = .inAdvance ∨ f.phase = .inAdjoint → s.rx 2 = f.sx2 → s.rx 4 = f.sx4 → f.d.sigcheck = false → f.repairs = [] →
    (p.settled.next silentSteps).isSome = true → f.action = some (.advance k, p) ∨ f.action = some (.adjoint k, p) →
    ∃ t g, exec .chret s = .next t ∧ t.me.frames = s.me.frames.dropLast ++ [g] ∧ g.phase = .idle ∧ g.act = f.act + 1
      ∧ g.sched = p.settled ∧ SlotsBehind f g p
      ∧ g.d = f.d ∧ g.cont = f.cont
      ∧ (f.action = some (.advance k, p) → g.live = k + 1 ∧ g.lvalid = true)
      ∧ (f.action = some (.adjoint k, p) → g.live = f.live ∧ g.lvalid = (f.lvalid && !f.d.clobber))
      ∧ SameRegs t.me s.me ∧ OnlyMe s t)
  ∧ (∀ s : State, s.me.openBinding = false → s.me.frames = [] → ∃ t, exec .chret s = .next t ∧ TrapTaken s t s.cur { cause := 0x13, code := 4 })
  ∧ ∀ (s : State) (f : Frame), s.me.openBinding = false → s.me.frames.getLast? = some f → f.phase = .inAdvance ∨ f.phase = .inAdjoint →
    s.me.uw.uicause.getLsbD 4 = false → s.rx 2 ≠ f.sx2 ∨ s.rx 4 ≠ f.sx4 →
    ∃ t, exec .chret s = .next t ∧ TrapTaken s t s.cur { cause := 0x13, code := 1 }

/-- R273: `chstat` reads a count of the innermost frame, or of the last chain that ended. -/
def ChstatReads : Prop :=
  ∀ (s : State) (sel : BitVec 5) (d : Reg), Drained s →
    ∃ t, exec (.chstat sel d) s = .next t ∧ t.me.pc = s.me.pc + 4 ∧ OnlyRegs s t [d]
      ∧ (s.me.frames = [] → t.rx d = shown d (s.me.ended.getD sel.toNat 0))
      ∧ ∀ f, s.me.frames.getLast? = some f → f.tally.length = 4 →
        (sel.toNat < 4 → t.rx d = shown d (BitVec.ofNat 64 (f.tally.getD sel.toNat 0)))
        ∧ (sel = 4 → t.rx d = shown d (f.mism.setWidth 64)) ∧ (sel = 5 → t.rx d = shown d (f.reps.setWidth 64))
        ∧ (5 < sel.toNat → t.rx d = 0)

/-- R274: `chabort` pops the innermost frame, with all ones in x10, and goes on behind its `chain`. -/
def ChabortPops : Prop :=
  ∀ (s : State) (f : Frame), ChainOpen s → s.me.frames.getLast? = some f →
    ∃ t, exec .chabort s = .next t ∧ t.me.frames = s.me.frames.dropLast ∧ t.rx 10 = ~~~0 ∧ t.me.pc = f.cont &&& ~~~1
      ∧ (∀ r, r ≠ 10 → t.rx r = s.rx r) ∧ t.me.ended = f.counts ∧ OnlyMe s t

/-- The Spine can act on the innermost frame of a hart (R270). -/
structure SpineReady (s : State) (i : Nat) (f : Frame) (a : Action) (p : Sched) : Prop where
  frame : (s.hart i).frames.getLast? = some f
  open' : f.held = false ∧ f.phase = .idle ∧ f.repairs = [] ∧ (s.hart i).spineTrap = none ∧ (s.hart i).paused = false
  mode : (s.hart i).mode = .running ∨ (s.hart i).mode = .trapped
  power : s.hold.phase = .none ∧ coreActive s i = true
  action : f.action = some (a, p)
  more : (p.settled.next silentSteps).isSome = true

/-- R262: ADVANCE and ADJOINT call a routine of the descriptor: its argument, the state and the depth in x10 to x12, and x2 and x4
kept for `chret`. -/
def RoutineCalls : Prop :=
  ∀ (s : State) (f : Frame) (k : Nat) (p : Sched), let i := s.input.hart
    let h := s.hart i
    (SpineReady s i f (.advance k) p → ∃ t, exec .advance s = .next t ∧ (t.hart i).pc = f.d.step &&& ~~~1 ∧ (t.hart i).getX 10 = f.d.arg
      ∧ (t.hart i).getX 11 = BitVec.ofNat 64 k ∧ (t.hart i).getX 12 = BitVec.ofNat 64 h.frames.length
      ∧ (t.hart i).frames = h.frames.dropLast ++ [{ f with phase := .inAdvance, sx2 := h.getX 2, sx4 := h.getX 4 }]
      ∧ (∀ r, r ∉ [10, 11, 12] → (t.hart i).getX r = h.getX r) ∧ t.mem = s.mem)
    ∧ (SpineReady s i f (.adjoint k) p → ∃ t, exec .adjoint s = .next t ∧ (t.hart i).pc = f.d.adj &&& ~~~1 ∧ (t.hart i).getX 10 = f.d.arg
      ∧ (t.hart i).getX 11 = BitVec.ofNat 64 k ∧ (t.hart i).getX 12 = BitVec.ofNat 64 h.frames.length
      ∧ (t.hart i).frames = h.frames.dropLast ++ [{ f with phase := .inAdjoint, sx2 := h.getX 2, sx4 := h.getX 4 }]
      ∧ (∀ r, r ∉ [10, 11, 12] → (t.hart i).getX r = h.getX r) ∧ t.mem = s.mem)

/-- R343: the space of a Spine copy that begins now. -/
def copySpace (s : State) (f : Frame) : Space := { f.space with ver := kget 0 (s.partOf f.space.slot).ver f.space.asid.toNat }

/-- A line of 64 bytes at `va` that the Spine can read or write in the package. -/
def SpineLine (s : State) (i : Nat) (f : Frame) (acc : Acc) (va : W64) (p : Place) : Prop :=
  va.toNat % 64 = 0 ∧ commandPlace s i (copySpace s f) false acc va = .ok p ∧ (∀ pa node a, p.loc ≠ .fabric pa node a)
  ∧ enginePoison s (dieOf i) p.loc 64 = none ∧ ∀ pa, p.loc = .mem pa → pa % 64 = 0

/-- R264, R265: SNAP copies the window into a slot, RESTORE a slot into the window, whose state is then live; here a window of one
line, moved in one step (log 38, DESIGN CHOICE), without signatures, where the schedule frees no slot behind the action. -/
def SpineCopies : Prop :=
  ∀ (s : State) (f : Frame) (j : Nat) (p : Sched) (w v : Place), let i := s.input.hart
    let h := s.hart i
    let slot := f.d.marks + BitVec.ofNat 64 (64 * j)
    s.input.index = 0 → s.input.word = 0 → f.d.wlen = 64 → f.d.sigcheck = false → j < f.slots.length → p.settled = p → MemoryForm s →
    (SpineReady s i f (.snap j) p → SpineLine s i f .load f.d.win w → SpineLine s i f .store slot v →
      ∃ t g, exec .snap s = .next t ∧ engineRead t (dieOf i) v.loc 64 = engineRead s (dieOf i) w.loc 64
        ∧ (t.hart i).frames = h.frames.dropLast ++ [g] ∧ g.act = f.act + 1 ∧ g.phase = .idle ∧ g.live = f.live
        ∧ g.slots[j]? = some (true, f.live) ∧ (t.hart i).x = h.x ∧ (t.hart i).pc = h.pc
        ∧ ((t.hart i).chan 6).seq = (h.chan 6).seq + 1)
    ∧ (SpineReady s i f (.restore j) p → SpineLine s i f .load slot v → SpineLine s i f .store f.d.win w →
      ∃ t g, exec .restore s = .next t ∧ engineRead t (dieOf i) w.loc 64 = engineRead s (dieOf i) v.loc 64
        ∧ (t.hart i).frames = h.frames.dropLast ++ [g] ∧ g.act = f.act + 1 ∧ g.phase = .idle
        ∧ g.live = (f.slots.getD j (false, 0)).2 ∧ g.lvalid = true ∧ (t.hart i).x = h.x ∧ (t.hart i).pc = h.pc
        ∧ ((t.hart i).chan 6).seq = (h.chan 6).seq + 1)

/-! ## Words written and read as steps of their own -/

/-- R295, R372: a write of `cw.sbar` sets the barrier that it numbers and no other; none is made once the hold-up sequence has begun. -/
def SbarWrites : Prop :=
  ∀ s : State, let i := s.input.hart
    let n := fld s.input.word 39 35
    (s.hold.phase ≠ .none → exec .sbarWrite s = .next s)
    ∧ (s.hold.phase = .none → ∃ t, exec .sbarWrite s = .next t
      ∧ t.bar (coreOf i) (BitVec.ofNat 5 n) = ⟨BitVec.ofNat 32 s.input.word.toNat, s.input.word.getLsbD 32,
          [.idle, .armed, .complete, .broken].getD (fld s.input.word 34 33) .idle⟩
      ∧ (∀ k : BitVec 5, k.toNat ≠ n → t.bar (coreOf i) k = s.bar (coreOf i) k)
      ∧ (t.hart i).sw.sbarNum = BitVec.ofNat 64 n ∧ t.mem = s.mem)

/-- R295, R365: a read of `cw.sorphan` or `cw.serrlog` takes the oldest entry, with its rest in `cw.sorphtag` or `cw.serrinfo`; of an
empty queue it changes nothing. -/
def LogsPop : Prop :=
  ∀ (s : State) (p : Nat), let i := s.input.hart
    slotOfHart s i = some p → (s.hart i).priv ≠ .fw →
    ((s.part p).orphans = [] → exec .sorphanRead s = .next s) ∧ ((s.part p).errs = [] → exec .serrlogRead s = .next s)
    ∧ (∀ e l, (s.part p).orphans = e :: l → e.cause < 16 → e.unit < 256 →
      ∃ t, exec .sorphanRead s = .next t ∧ (t.part p).orphans = l ∧ (t.part p).orphOvf = false
        ∧ fld (t.hart i).sw.sorphtag 31 0 = e.tag.toNat ∧ fld (t.hart i).sw.sorphtag 35 32 = e.cause
        ∧ fld (t.hart i).sw.sorphtag 43 36 = e.unit ∧ t.mem = s.mem)
    ∧ ∀ e l, (s.part p).errs = e :: l → e.act < 16 → e.unit < 256 → e.hart < 4096 → e.core < 4096 → e.store < 16 →
      ∃ t, exec .serrlogRead s = .next t ∧ (t.part p).errs = l ∧ (t.part p).errOvf = false
        ∧ fld (t.hart i).sw.serrinfo 11 8 = e.act ∧ fld (t.hart i).sw.serrinfo 19 12 = e.unit
        ∧ fld (t.hart i).sw.serrinfo 31 20 = e.hart ∧ fld (t.hart i).sw.serrinfo 47 44 = e.store ∧ t.mem = s.mem

/-- R159, R217, R277, R371: a word is written as its fields say: `cw.ramotag` clears `cw.ramostat`, a gathering base closes every mark,
`cw.smsave` of 0 gives up the declaration and its charge, and a stored word holds its RW bits, `cw.lease` at user privilege (R300). -/
def WordsWrite : Prop :=
  (∀ s : State, let h := s.hart s.input.hart
    ∃ t, exec .ramotagWrite s = .next t ∧ (t.hart s.input.hart).uw
      = { h.uw with ramotag := s.input.word &&& 0x0000FFFFFFFFFFFF, ramostat := 0 } ∧ (t.hart s.input.hart).x = h.x ∧ t.mem = s.mem)
  ∧ (∀ (s : State) (mask : W64), (s.input.cw.toNat, mask) ∈ userFields → 0x030 ≤ s.input.cw.toNat → s.input.cw.toNat ≤ 0x033 →
    ∃ t, exec .gatherBaseWrite s = .next t ∧ cwValue t s.input.hart s.input.cw.toNat = s.input.word &&& mask
      ∧ (t.hart s.input.hart).marks = [] ∧ (t.hart s.input.hart).x = (s.hart s.input.hart).x ∧ t.mem = s.mem)
  ∧ (∀ (s : State) (mask : W64), (s.input.cw.toNat, mask) ∈ userFields → s.input.cw ∉ [0x030, 0x031, 0x032, 0x033, 0x048] →
    (s.input.cw = 0x012 → (s.hart s.input.hart).priv = .user) →
    ∃ t, exec .controlWordWrite s = .next t ∧ cwValue t s.input.hart s.input.cw.toNat = s.input.word &&& mask
      ∧ (∀ n, n < 0x400 → n ≠ s.input.cw.toNat → cwValue t s.input.hart n = cwValue s s.input.hart n)
      ∧ (t.hart s.input.hart).x = (s.hart s.input.hart).x ∧ t.mem = s.mem)
  ∧ ∀ (s : State) (p : Nat), slotOfHart s s.input.hart = some p → fld s.input.word 54 6 = 0 →
    ∃ t, exec .smsaveWrite s = .next t ∧ (t.hart s.input.hart).decl = none ∧ (t.hart s.input.hart).charge = 0
      ∧ (t.hart s.input.hart).sw.smsave = 0 ∧ (t.part p).total = (s.part p).total - (s.hart s.input.hart).charge ∧ t.mem = s.mem

/-- R391: a write of `cw.fmext` extends an unlocked measurement register with 64 bytes of memory, read at package scope, and changes
nothing where the register is locked. -/
def MeasurementExtends : Prop :=
  ∀ s : State, let k := fld s.input.word 2 0
    let pa := fld s.input.word 51 6 * 64
    let u := toHome s (dieOf s.cur) (.mem pa)
    (s.boot.lock.getLsbD k = true → exec .measurementExtend s = .next s)
    ∧ (s.boot.lock.getLsbD k = false → localMem pa = true → enginePoison s (dieOf s.cur) (.mem pa) 64 = none → s.boot.meas.length = 8 →
      ∃ t, exec .measurementExtend s = .next t
        ∧ t.boot.meas.getD k [] = sha512 (s.boot.meas.getD k [] ++ u.mem.bytes pa 64)
        ∧ (∀ j, j ≠ k → t.boot.meas.getD j [] = s.boot.meas.getD j []) ∧ t.mem = u.mem ∧ t.harts = u.harts)

/-- R379: a read of `cw.fhsdata` moves the pointer by 8; an erase of the store ends with every byte 0. -/
def HoldUpStoreReadsAndErases : Prop :=
  (∀ s : State, ∃ t, exec .fhsdataRead s = .next t
    ∧ t = { s with fw := { s.fw with fhsptr := BitVec.ofNat 64 ((fld s.fw.fhsptr 27 3 * 8 + 8) % 2 ^ 28) } })
  ∧ (∀ s : State, s.hold.phase = .none → exec .storeErase s = .next { s with hold := { s.hold with erasing := true } })
  ∧ ∀ s : State, s.hold.erasing = true →
    ∃ t, exec .eraseComplete s = .next t ∧ t = { s with hold := { s.hold with store := [], erasing := false } }
      ∧ ∀ a, t.hold.store.read a = 0

/-! ## Gating (R328 to R330) -/

/-- R330: a core is active again, and the harts of it that waited in `pgate` have completed. -/
def Awake (s t : State) (c : Nat) : Prop :=
  (t.core c).gate = .active ∧ ∀ i, i / 4 = c →
    (∀ n b, (s.hart i).mode = .waiting (.pgate n) b → (t.hart i).mode = (if b then .trapped else .running)
      ∧ (t.hart i).pc = (s.hart i).pc + 4)
    ∧ ((∀ n b, (s.hart i).mode ≠ .waiting (.pgate n) b) → t.hart i = s.hart i)

/-- R328 to R330: an active core whose harts all let it gate, one of them in `pgate`, begins to drain, at a depth that none of its
requests forbids; it goes on to commit, with its L1 written back and empty, unless what is written back wakes it, and to gated. A wake message
makes a draining or committing core active at once, and a gated one waking; at the end of waking it is active. An active core again
completes its `pgate` instructions and leaves its other harts alone. Once the hold-up sequence has begun no core is woken (R372). -/
def GateMoves : Prop :=
  ∀ s : State, let c := s.input.core
    let g := (s.core c).gate
    (g = .active → (∀ i, i / 4 = c → letsGate s i = true) → (∃ i n b, i / 4 = c ∧ (s.hart i).mode = .waiting (.pgate n) b) →
      ∃ t, exec .gatingBegin s = .next t ∧ (t.core c).gate = .draining ∧ t.harts = s.harts ∧ t.mem = s.mem
        ∧ (t.core c).spad = (s.core c).spad ∧ ∀ i n b, i / 4 = c → (s.hart i).mode = .waiting (.pgate n) b → (t.core c).gateDepth ≤ n)
    ∧ (g = .draining → ∃ t, exec .drainComplete s = .next t ∧ (t.core c).l1 = []
        ∧ (t.core c).spad = (s.core c).spad ∧ (t.core c).gateDepth = (s.core c).gateDepth
        ∧ ((∀ x ∈ (s.core c).l1, x.dirty = 0) ∨ (∀ i, (s.hart i).watch.armed = false) → (t.core c).gate = .commit ∧ t.harts = s.harts)
        ∧ ((∀ x ∈ (s.core c).l1, x.dirty = 0) → t.mem = s.mem))
    ∧ (g = .commit → exec .gateCommit s = .next (s.setCore c { s.core c with gate := .gated }))
    ∧ (s.hold.phase ≠ .none → exec .wakeMessage s = .next s ∧ exec .wakingComplete s = .next s)
    ∧ (g = .gated → s.hold.phase = .none → exec .wakeMessage s = .next (s.setCore c { s.core c with gate := .waking }))
    ∧ (g = .draining ∨ g = .commit → s.hold.phase = .none → ∃ t, exec .wakeMessage s = .next t ∧ Awake s t c ∧ t.mem = s.mem)
    ∧ (g = .active ∨ g = .waking → exec .wakeMessage s = .next s)
    ∧ (g = .waking → s.hold.phase = .none → ∃ t, exec .wakingComplete s = .next t ∧ Awake s t c ∧ t.mem = s.mem)

/-! ## Partitions (R346 to R350) -/

/-- R349: a record that breaks a rule, takes what another partition holds, or moves what is in use ends the command with status 1, 2
or 3 and moves nothing. -/
def ApplyRefuses : Prop :=
  ∀ (s : State) (st : Nat), let n := s.input.slot
    let r := partRecOf (recordWords s n)
    s.fw.fpBusy = false → n < 64 →
    (recordBad s n (recordWords s n) = true ∧ st = 1)
      ∨ (recordBad s n (recordWords s n) = false ∧ recordTaken s n r = true ∧ st = 2)
      ∨ (recordBad s n (recordWords s n) = false ∧ recordTaken s n r = false ∧ resourcesBusy s n r = true ∧ st = 3) →
    ∃ t, exec .partitionApply s = .next t
      ∧ t = { s with fw := { s.fw with fpSlot := n, fpOp := 1, fpStatus := st, fpBusy := false } }

/-- The harts of a core have been cleared to what R51 leaves without a task, and the core's memories read zero. -/
def CoreCleared (t : State) (c : Nat) : Prop :=
  (t.core c).l1 = [] ∧ (∀ j, j / 4 = c → (t.hart j).mode = .free ∧ (∀ r, (t.hart j).getX r = 0) ∧ (t.hart j).resv = none ∧ (t.hart j).vq = []
    ∧ (t.hart j).frames = [] ∧ ∀ v : Fin 32, (t.hart j).v[v] = 0)
  ∧ (∀ o, (t.core c).spad.read o = 0) ∧ (∀ k r n, (t.core c).tile k r n = 0) ∧ (t.core c).owner = none ∧ (t.core c).tlb = []

/-- R346, R350: a resource changes owner: it leaves or joins the partition, or the slot gets another partition and either owns it. -/
def changesOwner {w : Nat} (a b : PartRec) (f : PartRec → BitVec w) (n : Nat) : Bool :=
  if a.id = b.id then (f a).getLsbD n != (f b).getLsbD n else (f a).getLsbD n || (f b).getLsbD n

/-- R349, R350: a record that passes every check is applied: the slot gets it, the cores and segments that change owner are cleared, and
the command is busy with the old key in force; PARTITION_COMMAND_DONE ends it with status 0 and the new key. -/
def ApplyMovesAndClears : Prop :=
  ∀ s : State, let n := s.input.slot
    let r := partRecOf (recordWords s n)
    let o := (s.part n).record
    s.fw.fpBusy = false → n < 64 → recordBad s n (recordWords s n) = false → recordTaken s n r = false → resourcesBusy s n r = false →
    ∃ t u, exec .partitionApply s = .next t ∧ t.fw.fpBusy = true ∧ (t.part n).record = { r with key := o.key }
      ∧ (∀ m, m ≠ n → t.part m = s.part m) ∧ (∀ c, c < 768 → changesOwner o r PartRec.cores c = true → CoreCleared t c)
      ∧ (∀ a, segmentOf a < 48 → t.mem.read a = if changesOwner o r PartRec.segs (segmentOf a) then 0 else s.mem.read a)
      ∧ exec .partitionCommandDone t = .next u ∧ u.fw.fpBusy = false ∧ u.fw.fpStatus = 0 ∧ (u.part n).record = r
      ∧ (∀ m, m ≠ n → u.part m = s.part m) ∧ u.mem = t.mem ∧ u.harts = t.harts

/-- R349, R350: a partition whose resources are not in use is dissolved: its cores and segments are cleared, and the slot keeps nothing
but the id and the key, which stay in force while the command is busy; when busy clears the slot is empty (the two steps are log 22,
DEDUCED). -/
def DissolveClears : Prop :=
  ∀ s : State, let n := s.input.slot
    let o := (s.part n).record
    s.fw.fpBusy = false → n < 64 →
    (resourcesBusy s n {} = false → ∃ t u, exec .partitionDissolve s = .next t ∧ t.fw.fpBusy = true
      ∧ t.part n = { record := { id := o.id, key := o.key } } ∧ (∀ m, m ≠ n → t.part m = s.part m)
      ∧ (∀ c, c < 768 → o.cores.getLsbD c = true → CoreCleared t c)
      ∧ (∀ a, o.segs.getLsbD (segmentOf a) = true → t.mem.read a = 0)
      ∧ exec .partitionCommandDone t = .next u ∧ u.fw.fpBusy = false ∧ u.fw.fpStatus = 0 ∧ u.part n = {}
      ∧ (∀ m, m ≠ n → u.part m = s.part m) ∧ u.mem = t.mem ∧ u.harts = t.harts)
    ∧ (resourcesBusy s n {} = true → ∃ t, exec .partitionDissolve s = .next t
      ∧ t = { s with fw := { s.fw with fpSlot := n, fpOp := 2, fpStatus := 3, fpBusy := false } })

end Sys2Proof.Claim

/-- R122, R260 to R263, R273, R274: the chain instructions, behind the commit of an open strip (R48). -/
def Obligations.ChainInstructions : Prop := ChainPushes ∧ ChainOrder ∧ ChretReturns ∧ ChstatReads ∧ ChabortPops

/-- R262, R264, R265: the actions of the Spine. That a copy moves a whole line in a step is log 38 (DESIGN CHOICE). -/
def Obligations.SpineActions : Prop := RoutineCalls ∧ SpineCopies

/-- R159, R217, R277, R295, R365, R371, R379, R391: control words as steps of their own, the measurement registers and the hold-up store. -/
def Obligations.ControlWordSteps : Prop := SbarWrites ∧ LogsPop ∧ WordsWrite ∧ MeasurementExtends ∧ HoldUpStoreReadsAndErases

/-- R328 to R330: a core gates, is woken and completes its `pgate` instructions. -/
def Obligations.CoresGateAndWake : Prop := GateMoves

/-- R349, R350: partitions are applied, refused and dissolved; what changes owner is cleared. That a command takes two steps, with the id and
the key of a dissolved slot in force between them, is log 22 (DEDUCED). -/
def Obligations.PartitionsMoveAndClear : Prop := ApplyRefuses ∧ ApplyMovesAndClears ∧ DissolveClears


namespace Sys2Proof.Claim

open Sys2Proof Sys2Proof.Machine

/-! ## Remote atomics (R217, R218) -/

/-- Operation, width flag, destination, address register and operand register of a remote atomic. -/
def remoteAtomicForm : Instr → Option (AmoOp × Bool × Reg × Reg × Reg)
  | .ramoadd w d a b => some (.add, w, d, a, b)
  | .ramoswap w d a b => some (.swap, w, d, a, b)
  | .ramocas w d a b => some (.cas, w, d, a, b)
  | .ramoor w d a b => some (.or, w, d, a, b)
  | .ramomin w d a b => some (.min, w, d, a, b)
  | .ramomax w d a b => some (.max, w, d, a, b)
  | _ => none

/-- R218: `seq` of `cw.ramotag` one higher modulo 2^32, and its other bits. -/
def tagMoved (w v : W64) : Prop := w.toNat % 2 ^ 32 = (v.toNat + 1) % 2 ^ 32 ∧ w.toNat / 2 ^ 32 = v.toNat / 2 ^ 32

/-- R218: the request that a remote atomic of the moving hart makes, as a retry names it. -/
def ramoRequest (s : State) (op : AmoOp) (w : Bool) (d a b : Reg) : HeldRamo :=
  { addr := s.rx a, b := s.rx b, d := if op = .cas then s.rx d else 0, op := op, wide := w, held := false }

/-- R12, R48, R218: a remote atomic at an aligned address of a fabric window that nothing holds back commits an open strip and then sends its
request, marked as a retry where `cw.ramostat` asks for one, and waits for the outcome; with no free request slot it waits to send. -/
def RamoSends : Prop :=
  ∀ (s u : State) (i : Instr) (op : AmoOp) (w : Bool) (d a b : Reg) (pa : Nat) (node : BitVec 16) (addr : Nat) (dev : Bool),
    remoteAtomicForm i = some (op, w, d, a, b) →
    Lands s .rmw (s.rx a) (if w then 8 else 4) ⟨.fabric pa node addr, dev⟩ → s.me.remote = none →
    CommitSteps s i
    ∧ (CommitsFirst s u →
    (fld u.me.uw.ramostat 2 0 = 1 → { u.me.ramo with held := false } = ramoRequest s op w d a b) → fld u.fw.fnode 15 0 ≠ 0 →
    (slotFree u s.cur = false → exec i s = .next u)
    ∧ (slotFree u s.cur = true → ∃ t r, exec i s = .next t ∧ t.me.remote = some ⟨u.fab.nextId, false, none⟩
      ∧ t.fab.requests = u.fab.requests ++ [r] ∧ r.id = u.fab.nextId ∧ r.hart = s.cur ∧ r.node = node ∧ r.addr = addr
      ∧ r.key = keyOf u s.cur ∧ r.store = false
      ∧ r.msg = .atomic u.fab.nextId node addr (keyOf u s.cur) s.cur u.me.uw.ramotag (fld u.me.uw.ramostat 2 0 == 1) op w (s.rx b) (s.rx d)
      ∧ t.fab.outbox = u.fab.outbox ++ [r.msg] ∧ SameRegs t.me u.me ∧ t.me.pc = s.me.pc ∧ t.mem = u.mem))

/-- R218: the outcomes that complete a remote atomic: the old value, "expired", refused, and a named failure, which is held; and the two
that trap. -/
def RamoCompletes : Prop :=
  ∀ (s : State) (i : Instr) (op : AmoOp) (w : Bool) (d a b : Reg) (pa : Nat) (node : BitVec 16) (addr id : Nat) (dev : Bool)
    (x : RemoteResult),
    remoteAtomicForm i = some (op, w, d, a, b) → Steady s → (s.me.guarded = true → s.me.openBinding = false) →
    Lands s .rmw (s.rx a) (if w then 8 else 4) ⟨.fabric pa node addr, dev⟩ → s.me.remote = some ⟨id, false, some x⟩ →
    let done := fun (t : State) (fail st : Nat) => exec i s = .next t ∧ t.me.remote = none ∧ t.me.pc = s.me.pc + 4
      ∧ t.me.uw.ramostat = BitVec.ofNat 64 (256 * fail + st) ∧ (∀ r, r ≠ d → t.rx r = s.rx r) ∧ t.mem = s.mem
    let ended := fun (st : W64) => s.setMe { s.me with remote := none, uw := { s.me.uw with ramostat := st } }
    (∀ old, x = .value old → ∃ t, done t 0 0 ∧ tagMoved t.me.uw.ramotag s.me.uw.ramotag
      ∧ t.rx d = shown d (if w then old else (BitVec.ofNat 32 old.toNat).signExtend 64))
    ∧ (x = .expired → ∃ t, done t 0 2 ∧ t.rx d = s.rx d ∧ tagMoved t.me.uw.ramotag s.me.uw.ramotag)
    ∧ (x = .busy → ∃ t, done t 5 3 ∧ t.rx d = s.rx d ∧ tagMoved t.me.uw.ramotag s.me.uw.ramotag)
    ∧ (∀ f, x = .named f → ∃ t, done t f.toNat 1 ∧ t.rx d = s.rx d ∧ t.me.uw.ramotag = s.me.uw.ramotag
      ∧ t.me.ramo = { ramoRequest s op w d a b with held := true } ∧ t.me.uipend.getLsbD 59 = true)
    ∧ (x = .keyRevoked → ∃ t, exec i s = .next t
      ∧ TrapTaken (ended (BitVec.ofNat 64 (256 * 4 + fld s.me.uw.ramostat 2 0))) t s.cur
        { cause := 0x0F, val := BitVec.ofNat 64 pa, code := 4 })
    ∧ (x = .targetFault → ∃ t, exec i s = .next t
      ∧ TrapTaken (ended s.me.uw.ramostat) t s.cur { cause := 0x0B, val := BitVec.ofNat 64 pa })

/-- R218: a misaligned remote atomic traps with cause 0x02, one outside the fabric windows with cause 0x06, and a retry that is not the held
request, behind the commit of an open strip (R48), with cause 0x0B, with nothing sent. -/
def RamoTraps : Prop :=
  ∀ (s : State) (i : Instr) (op : AmoOp) (w : Bool) (d a b : Reg), remoteAtomicForm i = some (op, w, d, a, b) →
    (s.me.guarded = true → s.me.openBinding = false) →
    ((s.rx a).toNat % (if w then 8 else 4) ≠ 0 →
      ∃ t, exec i s = .next t ∧ TrapTaken s t s.cur { cause := 0x02, val := s.rx a })
    ∧ ∀ p, Lands s .rmw (s.rx a) (if w then 8 else 4) p →
      ((∀ pa node addr, p.loc ≠ .fabric pa node addr) →
        ∃ t, exec i s = .next t ∧ TrapTaken s t s.cur { cause := 0x06, val := s.rx a })
      ∧ ∀ u pa node addr, p.loc = .fabric pa node addr → s.me.remote = none → CommitsFirst s u → fld u.me.uw.ramostat 2 0 = 1 →
        { u.me.ramo with held := false } ≠ ramoRequest s op w d a b →
        ∃ t, exec i s = .next t ∧ TrapTaken u t s.cur { cause := 0x0B, val := s.rx a }

/-! ## Requests on the fabric (R219, R354, R356 to R359) -/

/-- A request that arrives is served: a port is on, power is on, and its key is in force for a partition slot. -/
structure Served (s : State) (r : RemoteReq) (p : Nat) : Prop where
  request : s.input.request = some r
  node : fld s.fw.fnode 15 0 ≠ 0
  power : s.hold.phase = .none
  key : slotOfKey s r.key = some p
  revoked : revokes s = true → r.key ∉ s.fab.revoked
  width : 1 ≤ r.width ∧ r.width ≤ 8
  sound : s.input.bad = false

/-- R81, R354: a load and a store of the partition's memory, at the home segment, with the home die's L1 copies of the line recalled
before a write, and a request of no partition; R219: an atomic is applied once and recorded, and
its duplicate gets the recorded result; a retry without a record is "expired". -/
def RequestsServed : Prop :=
  (∀ (s : State) (r : RemoteReq) (p : Nat), Served s r p → r.addr < 0xC0000000000 → ownsPa s (some p) r.addr = true →
    ownsPa s (some p) (r.addr + r.width - 1) = true →
    let out := fun (t : State) (x : RemoteResult) => exec .remoteRequestArrival s = .next t
      ∧ t.fab.outbox = s.fab.outbox ++ [.answer x false]
    let u := recallL1 s (homeDie r.addr) none (r.addr / 64)
    (r.op = .load → poisonAt s .home (.mem r.addr) r.width = none →
      ∃ t, out t (.bytes (s.mem.bytes r.addr r.width)) ∧ t.mem = s.mem ∧ t.harts = s.harts)
    ∧ (r.op = .store → ∃ t, out t .ack ∧ t.mem = u.mem.writeBytes r.addr (toLE r.width r.data.toNat))
    ∧ (∀ op, r.op = .atomic op → dedupFind s r = none → r.retry = false → s.fab.dedup.length < 65536 →
      poisonAt u .home (.mem r.addr) r.width = none →
      let old := ofLE (u.mem.bytes r.addr r.width)
      ∃ t, out t (.value (BitVec.ofNat 64 old))
        ∧ t.mem = u.mem.writeBytes r.addr (toLE r.width (atomicNew op r.width old r.data.toNat r.cmp.toNat))
        ∧ t.fab.dedup = s.fab.dedup ++ [⟨r.key, r.source, r.hart, r.tag, r.seq, some (BitVec.ofNat 64 old)⟩])
    ∧ (∀ op e v, r.op = .atomic op → dedupFind s r = some e → e.result = some v →
      ∃ t, out t (.value v) ∧ t.mem = s.mem ∧ t.fab.dedup = s.fab.dedup)
    ∧ ∀ op, r.op = .atomic op → dedupFind s r = none → r.retry = true →
      ∃ t, out t .expired ∧ t.mem = s.mem ∧ t.fab.dedup = s.fab.dedup ++ [⟨r.key, r.source, r.hart, r.tag, r.seq, none⟩])
  ∧ ∀ (s : State) (r : RemoteReq), s.input.request = some r → fld s.fw.fnode 15 0 ≠ 0 → s.hold.phase = .none → 1 ≤ r.width →
    r.width ≤ 8 → slotOfKey s r.key = none →
    ∃ t, exec .remoteRequestArrival s = .next t ∧ t.fab.outbox = s.fab.outbox ++ [.answer .keyRevoked false] ∧ t.mem = s.mem

/-- R219, R356, R358: an entry of the deduplication table expires; a port goes down; a key is revoked. -/
def FabricEvents : Prop :=
  (∀ s : State, exec .dedupEntryExpiry s = .next { s with fab := { s.fab with dedup := s.fab.dedup.eraseIdx s.input.index } })
  ∧ (∀ s : State, s.input.index < 32 → ∃ t, exec .portDown s = .next t ∧ t.fab.down.getLsbD s.input.index = true
    ∧ (∀ k, k ≠ s.input.index → t.fab.down.getLsbD k = s.fab.down.getLsbD k) ∧ t.fab.requests = s.fab.requests
    ∧ (∀ r ∈ s.fab.requests, r.port = s.input.index → r.id ∈ t.fab.orphaned) ∧ t.mem = s.mem ∧ t.harts = s.harts)
  ∧ ∀ s : State, ∃ t, exec .keyRevocation s = .next t ∧ BitVec.ofNat 32 s.input.word.toNat ∈ t.fab.revoked
    ∧ (∀ k ∈ s.fab.revoked, k ∈ t.fab.revoked) ∧ t.mem = s.mem ∧ t.harts = s.harts

/-- R347, R357 to R359: a load or atomic of this package ends: with its response, or by the first of its named failures; it is then no longer
outstanding, and its hart sees the result, or the vector element or engine that asked. After BUSY it is sent again, unless its port has
gone down (R356). With node 0 no response is taken. A posted store that fails is noted for its hart's trap, with its virtual address (log
45, DEDUCED). -/
def RequestsEnd : Prop :=
  (∀ (s : State) (r : Request) (w : RemoteWait), (s.fab.requests.find? fun q => q.id = s.input.index) = some r → r.store = false → r.engine = false →
    (s.hart r.hart).remote = some w → w.id = r.id → fld s.fw.fnode 15 0 ≠ 0 →
    let ended := fun (t : State) (x : RemoteResult) => (t.hart r.hart).remote = some { w with result := some x }
      ∧ (∀ q, q ∈ t.fab.requests ↔ q ∈ s.fab.requests ∧ q.id ≠ r.id) ∧ (t.hart r.hart).x = (s.hart r.hart).x ∧ t.mem = s.mem
    (fits r.msg s.input.result = true → s.input.result ≠ .busy →
      ∃ t, exec .remoteResponse s = .next t ∧ ended t s.input.result)
    ∧ (fits r.msg .busy = true → s.input.result = .busy → ∃ t, exec .remoteResponse s = .next t ∧ t.harts = s.harts
      ∧ (∀ q ∈ t.fab.requests, q.id = r.id → q.busy = true)
      ∧ t.fab.outbox = if r.id ∈ s.fab.orphaned then s.fab.outbox else s.fab.outbox ++ [r.msg])
    ∧ (r.id ∈ s.fab.orphaned → ∃ t, exec .linkDownTimeout s = .next t ∧ ended t (.named 1))
    ∧ (s.fw.ffence.getLsbD 0 = true → (∀ q ∈ s.fab.requests, q.id = r.id → q.busy = false) →
      ∃ t, exec .pathLostTimeout s = .next t ∧ ended t (.named 2))
    ∧ (r.busy = true → (exec .pathLostTimeout s = .next s))
    ∧ (r.busy = false → ∃ t, exec .peerSilentTimeout s = .next t ∧ ended t (.named 3))
    ∧ (r.busy = true → ∃ t, exec .peerSilentTimeout s = .next t ∧ ended t .busy))
  ∧ (∀ s : State, fld s.fw.fnode 15 0 = 0 → exec .remoteResponse s = .next s)
  ∧ (∀ (s : State) (r : Request), (s.fab.requests.find? fun q => q.id = s.input.index) = some r → r.engine = true →
    fld s.fw.fnode 15 0 ≠ 0 → fits r.msg s.input.result = true → s.input.result ≠ .busy →
    ∃ t, exec .remoteResponse s = .next t ∧ (r.id, s.input.result) ∈ t.fab.answers
      ∧ (∀ q, q ∈ t.fab.requests ↔ q ∈ s.fab.requests ∧ q.id ≠ r.id) ∧ t.harts = s.harts ∧ t.mem = s.mem)
  ∧ ∀ (s : State) (r : Request), (s.fab.requests.find? fun q => q.id = s.input.index) = some r → r.store = true → r.engine = false →
    r.busy = false →
    ∃ t, exec .peerSilentTimeout s = .next t
      ∧ (t.hart r.hart).storeFaults = (s.hart r.hart).storeFaults ++ [(r.priv, { cause := 0x0B, val := r.va, code := 3 })]
      ∧ (∀ q, q ∈ t.fab.requests ↔ q ∈ s.fab.requests ∧ q.id ≠ r.id) ∧ t.mem = s.mem

/-! ## Errors (R361, R362, R364, R365) and the hold-up sequence (R372) -/

/-- R361, R364: a correctable error counts; an uncorrectable one of a line poisons the line, counts and is logged. -/
def ScrubFinds : Prop :=
  ∀ (s : State) (pa p : Nat), s.input.granule = .line pa → slotOfSegment s (segmentOf pa) = some p →
    let w := (s.part p).serrcnt
    (s.input.bad = false → ∃ t, exec .scrubRead s = .next t
      ∧ fld (t.part p).serrcnt 15 0 = min 0xFFFF (fld w 15 0 + 1) ∧ fld (t.part p).serrcnt 63 16 = fld w 63 16
      ∧ t.poison = s.poison ∧ t.mem = s.mem ∧ t.harts = s.harts)
    ∧ (s.input.bad = true → s.input.index = 0 → s.poison = [] → (s.part p).errs.length < 64 → ∃ t, exec .scrubRead s = .next t
      ∧ t.poison = [(pa / 64, 1)] ∧ fld (t.part p).serrcnt 31 16 = min 0xFFFF (fld w 31 16 + 1)
      ∧ (t.part p).errs = (s.part p).errs ++ [⟨1, pa / 64 * 64, 0, 0, 0xFFF, 0, 1⟩] ∧ t.mem = s.mem ∧ t.harts = s.harts)

/-- R372, R388: an input loss, or a die whose sensor is at its critical temperature, stops the package at once: its remote requests are
abandoned, no register of a hart outside a guarded strip changes, and one inside it is rolled back (R47), where no checkpoint is lost (log
27, DEDUCED). Below that temperature nothing stops. -/
def InputLossStops : Prop :=
  (∀ s : State, s.hold.phase = .none → (∀ i, (s.hart i).midGather = false) →
    ∃ t, exec .inputLoss s = .next t ∧ t.hold.phase = .stopped ∧ t.fab.requests = []
      ∧ t.hold.gen = s.hold.gen
      ∧ ((∀ i c, (s.hart i).guarded = true → (s.hart i).ckpt = some c → c.dead = false ∧ (s.hart i).ckptPoison = false) → t.mem = s.mem
        ∧ (∀ i, (s.hart i).guarded = false → (t.hart i).x = (s.hart i).x ∧ (t.hart i).v = (s.hart i).v
          ∧ (t.hart i).pc = (s.hart i).pc ∧ (t.hart i).mode = (s.hart i).mode)
        ∧ ∀ i c, (s.hart i).guarded = true → (s.hart i).ckpt = some c → (s.hart i).mode ≠ .free →
          (t.hart i).pc = c.restart &&& ~~~1 ∧ (t.hart i).buf = [] ∧ (t.hart i).vq = []))
  ∧ ∀ s : State, s.input.index < 20 →
    let crit := (BitVec.ofNat 16 (s.fw.fthermal.toNat / 2 ^ 16)).toInt
    let temp := (Config.temperature s.ticks s.input.index).toInt
    (crit ≤ temp → exec .dieCritical s = exec .inputLoss s) ∧ (temp < crit → exec .dieCritical s = .next s)

/-- R372: the write-back leaves no dirty line in any cache; the sequencer writes the items, here all of them in one step; then the package is
off, and only the store survives, with its generation one higher from there on (log 27, DEDUCED). -/
def HoldUpRuns : Prop :=
  (∀ s : State, s.hold.phase = .stopped → ∃ t, exec .holdupWriteback s = .next t ∧ t.hold.phase = .writtenBack
    ∧ (∀ d, d < 6 → ∀ l ∈ (t.die d).lines, l.dirty = 0) ∧ ∀ c, ∀ l ∈ (t.core c).l1, l.dirty = 0)
  ∧ (∀ s : State, s.hold.phase = .writtenBack → s.input.bad = false → ∃ t, exec .holdupWrite s = .next t ∧ t.hold.phase = .written
    ∧ t.hold.store = putWrites s.hold.store (holdWrites s) ∧ t.mem = s.mem ∧ t.harts = s.harts)
  ∧ ∀ s : State, s.hold.phase = .written → ∃ t, exec .holdupOff s = .next t ∧ t.hold.phase = .off ∧ t.hold.store = s.hold.store
    ∧ t.hold.gen = s.hold.gen + 1 ∧ t.harts = [] ∧ t.mem = [] ∧ t.parts = [] ∧ t.fab.requests = []

/-! ## Power and boot (R382, R383, R386, R387, R389 to R392) -/

/-- R382, R383: with the power estimate in the operand of the event (log 28, DESIGN CHOICE; a sag event is one level), the sag clock falls and rises by a sixteenth within its range; above the limit the throttle steps up, or the clock falls;
well below it the clock rises, or the throttle steps down. -/
def ClockAndThrottleMove : Prop :=
  ∀ s : State, let p := s.power
    let limit := s.fw.fplim.toNat % 2 ^ 12
    let est := s.input.word.toNat
    (exec .supplySag s = .next { s with power := { p with sagClock := max 8 (p.sagClock - 1) } })
    ∧ (exec .clockRecoveryStep s = .next { s with power := { p with sagClock := min 16 (p.sagClock + 1) } })
    ∧ (1000 * limit < est → p.step < 15 → exec .powerControllerPeriod s = .next { s with power := { p with step := p.step + 1 } })
    ∧ (1000 * limit < est → 15 ≤ p.step → 8 < p.limClock →
      exec .powerControllerPeriod s = .next { s with power := { p with limClock := p.limClock - 1 } })
    ∧ (est < 950 * limit → hotDie s = false → p.limClock < 16 →
      exec .powerControllerPeriod s = .next { s with power := { p with limClock := p.limClock + 1 } })
    ∧ (est < 950 * limit → hotDie s = false → 16 ≤ p.limClock → 0 < p.step →
      exec .powerControllerPeriod s = .next { s with power := { p with step := p.step - 1 } })
    ∧ (950 * limit ≤ est → est ≤ 1000 * limit → hotDie s = false → exec .powerControllerPeriod s = .next s)

/-- R385 to R387: the measured power is stored, and the calibration takes new factors, which are open (log 9, DESIGN CHOICE); the issue
fraction of a core in use rises by a sixteenth, that of a core that is not in use or is gated falls. -/
def EnergyAndRampMove : Prop :=
  (∀ s : State, exec .energyCalibration s = .next { s with power := { s.power with
      mw := BitVec.ofNat 32 s.input.word.toNat, calibration := Config.scaleFactors s.ticks s.input.word } })
  ∧ ∀ s : State, let c := s.input.core
    let gated := (s.core c).gate = .gated ∨ (s.core c).gate = .waking
    fld s.fw.framp 15 0 ≠ 0 → ∃ t, exec .rampStep s = .next t ∧ t.harts = s.harts ∧ t.mem = s.mem
      ∧ (¬gated → (∃ i, i / 4 = c ∧ ((s.hart i).mode = .running ∨ ∃ w b, (s.hart i).mode = .waiting w b)) →
          (t.core c).ramp = min 16 ((s.core c).ramp + 1))
      ∧ (gated ∨ (∀ i, i / 4 = c → (s.hart i).mode = .free ∨ (s.hart i).mode = .trapped) →
          (t.core c).ramp = max 1 ((s.core c).ramp - 1))

/-- R389 to R391: after package reset only the hold-up store is kept; the first image that verifies is loaded, measured into register
0, which is locked, and started on hart 0 at firmware privilege; with none the package has no firmware. -/
def ResetBoots : Prop :=
  (∀ s : State, imageOk s.input.bytesA = false → imageOk s.input.bytesB = false →
    ∃ t, exec .packageReset s = .next t ∧ t.boot.stage = .noFirmware ∧ t.harts = [] ∧ t.mem = [] ∧ t.parts = []
      ∧ t.hold.store = s.hold.store ∧ t.hold.gen = s.hold.gen ∧ t.hold.phase = .none)
  ∧ ∀ (s : State) (img : List Byte), (imageOk s.input.bytesA = true ∧ img = s.input.bytesA)
      ∨ (imageOk s.input.bytesA = false ∧ imageOk s.input.bytesB = true ∧ img = s.input.bytesB) →
    ∃ t, exec .packageReset s = .next t ∧ t.boot.stage = .started ∧ (t.hart 0).mode = .running ∧ (t.hart 0).priv = .fw
      ∧ (t.hart 0).pc = headWord img 4 ∧ (∀ i, i ≠ 0 → t.hart i = {}) ∧ t.boot.svn = headWord img 1 ∧ t.boot.lock = 1
      ∧ t.boot.meas.getD 0 [] = sha512 (List.replicate 64 0 ++ imageDigest img)
      ∧ (∀ k, k < (imageBody img).length → localMem ((headWord img 3).toNat + k) = true →
          t.mem.read ((headWord img 3).toNat + k) = (imageBody img).getD k 0)
      ∧ t.parts = [] ∧ t.hold.store = s.hold.store ∧ t.hold.gen = s.hold.gen

/-- R389, R392: an attestation request is answered with a report that holds its nonce and the measurement registers, or with "no
firmware". -/
def AttestationAnswers : Prop :=
  (∀ s : State, s.boot.stage = .noFirmware →
    exec .attestationRequest s = .next { s with fab := { s.fab with outbox := s.fab.outbox ++ [.noFirmware] } })
  ∧ ∀ s : State, s.boot.stage = .started → s.input.bytesA.length = 32 →
    ∃ t bs, exec .attestationRequest s = .next t ∧ t.fab.outbox = s.fab.outbox ++ [.report bs]
      ∧ (bs.drop 32).take 32 = s.input.bytesA
      ∧ bs = reportBody s s.input.bytesA ++ ed25519Sign Config.identitySeed (sha512 (reportBody s s.input.bytesA))
      ∧ (bs.drop 64).take s.boot.meas.flatten.length = s.boot.meas.flatten ∧ t.mem = s.mem ∧ t.harts = s.harts

/-! ## The whole machine -/

/-- The bytes `bs` stand where the front end of the moving hart fetches its next instruction (R127): one parcel after another at places in
the package, as many as the first parcel says. -/
def Stands (s : State) (bs : List Byte) : Prop :=
  2 ≤ bs.length ∧ bs.length = parcelLength (BitVec.ofNat 16 (ofLE (bs.take 2)))
  ∧ ∀ k, 2 * k < bs.length → ∃ p, locate s s.cur (spaceOf s s.cur) false .fetch ((s.me.pc &&& ~~~1) + BitVec.ofNat 64 (2 * k)) = .ok p
    ∧ (∀ pa node a, p.loc ≠ .fabric pa node a) ∧ poisonAt s (viewOf (vectorView s.cur) p) p.loc 2 = none
    ∧ bytesAt s (viewOf (vectorView s.cur) p) p.loc 2 = (bs.drop (2 * k)).take 2

/-- Nothing but the front end of the moving hart can move: nothing is scheduled, firmware runs, no engine of the hart has work, and no
cause is ready. -/
structure OnlyFrontEnd (s : State) : Prop where
  schedule : s.schedule = [] ∧ s.pick = none
  started : s.hold.phase = .none ∧ s.boot.stage = .started
  core : coreActive s s.cur = true
  mode : Steady s ∧ s.me.paused = false ∧ s.me.remote = none
  queues : s.me.vq = [] ∧ s.me.mq = []
  channels : ∀ c : Fin 7, (s.me.ch[c]).copies = [] ∧ (s.me.ch[c]).stream = none
  frames : s.me.frames = []
  causes : s.me.storeFaults = [] ∧ s.me.spineTrap = none ∧ s.me.preempt = []
  event : s.me.uiDue = false

end Sys2Proof.Claim

/-- R217, R218: the remote atomics: sent, completed, and trapped. -/
def Obligations.RemoteAtomics : Prop := RamoSends ∧ RamoCompletes ∧ RamoTraps

/-- R219, R354, R356 to R358: requests that arrive and requests that end. The deduplication table's size, and that a request stays outstanding
behind BUSY, are log 23 (DEDUCED); the value of a failed posted store is log 45 (DEDUCED). -/
def Obligations.FabricRequests : Prop := RequestsServed ∧ FabricEvents ∧ RequestsEnd

/-- R361, R362, R364, R365, R372: errors that a scrub finds, and the hold-up sequence, whose items are written in one step and whose generation
steps when the package is off (log 27, DEDUCED). -/
def Obligations.ErrorsAndHoldUp : Prop := ScrubFinds ∧ InputLossStops ∧ HoldUpRuns

/-- R382, R383, R385 to R387, R389 to R392: clock, throttle, ramp, boot, measurement and attestation. The power estimate is the operand of its
event, and a supply sag is one level (log 28, DESIGN CHOICE); what nothing fixes is open (log 9, DESIGN CHOICE). -/
def Obligations.PowerAndBoot : Prop := ClockAndThrottleMove ∧ EnergyAndRampMove ∧ ResetBoots ∧ AttestationAnswers

/-- R127, R129, R144 to R146: decoding the words of any well-formed instruction that has words gives the instruction and its length, with
every
operand at every value that the encoding admits, whatever bytes stand behind it. -/
def Obligations.DecodeEncodeAgree : Prop :=
  ∀ (i : Instr) (rest : List Byte), i.wf = true → encode i ≠ [] → decode (encode i ++ rest) = .ok (i, (encode i).length)

/-- R127, R129 to R133, R144 to R146: words written out field by field from the encoding tables, one of every family, decode to the
instructions they stand for. -/
def Obligations.SpecWordsDecode : Prop :=
  (∀ p ∈ ([
    (0b00000_00001_00111_00110_00101_000001_0, .sub 5 6 7),
    (0b111111111111110_00110_00101_000010_0, .addi 5 6 0x7FFE),
    (0b00000_00110_00111_00110_00101_001101_0, .rem 5 6 7),
    (0b111111111000_000_00110_00101_001010_0, .ldS8 5 6 0xFF8),
    (0b1000001_010_00111_00110_10010_001011_0, .st32 7 6 0x832),
    (0b1000000001_00111_00110_00011_001111_0, .bne 6 7 0x4023),
    (0b01101_01111_00111_00110_00101_001100_0, .fsgnj 3 1 5 6 7),
    (0b01010_01001_00111_00110_00101_010110_0, .amocas 2 true false false 5 6 7),
    (0b00011_00000_00000_00010_00001_010111_0, .fence 3 2 1),
    (0b010_100011000010_00110_00101_011000_0, .cwset 0x8C2 5 6),
    (0b00000_01011_00110_00101_00000_011001_0, .hstart 5 6),
    (0b00000_10001_00111_00110_00101_011010_0, .ramoswap true 5 6 7),
    (0b11011_00000_00000_00110_00101_100000_0, .vsetl true 2 3 5 6),
    (0b0011_011_010_01011_01010_01001_100001_0, .vfma 3 2 9 10 11),
    (0b0000_000_100_00011_01010_01001_100110_0, .vred 0 4 3 9 10),
    (0b010_10_00_001_00000_01010_00011_101000_0, .vld 2 true 1 3 10),
    (0b011_01_00_001_00000_01010_01001_101001_0, .vstN 3 1 9 10),
    (0b01101_00001_11110_00110_00101_101100_0, .cpcopy true 5 5 6 30),
    (0b00000_00000_00111_00110_00000_101101_0, .epush 6 7),
    (0b10101_00011_00111_00110_00101_101110_0, .grelabel true false 5 5 6 7),
    (0b00101_00010_00000_00000_00101_101111_0, .chstat 5 5)] : List (BitVec 32 × Instr)), decode (le32 p.1) = .ok (p.2, 4))
  ∧ decode (le16 0b1001_110_101_0101_01) = .ok (.cLd 9 6 5, 2)
  ∧ decode (le32 0b00000_00110_00101_11000_1_1011_00011_11
      ++ le32 0b00000000000000000000_0000_00_01_1_100) = .ok (.mmulO 11 1 24 true 5 6 4, 8)

/-- The memories of the machine keep their canonical form, and the lines in the die caches their 64 bytes, at every step. -/
def Obligations.StepKeepsMemoryForm : Prop := ∀ s t : State, MemoryForm s → step s = .next t → MemoryForm t

/-- R293, R297: an instruction that a hart at user privilege executes leaves it at user privilege, or in the handler of the level that
took a trap: no other way leads to more privilege. -/
def Obligations.PrivilegeRisesOnlyByTrap : Prop :=
  ∀ (s t : State) (i : Instr), encode i ≠ [] → s.me.priv = .user → exec i s = .next t →
    t.me.priv = .user ∨ (t.me.mode = .trapped ∧ t.me.pc = (s.me.level t.me.priv).tvec)

/-- R81, R93, R127, R128, R363: where only the front end of the moving hart can move, a step lets time pass, makes the lines of the
instruction ready as a load does, past the hart's held stores (log 54, DEDUCED), and executes the instruction that its bytes decode to; what a remote fetch and a replayed restart point leave
behind ends with it (`afterInstr`). An instruction that reads a poisoned register traps in its place, unless it is illegal or privileged
(R363). Bytes that decode to none trap with cause 0x00 and the first 32 bits, or the 16 that there are (log 81, DEDUCED). Time and the fetch move no register, pc or privilege, and
time moves no memory byte. -/
def Obligations.StepRunsDecodedInstruction : Prop :=
  ∀ (s : State) (bs : List Byte), OnlyFrontEnd s → Stands (fetchLines (tick s)) bs →
    let w := fetchLines (tick s)
    (w.cur = s.cur ∧ w.me.x = s.me.x ∧ w.me.v = s.me.v ∧ w.me.pc = s.me.pc ∧ w.me.priv = s.me.priv ∧ (tick s).mem = s.mem)
    ∧ (∀ i n, decode bs = .ok (i, n) → scalarPoison w.me i = none → step s = afterInstr w (exec i w)
      ∧ ∀ t, exec i w = .next t → t.me.fetched = [] → t.me.replay = false → step s = .next t)
    ∧ (∀ i n k t, decode bs = .ok (i, n) → scalarPoison w.me i = some k → exec i w = .next t →
      t ≠ raise w w.cur { cause := 0x00, val := firstBits i } → t ≠ raise w w.cur { cause := 0x01, val := firstBits i } →
      step s = afterInstr w (.next (raise w w.cur (regTrap w.cur k))))
    ∧ ∀ e, s.me.fetched = [] → decode bs = .error e → ∃ t, step s = .next t
      ∧ TrapTaken w t s.cur { cause := 0x00, val := BitVec.ofNat 64 (ofLE (bs.take 4)) }

/-- R51, R217, R242, R292, R295, R372, R389: after reset every hart is Free with its registers zero, nothing is in memory or in a queue,
the control words hold the reset values that their tables give, and the boot ROM runs. Registers without a stated value are zero
(log 3, DESIGN CHOICE). -/
def Obligations.ResetState : Prop :=
  MemoryForm State.reset
  ∧ (∀ i, let h := State.reset.hart i
    h.mode = .free ∧ (∀ r, h.getX r = 0) ∧ h.vq = [] ∧ h.mq = [] ∧ h.uw.slip = 4 ∧ h.uw.lscale = 0x3F800000 ∧ h.uw.lint = 1000
    ∧ h.uw.colarb = 4 ∧ h.uw.ramotag = 0 ∧ h.sw.syield = 65536 ∧ h.sw.fdeleg = 0x1DFFFF)
  ∧ (∀ c b, (State.reset.bar c b) = ⟨0, false, .idle⟩) ∧ (∀ c, (State.reset.core c).gate = .active ∧ (State.reset.core c).owner = none)
  ∧ (∀ a, State.reset.mem.read a = 0) ∧ State.reset.fw.fplim = 2400 ∧ State.reset.fw.ffence = 3 ∧ State.reset.fw.fnode = 0
  ∧ State.reset.boot.stage = .rom ∧ State.reset.hold.phase = .none ∧ ∀ p, (State.reset.part p).record.id = 0
end

