-- ==== Sys2Proof/Laws/Memory.lean ====
section
/-! SUPPORT. Byte memory: every operation keeps the canonical form, a byte written reads back, and every other byte stays. -/

namespace Sys2Proof.Machine

/-- A memory whose addresses start higher also starts at a lower bound. -/
theorem Memory.wfFrom_mono {lo hi : Nat} {m : Memory} (h : lo ≤ hi) (w : m.wfFrom hi = true) : m.wfFrom lo = true := by
  cases m with
  | nil => rfl
  | cons p r =>
    simp only [Memory.wfFrom, Bool.and_eq_true, decide_eq_true_eq] at w ⊢
    exact ⟨⟨h.trans w.1.1, w.1.2⟩, w.2⟩

/-- An address below every listed one reads as unlisted. -/
theorem Memory.read_below {m : Memory} : ∀ {lo a : Nat}, m.wfFrom lo = true → a < lo → m.read a = unlisted := by
  induction m with
  | nil => intros; rfl
  | cons p r ih =>
    intro lo a w h
    simp only [Memory.wfFrom, Bool.and_eq_true, decide_eq_true_eq] at w
    have n : p.1 ≠ a := by omega
    have := ih w.2 (show a < p.1 + 1 by omega)
    simp only [Memory.read, kget] at this ⊢
    simp [n, this]

/-- A write keeps the canonical form above any bound below its address. -/
theorem Memory.write_wfFrom {m : Memory} : ∀ {lo a : Nat} (b : Byte), m.wfFrom lo = true → lo ≤ a →
    (m.write a b).wfFrom lo = true := by
  induction m with
  | nil =>
    intro lo a b _ h
    simp only [Memory.write]
    split
    · rfl
    · rename_i n
      simp [Memory.wfFrom, h, n]
  | cons p r ih =>
    intro lo a b w h
    obtain ⟨k, v⟩ := p
    simp only [Memory.wfFrom, Bool.and_eq_true, decide_eq_true_eq] at w
    simp only [Memory.write]
    split
    · rename_i lt
      split
      · simp [Memory.wfFrom, w]
      · rename_i n
        simp only [Memory.wfFrom, Bool.and_eq_true, decide_eq_true_eq, bne_iff_ne, ne_eq]
        exact ⟨⟨h, n⟩, ⟨lt, by simpa using w.1.2⟩, w.2⟩
    · rename_i ge
      split
      · rename_i e
        split
        · exact Memory.wfFrom_mono (by omega) w.2
        · rename_i n
          simp only [Memory.wfFrom, Bool.and_eq_true, decide_eq_true_eq, bne_iff_ne, ne_eq]
          exact ⟨⟨h, n⟩, e ▸ w.2⟩
      · rename_i ne
        simp only [Memory.wfFrom, Bool.and_eq_true, decide_eq_true_eq]
        exact ⟨w.1, ih b w.2 (by omega)⟩

/-- Every write of a byte keeps the canonical form. -/
theorem Memory.write_wf {m : Memory} (a : Nat) (b : Byte) (w : m.wf = true) : (m.write a b).wf = true :=
  Memory.write_wfFrom b w (Nat.zero_le a)

/-- Every write of a list of bytes keeps the canonical form. -/
theorem Memory.writeBytes_wf : ∀ (bs : List Byte) {m : Memory} (a : Nat), m.wf = true → (m.writeBytes a bs).wf = true
  | [], _, _, w => w
  | b :: r, _, a, w => Memory.writeBytes_wf r (a + 1) (Memory.write_wf a b w)

/-- The byte written reads back. -/
theorem Memory.read_write_from {m : Memory} : ∀ {lo : Nat} (a : Nat) (b : Byte), m.wfFrom lo = true →
    (m.write a b).read a = b := by
  induction m with
  | nil =>
    intro lo a b _
    simp only [Memory.write]
    split
    · rename_i e; exact e.symm
    · simp [Memory.read, kget]
  | cons p r ih =>
    intro lo a b w
    obtain ⟨k, v⟩ := p
    simp only [Memory.wfFrom, Bool.and_eq_true, decide_eq_true_eq] at w
    simp only [Memory.write]
    split
    · rename_i lt
      split
      · rename_i e
        have n : k ≠ a := by omega
        have := Memory.read_below w.2 (show a < k + 1 by omega)
        simp only [Memory.read, kget] at this ⊢
        simp [n, this, e]
      · simp [Memory.read, kget]
    · split
      · rename_i e
        split
        · rename_i z
          rw [← e, z]
          exact Memory.read_below w.2 (by omega)
        · simp [Memory.read, kget]
      · rename_i ge ne
        have := ih a b w.2
        simp only [Memory.read, kget] at this ⊢
        simp [ne, this]

theorem Memory.read_write {m : Memory} (a : Nat) (b : Byte) (w : m.wf = true) : (m.write a b).read a = b :=
  Memory.read_write_from a b w

/-- Every other byte is as before. -/
theorem Memory.read_write_ne {m : Memory} {a c : Nat} (b : Byte) (h : c ≠ a) : (m.write a b).read c = m.read c := by
  induction m with
  | nil =>
    simp only [Memory.write]
    split
    · rfl
    · simp [Memory.read, kget, h.symm]
  | cons p r ih =>
    obtain ⟨k, v⟩ := p
    simp only [Memory.write]
    split
    · split
      · rfl
      · simp [Memory.read, kget, h.symm]
    · split
      · rename_i e
        have n : k ≠ c := fun x => h (x ▸ e)
        split <;> simp [Memory.read, kget, h.symm, n]
      · simp only [Memory.read, kget] at ih ⊢
        simp [ih]

/-- The bytes outside a written range are as before. -/
theorem Memory.read_writeBytes_ne : ∀ (bs : List Byte) (m : Memory) {a c : Nat}, c < a ∨ a + bs.length ≤ c →
    (m.writeBytes a bs).read c = m.read c
  | [], _, _, _, _ => rfl
  | b :: r, m, a, c, h => by
    simp only [List.length_cons] at h
    have := Memory.read_writeBytes_ne r (m.write a b) (a := a + 1) (c := c) (by omega)
    rw [Memory.writeBytes, this, Memory.read_write_ne b (by omega)]

/-- A written range reads back. -/
theorem Memory.bytes_writeBytes : ∀ (bs : List Byte) {m : Memory} (a : Nat), m.wf = true →
    (m.writeBytes a bs).bytes a bs.length = bs
  | [], _, _, _ => rfl
  | b :: r, m, a, w => by
    have := Memory.bytes_writeBytes r (a + 1) (Memory.write_wf a b w)
    simp only [Memory.writeBytes, List.length_cons, Memory.bytes, this, List.cons.injEq, and_true]
    rw [Memory.read_writeBytes_ne r _ (by omega), Memory.read_write a b w]

end Sys2Proof.Machine
end

