-- ==== Sys2Proof/Laws/State.lean ====
section
/-! SUPPORT. What each update of the state does to each of its fields, and what is read back after an update. -/

namespace Sys2Proof.Machine

/-! ## Maps -/

variable {α : Type}

/-- The value at the key written. -/
@[simp] theorem kget_kput (d : α) (m : KMap α) (k : Nat) (v : α) : kget d (kput m k v) k = v := by
  induction m with
  | nil => simp [kput, kget]
  | cons p r ih =>
    obtain ⟨k', v'⟩ := p
    simp only [kput]
    split
    · simp [kget]
    · split
      · simp [kget]
      · simp [kget, *]

/-- The value at another key. -/
theorem kget_kput_ne (d : α) (m : KMap α) {k j : Nat} (v : α) (h : j ≠ k) : kget d (kput m k v) j = kget d m j := by
  induction m with
  | nil => simp [kput, kget, h.symm]
  | cons p r ih =>
    obtain ⟨k', v'⟩ := p
    simp only [kput]
    split
    · simp [kget, h.symm]
    · split
      · rename_i e
        have : k' ≠ j := fun c => h (c ▸ e)
        simp [kget, h.symm, this]
      · simp [kget, ih]

/-! ## Fields after an update -/

@[simp] theorem State.setHart_cur (s : State) (h : Nat) (x : Hart) : (s.setHart h x).cur = s.cur := rfl
@[simp] theorem State.setHart_schedule (s : State) (h : Nat) (x : Hart) : (s.setHart h x).schedule = s.schedule := rfl
@[simp] theorem State.setHart_input (s : State) (h : Nat) (x : Hart) : (s.setHart h x).input = s.input := rfl
@[simp] theorem State.setHart_ticks (s : State) (h : Nat) (x : Hart) : (s.setHart h x).ticks = s.ticks := rfl
@[simp] theorem State.setHart_pick (s : State) (h : Nat) (x : Hart) : (s.setHart h x).pick = s.pick := rfl
@[simp] theorem State.setHart_cycle (s : State) (h : Nat) (x : Hart) : (s.setHart h x).cycle = s.cycle := rfl
@[simp] theorem State.setHart_cores (s : State) (h : Nat) (x : Hart) : (s.setHart h x).cores = s.cores := rfl
@[simp] theorem State.setHart_dies (s : State) (h : Nat) (x : Hart) : (s.setHart h x).dies = s.dies := rfl
@[simp] theorem State.setHart_mem (s : State) (h : Nat) (x : Hart) : (s.setHart h x).mem = s.mem := rfl
@[simp] theorem State.setHart_poison (s : State) (h : Nat) (x : Hart) : (s.setHart h x).poison = s.poison := rfl
@[simp] theorem State.setHart_parts (s : State) (h : Nat) (x : Hart) : (s.setHart h x).parts = s.parts := rfl
@[simp] theorem State.setHart_fw (s : State) (h : Nat) (x : Hart) : (s.setHart h x).fw = s.fw := rfl
@[simp] theorem State.setHart_power (s : State) (h : Nat) (x : Hart) : (s.setHart h x).power = s.power := rfl
@[simp] theorem State.setHart_boot (s : State) (h : Nat) (x : Hart) : (s.setHart h x).boot = s.boot := rfl
@[simp] theorem State.setHart_hold (s : State) (h : Nat) (x : Hart) : (s.setHart h x).hold = s.hold := rfl
@[simp] theorem State.setHart_fab (s : State) (h : Nat) (x : Hart) : (s.setHart h x).fab = s.fab := rfl
@[simp] theorem State.setHart_errs (s : State) (h : Nat) (x : Hart) : (s.setHart h x).errs = s.errs := rfl
@[simp] theorem State.setHart_errOvf (s : State) (h : Nat) (x : Hart) : (s.setHart h x).errOvf = s.errOvf := rfl
@[simp] theorem State.setHart_serrcnt (s : State) (h : Nat) (x : Hart) : (s.setHart h x).serrcnt = s.serrcnt := rfl
@[simp] theorem State.setHart_nextOrder (s : State) (h : Nat) (x : Hart) : (s.setHart h x).nextOrder = s.nextOrder := rfl

@[simp] theorem State.setCore_cur (s : State) (c : Nat) (x : Core) : (s.setCore c x).cur = s.cur := rfl
@[simp] theorem State.setCore_schedule (s : State) (c : Nat) (x : Core) : (s.setCore c x).schedule = s.schedule := rfl
@[simp] theorem State.setCore_input (s : State) (c : Nat) (x : Core) : (s.setCore c x).input = s.input := rfl
@[simp] theorem State.setCore_ticks (s : State) (c : Nat) (x : Core) : (s.setCore c x).ticks = s.ticks := rfl
@[simp] theorem State.setCore_pick (s : State) (c : Nat) (x : Core) : (s.setCore c x).pick = s.pick := rfl
@[simp] theorem State.setCore_cycle (s : State) (c : Nat) (x : Core) : (s.setCore c x).cycle = s.cycle := rfl
@[simp] theorem State.setCore_harts (s : State) (c : Nat) (x : Core) : (s.setCore c x).harts = s.harts := rfl
@[simp] theorem State.setCore_dies (s : State) (c : Nat) (x : Core) : (s.setCore c x).dies = s.dies := rfl
@[simp] theorem State.setCore_mem (s : State) (c : Nat) (x : Core) : (s.setCore c x).mem = s.mem := rfl
@[simp] theorem State.setCore_poison (s : State) (c : Nat) (x : Core) : (s.setCore c x).poison = s.poison := rfl
@[simp] theorem State.setCore_parts (s : State) (c : Nat) (x : Core) : (s.setCore c x).parts = s.parts := rfl
@[simp] theorem State.setCore_fw (s : State) (c : Nat) (x : Core) : (s.setCore c x).fw = s.fw := rfl
@[simp] theorem State.setCore_power (s : State) (c : Nat) (x : Core) : (s.setCore c x).power = s.power := rfl
@[simp] theorem State.setCore_boot (s : State) (c : Nat) (x : Core) : (s.setCore c x).boot = s.boot := rfl
@[simp] theorem State.setCore_hold (s : State) (c : Nat) (x : Core) : (s.setCore c x).hold = s.hold := rfl
@[simp] theorem State.setCore_fab (s : State) (c : Nat) (x : Core) : (s.setCore c x).fab = s.fab := rfl
@[simp] theorem State.setCore_errs (s : State) (c : Nat) (x : Core) : (s.setCore c x).errs = s.errs := rfl
@[simp] theorem State.setCore_errOvf (s : State) (c : Nat) (x : Core) : (s.setCore c x).errOvf = s.errOvf := rfl
@[simp] theorem State.setCore_serrcnt (s : State) (c : Nat) (x : Core) : (s.setCore c x).serrcnt = s.serrcnt := rfl
@[simp] theorem State.setCore_nextOrder (s : State) (c : Nat) (x : Core) : (s.setCore c x).nextOrder = s.nextOrder := rfl

@[simp] theorem State.setDie_cur (s : State) (d : Nat) (x : Die) : (s.setDie d x).cur = s.cur := rfl
@[simp] theorem State.setDie_schedule (s : State) (d : Nat) (x : Die) : (s.setDie d x).schedule = s.schedule := rfl
@[simp] theorem State.setDie_input (s : State) (d : Nat) (x : Die) : (s.setDie d x).input = s.input := rfl
@[simp] theorem State.setDie_ticks (s : State) (d : Nat) (x : Die) : (s.setDie d x).ticks = s.ticks := rfl
@[simp] theorem State.setDie_pick (s : State) (d : Nat) (x : Die) : (s.setDie d x).pick = s.pick := rfl
@[simp] theorem State.setDie_cycle (s : State) (d : Nat) (x : Die) : (s.setDie d x).cycle = s.cycle := rfl
@[simp] theorem State.setDie_harts (s : State) (d : Nat) (x : Die) : (s.setDie d x).harts = s.harts := rfl
@[simp] theorem State.setDie_cores (s : State) (d : Nat) (x : Die) : (s.setDie d x).cores = s.cores := rfl
@[simp] theorem State.setDie_mem (s : State) (d : Nat) (x : Die) : (s.setDie d x).mem = s.mem := rfl
@[simp] theorem State.setDie_poison (s : State) (d : Nat) (x : Die) : (s.setDie d x).poison = s.poison := rfl
@[simp] theorem State.setDie_parts (s : State) (d : Nat) (x : Die) : (s.setDie d x).parts = s.parts := rfl
@[simp] theorem State.setDie_fw (s : State) (d : Nat) (x : Die) : (s.setDie d x).fw = s.fw := rfl
@[simp] theorem State.setDie_power (s : State) (d : Nat) (x : Die) : (s.setDie d x).power = s.power := rfl
@[simp] theorem State.setDie_boot (s : State) (d : Nat) (x : Die) : (s.setDie d x).boot = s.boot := rfl
@[simp] theorem State.setDie_hold (s : State) (d : Nat) (x : Die) : (s.setDie d x).hold = s.hold := rfl
@[simp] theorem State.setDie_fab (s : State) (d : Nat) (x : Die) : (s.setDie d x).fab = s.fab := rfl
@[simp] theorem State.setDie_errs (s : State) (d : Nat) (x : Die) : (s.setDie d x).errs = s.errs := rfl
@[simp] theorem State.setDie_errOvf (s : State) (d : Nat) (x : Die) : (s.setDie d x).errOvf = s.errOvf := rfl
@[simp] theorem State.setDie_serrcnt (s : State) (d : Nat) (x : Die) : (s.setDie d x).serrcnt = s.serrcnt := rfl
@[simp] theorem State.setDie_nextOrder (s : State) (d : Nat) (x : Die) : (s.setDie d x).nextOrder = s.nextOrder := rfl

@[simp] theorem State.setPart_cur (s : State) (p : Nat) (x : Part) : (s.setPart p x).cur = s.cur := rfl
@[simp] theorem State.setPart_schedule (s : State) (p : Nat) (x : Part) : (s.setPart p x).schedule = s.schedule := rfl
@[simp] theorem State.setPart_input (s : State) (p : Nat) (x : Part) : (s.setPart p x).input = s.input := rfl
@[simp] theorem State.setPart_ticks (s : State) (p : Nat) (x : Part) : (s.setPart p x).ticks = s.ticks := rfl
@[simp] theorem State.setPart_pick (s : State) (p : Nat) (x : Part) : (s.setPart p x).pick = s.pick := rfl
@[simp] theorem State.setPart_cycle (s : State) (p : Nat) (x : Part) : (s.setPart p x).cycle = s.cycle := rfl
@[simp] theorem State.setPart_harts (s : State) (p : Nat) (x : Part) : (s.setPart p x).harts = s.harts := rfl
@[simp] theorem State.setPart_cores (s : State) (p : Nat) (x : Part) : (s.setPart p x).cores = s.cores := rfl
@[simp] theorem State.setPart_dies (s : State) (p : Nat) (x : Part) : (s.setPart p x).dies = s.dies := rfl
@[simp] theorem State.setPart_mem (s : State) (p : Nat) (x : Part) : (s.setPart p x).mem = s.mem := rfl
@[simp] theorem State.setPart_poison (s : State) (p : Nat) (x : Part) : (s.setPart p x).poison = s.poison := rfl
@[simp] theorem State.setPart_fw (s : State) (p : Nat) (x : Part) : (s.setPart p x).fw = s.fw := rfl
@[simp] theorem State.setPart_power (s : State) (p : Nat) (x : Part) : (s.setPart p x).power = s.power := rfl
@[simp] theorem State.setPart_boot (s : State) (p : Nat) (x : Part) : (s.setPart p x).boot = s.boot := rfl
@[simp] theorem State.setPart_hold (s : State) (p : Nat) (x : Part) : (s.setPart p x).hold = s.hold := rfl
@[simp] theorem State.setPart_fab (s : State) (p : Nat) (x : Part) : (s.setPart p x).fab = s.fab := rfl
@[simp] theorem State.setPart_errs (s : State) (p : Nat) (x : Part) : (s.setPart p x).errs = s.errs := rfl
@[simp] theorem State.setPart_errOvf (s : State) (p : Nat) (x : Part) : (s.setPart p x).errOvf = s.errOvf := rfl
@[simp] theorem State.setPart_serrcnt (s : State) (p : Nat) (x : Part) : (s.setPart p x).serrcnt = s.serrcnt := rfl
@[simp] theorem State.setPart_nextOrder (s : State) (p : Nat) (x : Part) : (s.setPart p x).nextOrder = s.nextOrder := rfl

@[simp] theorem State.setMe_cur (s : State) (x : Hart) : (s.setMe x).cur = s.cur := rfl
@[simp] theorem State.setMe_schedule (s : State) (x : Hart) : (s.setMe x).schedule = s.schedule := rfl
@[simp] theorem State.setMe_input (s : State) (x : Hart) : (s.setMe x).input = s.input := rfl
@[simp] theorem State.setMe_ticks (s : State) (x : Hart) : (s.setMe x).ticks = s.ticks := rfl
@[simp] theorem State.setMe_pick (s : State) (x : Hart) : (s.setMe x).pick = s.pick := rfl
@[simp] theorem State.setMe_cycle (s : State) (x : Hart) : (s.setMe x).cycle = s.cycle := rfl
@[simp] theorem State.setMe_cores (s : State) (x : Hart) : (s.setMe x).cores = s.cores := rfl
@[simp] theorem State.setMe_dies (s : State) (x : Hart) : (s.setMe x).dies = s.dies := rfl
@[simp] theorem State.setMe_mem (s : State) (x : Hart) : (s.setMe x).mem = s.mem := rfl
@[simp] theorem State.setMe_poison (s : State) (x : Hart) : (s.setMe x).poison = s.poison := rfl
@[simp] theorem State.setMe_parts (s : State) (x : Hart) : (s.setMe x).parts = s.parts := rfl
@[simp] theorem State.setMe_fw (s : State) (x : Hart) : (s.setMe x).fw = s.fw := rfl
@[simp] theorem State.setMe_power (s : State) (x : Hart) : (s.setMe x).power = s.power := rfl
@[simp] theorem State.setMe_boot (s : State) (x : Hart) : (s.setMe x).boot = s.boot := rfl
@[simp] theorem State.setMe_hold (s : State) (x : Hart) : (s.setMe x).hold = s.hold := rfl
@[simp] theorem State.setMe_fab (s : State) (x : Hart) : (s.setMe x).fab = s.fab := rfl
@[simp] theorem State.setMe_errs (s : State) (x : Hart) : (s.setMe x).errs = s.errs := rfl
@[simp] theorem State.setMe_errOvf (s : State) (x : Hart) : (s.setMe x).errOvf = s.errOvf := rfl
@[simp] theorem State.setMe_serrcnt (s : State) (x : Hart) : (s.setMe x).serrcnt = s.serrcnt := rfl
@[simp] theorem State.setMe_nextOrder (s : State) (x : Hart) : (s.setMe x).nextOrder = s.nextOrder := rfl

/-! ## Reading back -/

@[simp] theorem State.hart_setHart (s : State) (h : Nat) (x : Hart) : (s.setHart h x).hart h = x := kget_kput _ s.harts h x
theorem State.hart_setHart_ne (s : State) {h i : Nat} (x : Hart) (n : i ≠ h) : (s.setHart h x).hart i = s.hart i :=
  kget_kput_ne _ s.harts x n
@[simp] theorem State.core_setCore (s : State) (c : Nat) (x : Core) : (s.setCore c x).core c = x := kget_kput _ s.cores c x
theorem State.core_setCore_ne (s : State) {c d : Nat} (x : Core) (n : d ≠ c) : (s.setCore c x).core d = s.core d :=
  kget_kput_ne _ s.cores x n
@[simp] theorem State.die_setDie (s : State) (d : Nat) (x : Die) : (s.setDie d x).die d = x := kget_kput _ s.dies d x
theorem State.die_setDie_ne (s : State) {d e : Nat} (x : Die) (n : e ≠ d) : (s.setDie d x).die e = s.die e :=
  kget_kput_ne _ s.dies x n
@[simp] theorem State.part_setPart (s : State) (p : Nat) (x : Part) : (s.setPart p x).part p = x := kget_kput _ s.parts p x
theorem State.part_setPart_ne (s : State) {p q : Nat} (x : Part) (n : q ≠ p) : (s.setPart p x).part q = s.part q :=
  kget_kput_ne _ s.parts x n
@[simp] theorem State.me_setMe (s : State) (x : Hart) : (s.setMe x).me = x := State.hart_setHart s s.cur x
theorem State.hart_setMe_ne (s : State) {i : Nat} (x : Hart) (n : i ≠ s.cur) : (s.setMe x).hart i = s.hart i :=
  State.hart_setHart_ne s x n

@[simp] theorem State.core_setHart (s : State) (h : Nat) (x : Hart) (c : Nat) : (s.setHart h x).core c = s.core c := rfl
@[simp] theorem State.die_setHart (s : State) (h : Nat) (x : Hart) (d : Nat) : (s.setHart h x).die d = s.die d := rfl
@[simp] theorem State.part_setHart (s : State) (h : Nat) (x : Hart) (p : Nat) : (s.setHart h x).part p = s.part p := rfl
@[simp] theorem State.core_setMe (s : State) (x : Hart) (c : Nat) : (s.setMe x).core c = s.core c := rfl
@[simp] theorem State.die_setMe (s : State) (x : Hart) (d : Nat) : (s.setMe x).die d = s.die d := rfl
@[simp] theorem State.part_setMe (s : State) (x : Hart) (p : Nat) : (s.setMe x).part p = s.part p := rfl
@[simp] theorem State.hart_setCore (s : State) (c : Nat) (x : Core) (h : Nat) : (s.setCore c x).hart h = s.hart h := rfl
@[simp] theorem State.die_setCore (s : State) (c : Nat) (x : Core) (d : Nat) : (s.setCore c x).die d = s.die d := rfl
@[simp] theorem State.hart_setDie (s : State) (d : Nat) (x : Die) (h : Nat) : (s.setDie d x).hart h = s.hart h := rfl
@[simp] theorem State.core_setDie (s : State) (d : Nat) (x : Die) (c : Nat) : (s.setDie d x).core c = s.core c := rfl
@[simp] theorem State.hart_setPart (s : State) (p : Nat) (x : Part) (h : Nat) : (s.setPart p x).hart h = s.hart h := rfl
@[simp] theorem State.core_setPart (s : State) (p : Nat) (x : Part) (c : Nat) : (s.setPart p x).core c = s.core c := rfl

/-! ## Scalar registers -/

/-- R130: x0 reads zero. -/
@[simp] theorem Hart.getX_zero (h : Hart) : h.getX 0 = 0 := rfl

/-- R130: the register written reads as the value, except x0. -/
theorem Hart.getX_setX (h : Hart) (r : Reg) (v : W64) : (h.setX r v).getX r = if r = 0 then 0 else v := by
  unfold Hart.setX Hart.getX
  split <;> simp

theorem Hart.getX_setX_ne (h : Hart) {r q : Reg} (v : W64) (n : q ≠ r) : (h.setX r v).getX q = h.getX q := by
  unfold Hart.setX Hart.getX
  split
  · rfl
  · split
    · rfl
    · have : r.toNat ≠ q.toNat := fun e => n (BitVec.eq_of_toNat_eq e.symm)
      simp [this]

@[simp] theorem Hart.setX_pc (h : Hart) (r : Reg) (v : W64) : (h.setX r v).pc = h.pc := by unfold Hart.setX; split <;> rfl
@[simp] theorem Hart.advance_pc (h : Hart) (n : Nat) : (h.advance n).pc = h.pc + BitVec.ofNat 64 n := rfl
@[simp] theorem Hart.advance_getX (h : Hart) (n : Nat) (r : Reg) : (h.advance n).getX r = h.getX r := rfl
@[simp] theorem Hart.advance_x (h : Hart) (n : Nat) : (h.advance n).x = h.x := rfl

/-- Writing a register changes the register file and its poison marks alone. -/
theorem Hart.setX_eq (h : Hart) (r : Reg) (v : W64) : h.setX r v = { h with x := (h.setX r v).x, sram := (h.setX r v).sram } := by
  unfold Hart.setX; split <;> rfl

/-- R362: a register written whole is not poisoned, and no other mark changes. -/
theorem Hart.setX_sram (h : Hart) (r : Reg) (v : W64) :
    (h.setX r v).sram = if r = 0 then h.sram else h.sram.filter fun m => m.1 != .x r.toNat := by
  unfold Hart.setX; split <;> rfl

end Sys2Proof.Machine
end

