-- ==== Sys2Proof/Laws/Ops.lean ====
section
/-! SUPPORT. What each shared operation of the meanings can do, said once: its outcomes with their conditions, and what it leaves. -/

namespace Sys2Proof.Machine

/-! ## Error reports and traps (R293 to R299, R361 to R365) -/

@[simp] theorem countError_harts (s : State) (p : Option Nat) (n : Nat) : (countError s p n).harts = s.harts := by
  cases p <;> rfl
@[simp] theorem countError_mem (s : State) (p : Option Nat) (n : Nat) : (countError s p n).mem = s.mem := by cases p <;> rfl
@[simp] theorem countError_cur (s : State) (p : Option Nat) (n : Nat) : (countError s p n).cur = s.cur := by cases p <;> rfl
@[simp] theorem countError_cores (s : State) (p : Option Nat) (n : Nat) : (countError s p n).cores = s.cores := by
  cases p <;> rfl
@[simp] theorem countError_dies (s : State) (p : Option Nat) (n : Nat) : (countError s p n).dies = s.dies := by cases p <;> rfl

@[simp] theorem logError_harts (s : State) (p : Option Nat) (e : ErrEntry) : (logError s p e).harts = s.harts := by
  cases p <;> unfold logError <;> dsimp only <;> split <;> rfl
@[simp] theorem logError_mem (s : State) (p : Option Nat) (e : ErrEntry) : (logError s p e).mem = s.mem := by
  cases p <;> unfold logError <;> dsimp only <;> split <;> rfl
@[simp] theorem logError_cur (s : State) (p : Option Nat) (e : ErrEntry) : (logError s p e).cur = s.cur := by
  cases p <;> unfold logError <;> dsimp only <;> split <;> rfl
@[simp] theorem logError_cores (s : State) (p : Option Nat) (e : ErrEntry) : (logError s p e).cores = s.cores := by
  cases p <;> unfold logError <;> dsimp only <;> split <;> rfl
@[simp] theorem logError_dies (s : State) (p : Option Nat) (e : ErrEntry) : (logError s p e).dies = s.dies := by
  cases p <;> unfold logError <;> dsimp only <;> split <;> rfl

/-- A trap that no error raised reports nothing. -/
theorem reportError_none {s : State} {i : Nat} {t : TrapInfo} {n : Nat} (h : t.err = none) : reportError s i t n = s := by
  simp [reportError, h]

/-- A report changes logs and counters alone. -/
theorem reportError_leaves (s : State) (i : Nat) (t : TrapInfo) (n : Nat) :
    (reportError s i t n).harts = s.harts ∧ (reportError s i t n).mem = s.mem ∧ (reportError s i t n).cur = s.cur
      ∧ (reportError s i t n).cores = s.cores ∧ (reportError s i t n).dies = s.dies := by
  unfold reportError
  split
  · simp
  · dsimp only
    split <;> simp

/-- R297: what trap entry does to the hart, but for the words of the level. -/
theorem Hart.trap_eq (h : Hart) (t : TrapInfo) :
    (h.trap t).mode = .trapped ∧ (h.trap t).priv = trapTo h t.cause ∧ (h.trap t).pc = (h.level (trapTo h t.cause)).tvec
      ∧ (h.trap t).vq = [] ∧ (h.trap t).mq = [] ∧ (h.trap t).x = h.x ∧ (h.trap t).v = h.v ∧ (h.trap t).m = h.m
      ∧ (h.trap t).q = h.q ∧ (h.trap t).uw = h.uw ∧ (h.trap t).sw = h.sw := by
  unfold Hart.trap Hart.setLevel Hart.modFrame
  dsimp only
  cases trapTo h t.cause <;> cases t.sp <;> simp [Hart.level]

/-- R297: trap entry touches no hart but its own, no memory and no core. -/
theorem trapEnter_leaves (s : State) (i : Nat) (t : TrapInfo) :
    (∀ j, j ≠ i → (trapEnter s i t).hart j = s.hart j) ∧ (trapEnter s i t).hart i = (s.hart i).trap t
      ∧ (trapEnter s i t).mem = s.mem ∧ (trapEnter s i t).cur = s.cur ∧ (trapEnter s i t).cores = s.cores
      ∧ (trapEnter s i t).dies = s.dies := by
  obtain ⟨h, m, c, k, d⟩ := reportError_leaves s i t 3
  have hh : ∀ j, (reportError s i t 3).hart j = s.hart j := fun j => by simp [State.hart, h]
  refine ⟨fun j n => ?_, ?_, ?_, ?_, ?_, ?_⟩ <;> simp only [trapEnter, State.hart_setHart, State.setHart_mem, State.setHart_cur,
    State.setHart_cores, State.setHart_dies, hh, m, c, k, d]
  rw [State.hart_setHart_ne _ _ n, hh]

/-- R49, R296, R366: a cause is taken as a trap, rolls the guarded strip back, traps as the third in a row, or meets an error in the
checkpoint. -/
theorem raise_cases (s : State) (i : Nat) (t : TrapInfo) :
    raise s i t = trapEnter s i t
    ∨ (∃ c, (s.hart i).ckpt = some c ∧ rollsBack (s.hart i) t = true ∧ (s.hart i).rollbacks < 2
        ∧ raise s i t = (countError (reportError s i t 2) (slotOfHart s i) 32).setHart i ((s.hart i).rollback c))
    ∨ (rollsBack (s.hart i) t = true ∧ 2 ≤ (s.hart i).rollbacks ∧ raise s i t = trapEnter s i { t with cause := 0x09 })
    ∨ (rollsBack (s.hart i) t = true ∧ (s.hart i).ckptPoison = true ∧ raise s i t = trapEnter (performSome s i) i
        { cause := 0x09, err := some ⟨8, 0, 3, coreOf i, 0xFFF, 0, 0⟩, hard := true }) := by
  unfold raise
  dsimp only
  split
  · exact .inl rfl
  · split
    · split
      · exact .inr (.inr (.inr ⟨‹_›, ‹_›, rfl⟩))
      · split
        · exact .inr (.inl ⟨_, ‹_›, ‹_›, ‹_›, rfl⟩)
        · exact .inr (.inr (.inl ⟨‹_›, by omega, rfl⟩))
    · exact .inl rfl

/-- A cause that does not roll back is a trap. -/
theorem raise_trap {s : State} {i : Nat} {t : TrapInfo} (h : rollsBack (s.hart i) t = false) : raise s i t = trapEnter s i t := by
  rcases raise_cases s i t with e | ⟨c, _, r, _⟩ | ⟨r, _⟩ | ⟨r, _⟩
  · exact e
  all_goals simp [h] at r

/-- A cause outside a guarded strip is a trap. -/
theorem raise_unguarded {s : State} {i : Nat} {t : TrapInfo} (h : (s.hart i).guarded = false) : raise s i t = trapEnter s i t :=
  raise_trap (by simp [rollsBack, h])

/-- R49: causes other than 0x09 and 0x0D are traps. -/
theorem raise_other {s : State} {i : Nat} {t : TrapInfo} (h : t.cause ≠ 0x09) (g : t.cause ≠ 0x0D) : raise s i t = trapEnter s i t :=
  raise_trap (by
    unfold rollsBack
    rw [beq_eq_false_iff_ne.mpr h, beq_eq_false_iff_ne.mpr g]
    simp)

/-- Where no strip's checkpoint is in error, a cause taken changes no memory, no core and no other hart. -/
theorem raise_leaves {s : State} {i : Nat} {t : TrapInfo} (q : (s.hart i).ckptPoison = false) :
    (∀ j, j ≠ i → (raise s i t).hart j = s.hart j) ∧ (raise s i t).mem = s.mem ∧ (raise s i t).cur = s.cur
      ∧ (raise s i t).cores = s.cores ∧ (raise s i t).dies = s.dies := by
  rcases raise_cases s i t with e | ⟨c, _, _, _, e⟩ | ⟨_, _, e⟩ | ⟨_, e, _⟩
  · rw [e]; obtain ⟨a, _, b⟩ := trapEnter_leaves s i t; exact ⟨a, b⟩
  · rw [e]
    obtain ⟨h, m, k, l, d⟩ := reportError_leaves s i t 2
    refine ⟨fun j n => ?_, by simp [m], by simp [k], by simp [l], by simp [d]⟩
    rw [State.hart_setHart_ne _ _ n]; simp [State.hart, h]
  · rw [e]; obtain ⟨a, _, b⟩ := trapEnter_leaves s i { t with cause := 0x09 }; exact ⟨a, b⟩
  · simp [q] at e

@[simp] theorem State.trapMe_eq (s : State) (t : TrapInfo) : s.trapMe t = .next (raise s s.cur t) := rfl

/-! The fields that the words of a level and the innermost frame leave. -/

@[simp] theorem Hart.setLevel_pc (h : Hart) (p : Priv) (w : TrapLevel) : (h.setLevel p w).pc = h.pc := by cases p <;> rfl
@[simp] theorem Hart.modFrame_pc (h : Hart) (g : Frame → Frame) : (h.modFrame g).pc = h.pc := rfl
@[simp] theorem Hart.setLevel_x (h : Hart) (p : Priv) (w : TrapLevel) : (h.setLevel p w).x = h.x := by cases p <;> rfl
@[simp] theorem Hart.modFrame_x (h : Hart) (g : Frame → Frame) : (h.modFrame g).x = h.x := rfl
@[simp] theorem Hart.setLevel_v (h : Hart) (p : Priv) (w : TrapLevel) : (h.setLevel p w).v = h.v := by cases p <;> rfl
@[simp] theorem Hart.modFrame_v (h : Hart) (g : Frame → Frame) : (h.modFrame g).v = h.v := rfl
@[simp] theorem Hart.setLevel_m (h : Hart) (p : Priv) (w : TrapLevel) : (h.setLevel p w).m = h.m := by cases p <;> rfl
@[simp] theorem Hart.modFrame_m (h : Hart) (g : Frame → Frame) : (h.modFrame g).m = h.m := rfl
@[simp] theorem Hart.setLevel_q (h : Hart) (p : Priv) (w : TrapLevel) : (h.setLevel p w).q = h.q := by cases p <;> rfl
@[simp] theorem Hart.modFrame_q (h : Hart) (g : Frame → Frame) : (h.modFrame g).q = h.q := rfl
@[simp] theorem Hart.setLevel_uw (h : Hart) (p : Priv) (w : TrapLevel) : (h.setLevel p w).uw = h.uw := by cases p <;> rfl
@[simp] theorem Hart.modFrame_uw (h : Hart) (g : Frame → Frame) : (h.modFrame g).uw = h.uw := rfl
@[simp] theorem Hart.setLevel_sw (h : Hart) (p : Priv) (w : TrapLevel) : (h.setLevel p w).sw = h.sw := by cases p <;> rfl
@[simp] theorem Hart.modFrame_sw (h : Hart) (g : Frame → Frame) : (h.modFrame g).sw = h.sw := rfl
@[simp] theorem Hart.setLevel_priv (h : Hart) (p : Priv) (w : TrapLevel) : (h.setLevel p w).priv = h.priv := by cases p <;> rfl
@[simp] theorem Hart.modFrame_priv (h : Hart) (g : Frame → Frame) : (h.modFrame g).priv = h.priv := rfl
@[simp] theorem Hart.setLevel_mode (h : Hart) (p : Priv) (w : TrapLevel) : (h.setLevel p w).mode = h.mode := by cases p <;> rfl
@[simp] theorem Hart.modFrame_mode (h : Hart) (g : Frame → Frame) : (h.modFrame g).mode = h.mode := rfl

/-- R299: what `sret` does to the hart, but for its queues, frames and channels. -/
theorem Hart.sret_eq (h : Hart) :
    h.sret.priv = Priv.ofCode (fld (h.level h.priv).stat 1 0) ∧ h.sret.mode = (if (h.level h.priv).nested then .trapped else .running)
      ∧ h.sret.pc = (if (h.level h.priv).stat.getLsbD 6 then h.pc else evenAddr (h.level h.priv).pc) ∧ h.sret.x = h.x ∧ h.sret.v = h.v
      ∧ h.sret.m = h.m ∧ h.sret.q = h.q ∧ h.sret.uw = h.uw ∧ h.sret.sw = h.sw := by
  unfold Hart.sret
  dsimp only
  refine ⟨rfl, rfl, ?_, ?_, ?_, ?_, ?_, ?_, ?_⟩ <;> split <;> split <;> simp

/-! ## Conditions of instructions (R48, R140, R209) -/

/-- R140: a privileged instruction traps at user privilege and runs above it. -/
theorem needsPriv_next {i : Instr} {s t : State} {k : Out} (h : needsPriv i s k = .next t) :
    (s.me.priv = .user ∧ t = raise s s.cur (cause 0x01 (first32 i))) ∨ (s.me.priv ≠ .user ∧ k = .next t) := by
  unfold needsPriv State.privileged at h
  split at h
  · exact .inl ⟨‹_›, by simpa using h.symm⟩
  · exact .inr ⟨‹_›, h⟩

theorem needsPriv_above {i : Instr} {s : State} {k : Out} (h : s.me.priv ≠ .user) : needsPriv i s k = k := if_neg h

/-- R209: an instruction behind the queues is illegal with an open binding, waits, or goes on. -/
theorem whenDrained_next {i : Instr} {s t : State} {k : State → Out} (h : whenDrained i s k = .next t) :
    (s.me.openBinding = true ∧ t = raise s s.cur (cause 0x00 (first32 i)))
    ∨ (s.me.openBinding = false ∧ s.me.drained = false ∧ t = s)
    ∨ (s.me.openBinding = false ∧ s.me.drained = true ∧ k s = .next t) := by
  unfold whenDrained State.illegal at h
  cases o : s.me.openBinding <;> cases d : s.me.drained <;> simp_all

theorem whenDrained_runs {i : Instr} {s : State} {k : State → Out} (h : s.me.openBinding = false) (g : s.me.drained = true) :
    whenDrained i s k = k s := by
  simp [whenDrained, h, g]

/-- R48: an instruction that commits the strip first runs as it is outside a strip. -/
theorem afterCommit_unguarded {i : Instr} {s : State} {k : State → Out} (h : s.me.guarded = false) : afterCommit i s k = k s := by
  simp [afterCommit, h]

/-- An instruction behind the queues answers a next state where what comes behind does. -/
theorem whenDrained_total {i : Instr} {s : State} {k : State → Out} (h : ∀ s, ∃ t, k s = .next t) : ∃ t, whenDrained i s k = .next t := by
  unfold whenDrained
  split
  · exact ⟨_, rfl⟩
  · split
    · exact h s
    · exact ⟨_, rfl⟩

/-- So does one that commits the strip first. -/
theorem afterCommit_total {i : Instr} {s : State} {k : State → Out} (h : ∀ s, ∃ t, k s = .next t) : ∃ t, afterCommit i s k = .next t := by
  unfold afterCommit
  split
  · exact h s
  · refine whenDrained_total fun s => ?_
    split
    · exact ⟨_, rfl⟩
    · dsimp only
      split
      · exact ⟨_, rfl⟩
      · exact h _

/-- So does one that an open binding may make illegal. -/
theorem bindingFirst_total {i : Instr} {s : State} {c : Bool} {k : Out} (h : ∃ t, k = .next t) : ∃ t, bindingFirst i s c k = .next t := by
  unfold bindingFirst
  split
  · exact ⟨_, rfl⟩
  · exact h

/-- R48, R102, R366: in a strip it waits or is illegal, consumes an error of the buffer, goes on with the commit or waits for remote
stores, or goes on behind the commit. -/
theorem afterCommit_next {i : Instr} {s t : State} {k : State → Out} (h : afterCommit i s k = .next t) :
    (s.me.guarded = false ∧ k s = .next t)
    ∨ (s.me.guarded = true ∧ (t = s ∨ t = raise s s.cur (cause 0x00 (first32 i))
      ∨ (∃ r, bufferError s s.cur = some r ∧ t = raise (performSome s s.cur) (performSome s s.cur).cur r)
      ∨ t = (commitStrip s s.cur s.me.pc false).1
      ∨ ((commitStrip s s.cur s.me.pc false).2 = true ∧ k (commitStrip s s.cur s.me.pc false).1 = .next t))) := by
  unfold afterCommit at h
  split at h
  · exact .inl ⟨by simp_all, h⟩
  · refine .inr ⟨by simp_all, ?_⟩
    rcases whenDrained_next h with ⟨_, e⟩ | ⟨_, _, e⟩ | ⟨_, _, e⟩
    · exact .inr (.inl e)
    · exact .inl e
    · split at e
      · exact .inr (.inr (.inl ⟨_, ‹_›, by simpa using e.symm⟩))
      · dsimp only at e
        split at e
        · exact .inr (.inr (.inr (.inl (by simpa using e.symm))))
        · rename_i n
          exact .inr (.inr (.inr (.inr ⟨by simp_all, e⟩)))

/-- R48: a store outside a strip whose commit is not under way has room. -/
theorem withRoom_unguarded {i : Instr} {s : State} {n : Nat} {k : State → Out} (h : s.me.guarded = false) : withRoom i s n k = k s := by
  unfold withRoom
  split
  · exact afterCommit_unguarded h
  · rfl

/-- R48: a store has room, or behaves as behind a commit. -/
theorem withRoom_cases (i : Instr) (s : State) (n : Nat) (k : State → Out) : withRoom i s n k = k s ∨ withRoom i s n k = afterCommit i s k := by
  unfold withRoom; split
  · exact .inr rfl
  · exact .inl rfl

/-- R128, R209: outside a guarded strip no binding is met first. -/
theorem bindingFirst_none {i : Instr} {s : State} {c : Bool} {k : Out} (h : (c && s.me.openBinding) = false) : bindingFirst i s c k = k := by
  simp [bindingFirst, h]

/-- Where a strip has no store buffer in use, no store overfills it. -/
theorem overfills_unguarded {h : Hart} {n : Nat} (g : h.guarded = false) : overfills h n = false := by simp [overfills, g]

/-! ## Scalar accesses (R76, R77, R151, R155) -/

/-- R46, R76, R77: an access that passes the checks before translation is aligned and outside the buffer. -/
theorem scalarCheck_none {s : State} {va : W64} {n : Nat} :
    scalarCheck s va n = none ↔ va.toNat % n = 0 ∧ touchesBuffer s.me.guarded s.me s.cur va n = false := by
  unfold scalarCheck
  split
  · simp_all
  · split <;> simp_all

/-- R151: a load at a place in the package reads its bytes, extended, behind the acquire. -/
theorem load_runs {s : State} {d : Reg} {va : W64} {n : Nat} {signed : Bool} {acq len : Nat} {p : Place}
    (h : scalarCheck s va n = none) (b : rangeBusy s.me va n = false) (x : (acq != 0 && addPending s.me) = false)
    (l : locate s s.cur (spaceOf s s.cur) false .load va = .ok p) (w : devWaits s p = false) (f : ∀ pa x a, p.loc ≠ .fabric pa x a)
    (q : loadPoison (acquire s s.cur acq) s.cur (scalarView s.cur) p n = none) :
    load s d va n signed acq len
      = .next ((loadAt (acquire s s.cur acq) s.cur (scalarView s.cur) p n).1.write d
          (extend signed n (ofLE (loadAt (acquire s s.cur acq) s.cur (scalarView s.cur) p n).2)) len) := by
  unfold load
  rw [h, b, x]
  obtain ⟨loc, dev⟩ := p
  simp only [l, w, Bool.false_eq_true, if_false, Bool.or_false]
  cases loc with
  | fabric pa x a => exact absurd rfl (f pa x a)
  | mem pa => simp only [q]
  | spad c o => simp only [q]

/-- R76, R77, R151, R363: every outcome of a load is a next state. -/
theorem load_next (s : State) (d : Reg) (va : W64) (n : Nat) (signed : Bool) (acq len : Nat) : ∃ t, load s d va n signed acq len = .next t := by
  unfold load remoteLoad
  dsimp only
  repeat' split
  all_goals exact ⟨_, rfl⟩

/-- R151: a store at user privilege outside a strip, or above, is performed behind its release. -/
theorem store_runs {i : Instr} {s : State} {va v : W64} {n len : Nat} {rel : Option Nat} {p : Place} (g : s.me.guarded = false)
    (h : scalarCheck s va n = none) (b : rangeBusy s.me va n = false)
    (l : locate s s.cur (spaceOf s s.cur) false .store va = .ok p) (w : devWaits s p = false) (q : portReady s s.cur p = true)
    (r : rel.isSome = true → releaseReady s s.cur (rel.getD 0) = true) :
    store i s va v n rel len
      = (let s1 := release s s.cur (rel.getD 0)
         .next ((storeAt s1.me.guarded s1 s1.cur (scalarView s.cur) { p with dev := p.dev || 3 ≤ rel.getD 0 } va
          (toLE n v.toNat) (rel.getD (storeScope p.loc))).pass len)) := by
  unfold store
  rw [overfills_unguarded g, bindingFirst_none (by simp), h, b]
  simp only [l, w, Bool.false_eq_true, if_false, withRoom_unguarded g, g, Bool.not_false, Bool.and_true, q, Bool.not_true, Bool.and_false]
  cases e : rel.isSome
  · simp
  · simp [r e]

/-- R155: an atomic at a place in the package, outside a strip. -/
theorem amo_runs {i : Instr} {op : AmoOp} {sc : BitVec 3} {rel acq wide : Bool} {d a b : Reg} {s : State} {p : Place}
    (g : s.me.guarded = false) (h : scalarCheck s (s.rx a) (if wide then 8 else 4) = none)
    (y : rangeBusy s.me (s.rx a) (if wide then 8 else 4) = false) (z : (acq && addPending s.me) = false)
    (l : locate s s.cur (spaceOf s s.cur) false .rmw (s.rx a) = .ok p) (w : devWaits s p = false) (f : ∀ pa x c, p.loc ≠ .fabric pa x c)
    (q : (let s1 := if rel then release s s.cur sc.toNat else s
          let s2 := if acq then acquire s1 s1.cur sc.toNat else s1
          atomicPoison s2 s.cur p sc.toNat (if wide then 8 else 4)) = none)
    (r : rel = true → releaseReady s s.cur sc.toNat = true) :
    amo i op sc rel acq wide d a b s
      = (let s1 := if rel then release s s.cur sc.toNat else s
         let s2 := if acq then acquire s1 s1.cur sc.toNat else s1
         let n := if wide then 8 else 4
         let x := atomicAt s2 s2.cur p sc.toNat n fun old => amoNew op n old (s.rx b).toNat (s.rx d).toNat
         .next (x.1.write d (extend true n x.2))) := by
  unfold amo
  dsimp only
  rw [bindingFirst_none (by simp [g]), h, y, z]
  have n : ¬((rel && !releaseReady s s.cur sc.toNat) = true) := by cases rel <;> simp_all
  obtain ⟨loc, dev⟩ := p
  simp only [l, w, Bool.false_eq_true, if_false, Bool.or_false]
  dsimp only at q
  cases loc with
  | fabric pa x c => exact absurd rfl (f pa x c)
  | mem pa => simp only [afterCommit_unguarded g, if_neg n, q]
  | spad c o => simp only [afterCommit_unguarded g, if_neg n, q]

/-- R155: every outcome of an atomic is a next state. -/
theorem amo_next (i : Instr) (op : AmoOp) (sc : BitVec 3) (rel acq wide : Bool) (d a b : Reg) (s : State) :
    ∃ t, amo i op sc rel acq wide d a b s = .next t := by
  refine bindingFirst_total ?_
  repeat' split
  all_goals first
    | exact ⟨_, rfl⟩
    | (refine afterCommit_total fun s => ?_
       dsimp only
       repeat' split
       all_goals exact ⟨_, rfl⟩)

/-- R218: every outcome of a settled remote atomic is a next state. -/
theorem ramoOutcome_next (s : State) (d : Reg) (n : Nat) (q : HeldRamo) (r : RemoteResult) :
    ∃ t, ramoOutcome s d n q r = .next t := by
  unfold ramoOutcome
  cases r <;> exact ⟨_, rfl⟩

/-- R217, R218: every outcome of a remote atomic is a next state. -/
theorem ramo_next (i : Instr) (op : AmoOp) (wide : Bool) (d a b : Reg) (s : State) : ∃ t, ramo i op wide d a b s = .next t := by
  refine bindingFirst_total ?_
  repeat' split
  all_goals first
    | exact ⟨_, rfl⟩
    | exact ramoOutcome_next ..
    | (refine afterCommit_total fun s => ?_
       dsimp only
       repeat' split
       all_goals exact ⟨_, rfl⟩)

/-! ## The queues (R25, R207, R220) -/

/-- The front end queues an instruction, waits for room, or traps. -/
theorem queueInstr_next {i : Instr} {s t : State} (h : queueInstr i s = .next t) :
    (t = raise s s.cur (cause 0x00 (first32 i)) ∧ (s.me.imageHeld = true ∨ bindingFault s.me i = true))
    ∨ (t = raise s s.cur (cause 0x06) ∧ isMatrix i = true ∧ (s.core (coreOf s.cur)).owner ≠ some s.cur)
    ∨ (t = s ∧ queueStall s.me i = true)
    ∨ (s.me.imageHeld = false ∧ bindingFault s.me i = false ∧ queueStall s.me i = false
      ∧ t = (s.setMe (s.me.push (entryOf s i))).pass (if isMatrix i then 8 else 4)) := by
  unfold queueInstr State.illegal at h
  dsimp only at h
  split at h
  · exact .inl ⟨by simpa using h.symm, .inl ‹_›⟩
  · split at h
    · exact .inr (.inl ⟨by simpa using h.symm, by simp_all, by simp_all⟩)
    · split at h
      · exact .inl ⟨by simpa using h.symm, .inr ‹_›⟩
      · split at h
        · exact .inr (.inr (.inl ⟨by simpa using h.symm, ‹_›⟩))
        · exact .inr (.inr (.inr ⟨by simp_all, by simp_all, by simp_all, by simpa using h.symm⟩))

/-- Every outcome of queueing is a next state. -/
theorem queueInstr_runs (i : Instr) (s : State) : ∃ t, queueInstr i s = .next t := by
  unfold queueInstr State.illegal
  dsimp only
  repeat' split
  all_goals exact ⟨_, rfl⟩

/-! ## Release, acquire and watches (R89, R93, R157) -/

/-- Below package scope nothing is written back. -/
theorem release_near {s : State} {i n : Nat} (h : n < 3) : release s i n = s := if_neg (by omega)
/-- Below package scope no generation steps. -/
theorem acquire_near {s : State} {i n : Nat} (h : n < 3) : acquire s i n = s := if_neg (by omega)

/-- R93: a step of a die's generation changes caches alone: the die's, and, where it wraps, L1 copies of the lines that go. -/
theorem stepGeneration_leaves (s : State) (d : Nat) :
    (stepGeneration s d).harts = s.harts ∧ (stepGeneration s d).mem = s.mem ∧ (stepGeneration s d).cur = s.cur
      ∧ ((s.die d).gen ≠ 0xFFFF → (stepGeneration s d).cores = s.cores) := by
  unfold stepGeneration
  dsimp only
  split
  · exact ⟨rfl, rfl, rfl, fun h => absurd ‹_› h⟩
  · exact ⟨rfl, rfl, rfl, fun _ => rfl⟩

/-- R89, R93: an acquire changes caches alone. -/
theorem acquire_leaves (s : State) (i n : Nat) :
    (acquire s i n).harts = s.harts ∧ (acquire s i n).mem = s.mem ∧ (acquire s i n).cur = s.cur
      ∧ ((s.die (dieOf i)).gen ≠ 0xFFFF → (acquire s i n).cores = s.cores) := by
  unfold acquire
  split
  · exact stepGeneration_leaves s (dieOf i)
  · exact ⟨rfl, rfl, rfl, fun _ => rfl⟩

/-- With no hart's watch armed, a write is seen by none. -/
theorem watchEvents_none {s : State} {who : Nat → Bool} {l : Loc} (h : ∀ p ∈ s.harts, p.2.watch.armed = false) : watchEvents s who l = s := by
  unfold watchEvents
  have : ∀ (hs : KMap Hart) (t : State), (∀ p ∈ hs, p.2.watch.armed = false) → hs.foldl (init := t) (fun t p =>
      if who p.1 && p.2.watch.armed && p.2.watch.sees l then
        wakeCore (t.setHart p.1 { t.hart p.1 with watch := { p.2.watch with event := true } }) (coreOf p.1)
      else t) = t := by
    intro hs
    induction hs with
    | nil => intros; rfl
    | cons p r ih =>
      intro t g
      rw [List.foldl_cons, if_neg (by simp [g p (List.mem_cons_self ..)])]
      exact ih t fun q m => g q (List.mem_cons_of_mem _ m)
  exact this _ _ h

end Sys2Proof.Machine
end

