-- ==== Sys2Proof/Tests/Slice0.lean ====
section
/-! SUPPORT. Tests: decoding of words written out from the encoding tables, terms that the checks refuse, a state and operands for the
hypotheses of every statement, and single steps. -/

namespace Sys2Proof.Tests

open Sys2Proof Sys2Proof.Machine Sys2Proof.Claim

set_option maxRecDepth 100000
set_option Elab.async false

/-! ## Decoding: words written out from R129 to R146, field by field, for every instruction -/

/-- Every word of the list decodes to its instruction, of four bytes. -/
def decodesTo (l : List (BitVec 32 × Instr)) : Bool := l.all fun p => decide (decode (le32 p.1) = .ok (p.2, 4))

/-- No word of the list decodes. -/
def rejects (l : List (BitVec 32)) : Bool := l.all fun w => match decode (le32 w) with | .ok _ => false | .error _ => true

theorem test_decode_alu : decodesTo [
    (0b00000_00000_00111_00110_00101_000001_0, .add 5 6 7),
    (0b00000_00001_00111_00110_00101_000001_0, .sub 5 6 7),
    (0b00000_00010_00111_00110_00101_000001_0, .and 5 6 7),
    (0b00000_00011_00111_00110_00101_000001_0, .or 5 6 7),
    (0b00000_00100_00111_00110_00101_000001_0, .xor 5 6 7),
    (0b00000_00101_00111_00110_00101_000001_0, .andn 5 6 7),
    (0b00000_00110_00111_00110_00101_000001_0, .sll 5 6 7),
    (0b00000_00111_00111_00110_00101_000001_0, .srl 5 6 7),
    (0b00000_01000_00111_00110_00101_000001_0, .sra 5 6 7),
    (0b00000_01001_00111_00110_00101_000001_0, .slt 5 6 7),
    (0b00000_01010_00111_00110_00101_000001_0, .sltu 5 6 7),
    (0b00000_01011_00111_00110_00101_000001_0, .min 5 6 7),
    (0b00000_01100_00111_00110_00101_000001_0, .max 5 6 7),
    (0b00000_01101_00111_00110_00101_000001_0, .minu 5 6 7),
    (0b00000_01110_00111_00110_00101_000001_0, .maxu 5 6 7),
    (0b00000_01111_00000_00110_00101_000001_0, .clz 5 6),
    (0b00000_10000_00000_00110_00101_000001_0, .ctz 5 6),
    (0b00000_10001_00000_00110_00101_000001_0, .popc 5 6)] = true := by decide

theorem test_decode_immediate : decodesTo [
    (0b111111111111110_00110_00101_000010_0, .addi 5 6 0x7FFE),
    (0b111111111111110_00110_00101_000011_0, .andi 5 6 0x7FFE),
    (0b111111111111110_00110_00101_000100_0, .ori 5 6 0x7FFE),
    (0b111111111111110_00110_00101_000101_0, .xori 5 6 0x7FFE),
    (0b00_0000000_101011_00110_00101_000110_0, .slli 5 6 0x2B),
    (0b01_0000000_101011_00110_00101_000110_0, .srli 5 6 0x2B),
    (0b10_0000000_101011_00110_00101_000110_0, .srai 5 6 0x2B),
    (0b0_10000000000001_00110_00101_000111_0, .slti 5 6 0x2001),
    (0b1_10000000000001_00110_00101_000111_0, .sltiu 5 6 0x2001),
    (0b10000000000000000001_00101_001000_0, .lim 5 0x80001),
    (0b00010010001101000101_00101_001001_0, .adpc 5 0x12345)] = true := by decide

theorem test_decode_muldiv : decodesTo [
    (0b00000_00000_00111_00110_00101_001101_0, .mul 5 6 7),
    (0b00000_00001_00111_00110_00101_001101_0, .mulh 5 6 7),
    (0b00000_00010_00111_00110_00101_001101_0, .mulhu 5 6 7),
    (0b00000_00011_00111_00110_00101_001101_0, .mulhsu 5 6 7),
    (0b00000_00100_00111_00110_00101_001101_0, .div 5 6 7),
    (0b00000_00101_00111_00110_00101_001101_0, .divu 5 6 7),
    (0b00000_00110_00111_00110_00101_001101_0, .rem 5 6 7),
    (0b00000_00111_00111_00110_00101_001101_0, .remu 5 6 7)] = true := by decide

theorem test_decode_load_store : decodesTo [
    (0b111111111000_000_00110_00101_001010_0, .ldS8 5 6 0xFF8),
    (0b111111111000_001_00110_00101_001010_0, .ldZ8 5 6 0xFF8),
    (0b111111111000_010_00110_00101_001010_0, .ldS16 5 6 0xFF8),
    (0b111111111000_011_00110_00101_001010_0, .ldZ16 5 6 0xFF8),
    (0b111111111000_100_00110_00101_001010_0, .ldS32 5 6 0xFF8),
    (0b111111111000_101_00110_00101_001010_0, .ldZ32 5 6 0xFF8),
    (0b111111111000_110_00110_00101_001010_0, .ld64 5 6 0xFF8),
    (0b1000001_000_00111_00110_10010_001011_0, .st8 7 6 0x832),
    (0b1000001_001_00111_00110_10010_001011_0, .st16 7 6 0x832),
    (0b1000001_010_00111_00110_10010_001011_0, .st32 7 6 0x832),
    (0b1000001_011_00111_00110_10010_001011_0, .st64 7 6 0x832)] = true := by decide

theorem test_decode_branch_jump : decodesTo [
    (0b1000000001_00111_00110_00011_001110_0, .beq 6 7 0x4023),
    (0b1000000001_00111_00110_00011_001111_0, .bne 6 7 0x4023),
    (0b1000000001_00111_00110_00011_010000_0, .blt 6 7 0x4023),
    (0b1000000001_00111_00110_00011_010001_0, .bge 6 7 0x4023),
    (0b1000000001_00111_00110_00011_010010_0, .bltu 6 7 0x4023),
    (0b1000000001_00111_00110_00011_010011_0, .bgeu 6 7 0x4023),
    (0b11111111111111111110_00001_010100_0, .jal 1 0xFFFFE),
    (0b111111111111100_00110_00001_010101_0, .jalr 1 6 0x7FFC)] = true := by decide

theorem test_decode_fpu : decodesTo [
    (0b01101_00000_00111_00110_00101_001100_0, .fadd 3 1 5 6 7),
    (0b01101_00001_00111_00110_00101_001100_0, .fsub 3 1 5 6 7),
    (0b01101_00010_00111_00110_00101_001100_0, .fmul 3 1 5 6 7),
    (0b01101_00011_00111_00110_00101_001100_0, .fdiv 3 1 5 6 7),
    (0b01101_00100_00000_00110_00101_001100_0, .fsqrt 3 1 5 6),
    (0b01101_00101_00111_00110_00101_001100_0, .fmac 3 1 5 6 7),
    (0b01101_00110_00111_00110_00101_001100_0, .fmin 3 1 5 6 7),
    (0b01101_00111_00111_00110_00101_001100_0, .fmax 3 1 5 6 7),
    (0b01101_01000_00111_00110_00101_001100_0, .feq 3 1 5 6 7),
    (0b01101_01001_00111_00110_00101_001100_0, .flt 3 1 5 6 7),
    (0b01101_01010_00111_00110_00101_001100_0, .fle 3 1 5 6 7),
    (0b01101_01011_00000_00110_00101_001100_0, .fcls 3 1 5 6),
    (0b01101_01100_00000_00110_00101_001100_0, .fcvti 3 1 5 6),
    (0b01101_01101_00000_00110_00101_001100_0, .fcvtf 3 1 5 6),
    (0b01101_01110_00000_00110_00101_001100_0, .fcvtp 3 1 5 6),
    (0b01101_01111_00111_00110_00101_001100_0, .fsgnj 3 1 5 6 7)] = true := by decide

theorem test_decode_amo : decodesTo [
    (0b10001_10000_00111_00110_00101_010110_0, .amoswap 4 false true true 5 6 7),
    (0b10001_10001_00111_00110_00101_010110_0, .amoadd 4 false true true 5 6 7),
    (0b10001_10010_00111_00110_00101_010110_0, .amoand 4 false true true 5 6 7),
    (0b10001_10011_00111_00110_00101_010110_0, .amoor 4 false true true 5 6 7),
    (0b10001_10100_00111_00110_00101_010110_0, .amoxor 4 false true true 5 6 7),
    (0b01010_00101_00111_00110_00101_010110_0, .amomin 2 true false false 5 6 7),
    (0b01010_00110_00111_00110_00101_010110_0, .amomax 2 true false false 5 6 7),
    (0b01010_00111_00111_00110_00101_010110_0, .amominu 2 true false false 5 6 7),
    (0b01010_01000_00111_00110_00101_010110_0, .amomaxu 2 true false false 5 6 7),
    (0b01010_01001_00111_00110_00101_010110_0, .amocas 2 true false false 5 6 7)] = true := by decide

theorem test_decode_sync : decodesTo [
    (0b00011_00000_00000_00010_00001_010111_0, .fence 3 2 1),
    (0b00100_00001_00101_00110_00101_010111_0, .ldacq 4 5 5 6),
    (0b00010_00010_00111_00110_00011_010111_0, .strel 2 3 6 7),
    (0b00000_00011_00111_00110_00000_010111_0, .mwatch 6 7),
    (0b00001_00100_00000_00000_00101_010111_0, .mwait 1 5)] = true := by decide

theorem test_decode_control_word : decodesTo [
    (0b000_010000001100_00000_00101_011000_0, .cwr 0x40C 5),
    (0b001_000001100001_00110_00101_011000_0, .cww 0x061 5 6),
    (0b010_100011000010_00110_00101_011000_0, .cwset 0x8C2 5 6),
    (0b011_000000010000_00110_00101_011000_0, .cwclr 0x010 5 6)] = true := by decide

theorem test_decode_system : decodesTo [
    (0b10101_00000_00000_00000_00000_011001_0, .svc 21),
    (0b01001_00001_00000_00000_00000_011001_0, .brk 9),
    (0b00000_00010_00000_00000_00000_011001_0, .uiret),
    (0b00001_00011_00000_00000_00000_011001_0, .hint 1),
    (0b00000_00100_00000_00110_00101_011001_0, .tspawn 5 6),
    (0b00000_00101_00000_00000_00000_011001_0, .tyield),
    (0b01111_00110_00000_00000_00000_011001_0, .hbar 15),
    (0b00010_00111_00000_00000_00000_011001_0, .verflip 2),
    (0b00000_01000_00000_00000_00000_011001_0, .sret),
    (0b00000_01001_00000_00000_00000_011001_0, .wfi),
    (0b00000_01010_00000_00101_00000_011001_0, .pgate 5),
    (0b00000_01011_00110_00101_00000_011001_0, .hstart 5 6),
    (0b00000_01100_00000_00110_00000_011001_0, .hstop 6),
    (0b00011_01101_00110_00101_00000_011001_0, .tlbinv 3 5 6),
    (0b00000_01110_00000_00110_00000_011001_0, .vqsave 6),
    (0b00000_01111_00000_00110_00000_011001_0, .vqload 6),
    (0b00000_10000_00000_00110_00000_011001_0, .chsave 6),
    (0b00000_10001_00000_00110_00000_011001_0, .chload 6)] = true := by decide

theorem test_decode_ramo : decodesTo [
    (0b00000_00000_00111_00110_00101_011010_0, .ramoadd false 5 6 7),
    (0b00000_10001_00111_00110_00101_011010_0, .ramoswap true 5 6 7),
    (0b00000_00010_00111_00110_00101_011010_0, .ramocas false 5 6 7),
    (0b00000_10011_00111_00110_00101_011010_0, .ramoor true 5 6 7),
    (0b00000_00100_00111_00110_00101_011010_0, .ramomin false 5 6 7),
    (0b00000_10101_00111_00110_00101_011010_0, .ramomax true 5 6 7)] = true := by decide

theorem test_decode_strip : decodesTo [
    (0b11011_00000_00000_00110_00101_100000_0, .vsetl true 2 3 5 6),
    (0b00000_00001_00000_00000_00101_100000_0, .vgrant 5)] = true := by decide

theorem test_decode_vector_float : decodesTo [
    (0b0000_011_010_01011_01010_01001_100001_0, .vfadd 3 2 9 10 11),
    (0b0001_011_010_01011_01010_01001_100001_0, .vfsub 3 2 9 10 11),
    (0b0010_011_010_01011_01010_01001_100001_0, .vfmul 3 2 9 10 11),
    (0b0011_011_010_01011_01010_01001_100001_0, .vfma 3 2 9 10 11),
    (0b0100_011_010_01011_01010_01001_100001_0, .vfnma 3 2 9 10 11),
    (0b0101_011_010_01011_01010_01001_100001_0, .vfmin 3 2 9 10 11),
    (0b0110_011_010_01011_01010_01001_100001_0, .vfmax 3 2 9 10 11),
    (0b0111_011_010_01011_01010_01001_100001_0, .vfdiv 3 2 9 10 11),
    (0b1000_011_010_00000_01010_01001_100001_0, .vfsqrt 3 2 9 10),
    (0b1001_011_010_00000_01010_01001_100001_0, .vfrsq 3 2 9 10),
    (0b1010_011_010_01011_01010_01001_100001_0, .vfuq 3 2 9 10 11),
    (0b1011_011_010_00000_01010_01001_100001_0, .vfabs 3 2 9 10),
    (0b1100_011_010_00000_01010_01001_100001_0, .vfneg 3 2 9 10),
    (0b1101_011_010_01011_01010_01001_100001_0, .vfsgn 3 2 9 10 11),
    (0b1110_011_010_01011_01010_01001_100001_0, .vfscale 3 2 9 10 11)] = true := by decide

theorem test_decode_vector_float_other : decodesTo [
    (0b0000_011_010_01011_01010_00110_100010_0, .vfeq 3 2 6 10 11),
    (0b0001_011_010_01011_01010_00110_100010_0, .vflt 3 2 6 10 11),
    (0b0010_011_010_01011_01010_00110_100010_0, .vfle 3 2 6 10 11),
    (0b0011_011_010_00000_01010_01001_100010_0, .vfcls 3 2 9 10),
    (0b0100_011_010_00000_01010_01001_100010_0, .vfcvt 3 2 9 10),
    (0b0101_011_010_00000_01010_01001_100010_0, .vfcvti 3 2 9 10),
    (0b0110_011_010_00000_01010_01001_100010_0, .vficvt 3 2 9 10),
    (0b0111_011_010_00000_01010_01001_100010_0, .vsig 3 2 9 10),
    (0b1000_011_010_00000_00000_01001_100010_0, .vrand 3 2 9)] = true := by decide

theorem test_decode_vector_integer : decodesTo [
    (0b0000_001_111_01011_01010_01001_100011_0, .vadd 1 7 9 10 11),
    (0b0001_001_111_01011_01010_01001_100011_0, .vsub 1 7 9 10 11),
    (0b0010_001_111_01011_01010_01001_100011_0, .vmul 1 7 9 10 11),
    (0b0011_001_111_01011_01010_01001_100011_0, .vmulh 1 7 9 10 11),
    (0b0100_001_111_01011_01010_01001_100011_0, .vmin 1 7 9 10 11),
    (0b0101_001_111_01011_01010_01001_100011_0, .vmax 1 7 9 10 11),
    (0b0110_001_111_01011_01010_01001_100011_0, .vand 1 7 9 10 11),
    (0b0111_001_111_01011_01010_01001_100011_0, .vor 1 7 9 10 11),
    (0b1000_001_111_01011_01010_01001_100011_0, .vxor 1 7 9 10 11),
    (0b1001_001_111_01011_01010_01001_100011_0, .vsll 1 7 9 10 11),
    (0b1010_001_111_01011_01010_01001_100011_0, .vsrl 1 7 9 10 11),
    (0b1011_001_111_01011_01010_01001_100011_0, .vsra 1 7 9 10 11),
    (0b1100_001_111_01011_01010_01001_100011_0, .vadds 1 7 9 10 11),
    (0b1101_001_111_01011_01010_01001_100011_0, .vsubs 1 7 9 10 11),
    (0b1110_001_111_01011_01010_01001_100011_0, .vabsd 1 7 9 10 11)] = true := by decide

theorem test_decode_vector_integer_other : decodesTo [
    (0b0000_001_111_01011_01010_00110_100100_0, .vseq 1 7 6 10 11),
    (0b0001_001_111_01011_01010_00110_100100_0, .vsne 1 7 6 10 11),
    (0b0010_001_111_01011_01010_00110_100100_0, .vslt 1 7 6 10 11),
    (0b0011_001_111_01011_01010_00110_100100_0, .vsltu 1 7 6 10 11),
    (0b0100_001_111_01011_01010_01001_100100_0, .vsel 1 7 9 10 11),
    (0b0101_001_111_00000_01010_01001_100100_0, .vmv 1 7 9 10),
    (0b0110_001_111_00000_01010_01001_100100_0, .vbcast 1 7 9 10),
    (0b0111_001_111_00000_00000_01001_100100_0, .vidx 1 7 9)] = true := by decide

theorem test_decode_vector_widening : decodesTo [
    (0b0000_000_100_01011_01010_01001_100101_0, .vwma 0 4 9 10 11),
    (0b0001_000_100_01011_01010_01001_100101_0, .vwmul 0 4 9 10 11),
    (0b0010_000_100_01011_01010_01001_100101_0, .vwadd 0 4 9 10 11),
    (0b0011_000_100_01011_01010_01001_100101_0, .vdot4 0 4 9 10 11)] = true := by decide

theorem test_decode_vector_cross : decodesTo [
    (0b0000_000_100_00011_01010_01001_100110_0, .vred 0 4 3 9 10),
    (0b0001_000_100_01011_01010_01001_100110_0, .vperm 0 4 9 10 11),
    (0b0010_000_100_01011_01010_01001_100110_0, .vslup 0 4 9 10 11),
    (0b0011_000_100_01011_01010_01001_100110_0, .vsldn 0 4 9 10 11),
    (0b0100_001_100_00000_01010_01001_100110_0, .vcompress 1 4 9 10),
    (0b0101_001_100_00000_01010_01001_100110_0, .vexpand 1 4 9 10),
    (0b0110_000_100_00000_00000_11000_100110_0, .vxpose8 0 4 24),
    (0b0111_000_100_00010_01010_01001_100110_0, .vscan 0 4 2 9 10)] = true := by decide

theorem test_decode_mask : decodesTo [
    (0b0000_000_000_00111_00110_00101_100111_0, .mand 5 6 7),
    (0b0001_000_000_00111_00110_00101_100111_0, .mor 5 6 7),
    (0b0010_000_000_00111_00110_00101_100111_0, .mxor 5 6 7),
    (0b0011_000_000_00000_00110_00101_100111_0, .mnot 5 6),
    (0b0100_010_000_00000_00110_01001_100111_0, .mpop 2 9 6),
    (0b0101_010_000_00000_00110_01001_100111_0, .mffs 2 9 6),
    (0b0110_000_000_00000_00000_00101_100111_0, .mfromvl 5),
    (0b0111_000_000_01011_00110_01001_100111_0, .mmvx 9 6 11)] = true := by decide

theorem test_decode_vector_load : decodesTo [
    (0b010_10_00_001_00000_01010_00011_101000_0, .vld 2 true 1 3 10),
    (0b000_00_01_001_01011_01010_01001_101000_0, .vlds 0 false 1 9 10 11),
    (0b001_00_10_001_01011_01010_01001_101000_0, .vldx 1 false 1 9 10 11),
    (0b011_00_11_001_01011_01010_01001_101000_0, .vldxO 3 false 1 9 10 11),
    (0b011_01_00_001_00000_01010_01001_101000_0, .vldFf 3 1 9 10)] = true := by decide

theorem test_decode_vector_store : decodesTo [
    (0b010_00_00_001_00000_01010_01001_101001_0, .vst 2 1 9 10),
    (0b000_00_01_001_01011_01010_01001_101001_0, .vsts 0 1 9 10 11),
    (0b001_00_10_001_01011_01010_01001_101001_0, .vstx 1 1 9 10 11),
    (0b011_00_11_001_01011_01010_01001_101001_0, .vstxO 3 1 9 10 11),
    (0b011_01_00_001_00000_01010_01001_101001_0, .vstN 3 1 9 10)] = true := by decide

theorem test_decode_vector_atomic : decodesTo [
    (0b010_00_00_101_01011_01010_01001_101010_0, .vamoadd 2 5 9 10 11),
    (0b010_00_01_101_01011_01010_01001_101010_0, .vamomin 2 5 9 10 11),
    (0b010_00_10_101_01011_01010_01001_101010_0, .vamomax 2 5 9 10 11),
    (0b010_00_11_101_01011_01010_01001_101010_0, .vamoor 2 5 9 10 11),
    (0b010_01_00_101_01011_01010_01001_101010_0, .vamoand 2 5 9 10 11),
    (0b010_01_01_101_01011_01010_01001_101010_0, .vamoxor 2 5 9 10 11)] = true := by decide

theorem test_decode_vector_move : decodesTo [
    (0b00000_00000_00111_00110_00101_101011_0, .vmvx 5 6 7),
    (0b00000_00001_00111_00110_00101_101011_0, .vmvv 5 6 7),
    (0b00000_00010_00000_00000_00000_101011_0, .scommit)] = true := by decide

theorem test_decode_copy_barrier : decodesTo [
    (0b00110_00000_00000_00110_00000_101100_0, .cpdecl 6 6),
    (0b01101_00001_11110_00110_00101_101100_0, .cpcopy true 5 5 6 30),
    (0b00011_00010_00000_00110_00101_101100_0, .cpstat 3 5 6),
    (0b11111_00011_00000_00000_00000_101100_0, .sbinit 31),
    (0b10001_00100_00000_00110_00000_101100_0, .sbexpect 17 6),
    (0b10001_00101_00000_00110_00101_101100_0, .sbwait 17 5 6),
    (0b11110_00110_00000_00000_00000_101100_0, .sbcancel 30)] = true := by decide

theorem test_decode_endpoint : decodesTo [
    (0b00000_00000_00111_00110_00000_101101_0, .epush 6 7),
    (0b00000_00001_00000_00110_00101_101101_0, .epop 5 6),
    (0b00000_00010_00000_00110_00101_101101_0, .eprobe 5 6)] = true := by decide

theorem test_decode_gathering : decodesTo [
    (0b00000_00000_00000_00000_00000_101110_0, .ginit),
    (0b00101_00001_00111_00110_00101_101110_0, .gunite 5 5 6 7),
    (0b00101_00010_00000_00110_00101_101110_0, .gfind 5 5 6),
    (0b10101_00011_00111_00110_00101_101110_0, .grelabel true false 5 5 6 7),
    (0b00000_00100_00000_00110_00101_101110_0, .gsize 5 6),
    (0b00000_00101_00000_00000_00101_101110_0, .gsnap 5),
    (0b00000_00110_00000_00000_00000_101110_0, .gundo),
    (0b00000_00111_00000_00000_00000_101110_0, .gdrop)] = true := by decide

theorem test_decode_spine_training : decodesTo [
    (0b00000_00000_00000_00110_00000_101111_0, .chain 6),
    (0b00000_00001_00000_00000_00000_101111_0, .chret),
    (0b00101_00010_00000_00000_00101_101111_0, .chstat 5 5),
    (0b00000_00011_00000_00000_00000_101111_0, .chabort),
    (0b00000_00000_00000_00110_00101_110000_0, .lsupd 5 6),
    (0b00000_00001_00000_00110_00000_110000_0, .lsacc 6),
    (0b00000_00010_00000_00110_01111_110000_0, .cbload 15 6)] = true := by decide

theorem test_decode_compressed : ([
    (0b1000001_101_0000_01, .cAddi 0x41 5),
    (0b1111111_010_0001_01, .cLi 0x7F 2),
    (0b0000_110_101_0010_01, .cMv 6 5),
    (0b0000_110_101_0011_01, .cAdd 6 5),
    (0b0000_110_101_0100_01, .cSub 6 5),
    (0b1001_110_101_0101_01, .cLd 9 6 5),
    (0b1001_110_101_0110_01, .cSt 9 6 5),
    (0b1000011_110_0111_01, .cBeqz 0x43 6),
    (0b1000011_110_1000_01, .cBnez 0x43 6),
    (0b1111111110_1001_01, .cJ 0x3FE),
    (0b00000_10001_1010_01, .cJr 17),
    (0b0000000000_1011_01, .cNop)] : List (BitVec 16 × Instr)).all
    (fun p => decide (decode (le16 p.1) = .ok (p.2, 2))) = true := by decide

theorem test_decode_tile : ([
    (0b00000_00110_00101_00000_0_0000_00000_11,
      0b00000000000000000000_0000_00_00_0_000, .mshape 5 6),
    (0b00000_00110_00101_11000_1_0000_00001_11,
      0b00000000000000000000_0000_00_00_0_000, .mldb 1 24 5 6),
    (0b00111_00110_00101_11000_1_0000_00010_11,
      0b00000000000000000000_0000_00_00_0_000, .mldbx 1 24 5 6 7),
    (0b00000_00110_00101_11000_1_1011_00011_11,
      0b00000000000000000000_0000_00_01_1_100, .mmulO 11 1 24 true 5 6 4),
    (0b00000_00000_00101_11000_0_0010_00011_11,
      0b00000000000000000000_0000_00_00_0_100, .mmulF 2 0 24 false 5 0 4),
    (0b00000_00000_00000_00000_0_0100_00100_11,
      0b00000000000000000000_0111_00_00_0_000, .mzero 4 7),
    (0b00000_00110_00101_11001_0_0011_00101_11,
      0b00000000000000000000_0000_00_00_0_010, .mrd 3 25 5 6 2),
    (0b00000_00110_00101_11001_0_0011_00110_11,
      0b00000000000000000000_0000_00_00_0_010, .mwr 3 25 5 6 2),
    (0b00000_00110_00101_11001_0_0011_00111_11,
      0b00000000000000000000_0000_00_00_0_010, .mst 3 25 5 6 2),
    (0b00000_00000_00101_00000_0_0011_01000_11,
      0b00000000000000000000_0000_00_00_0_000, .msig 3 5),
    (0b00000_00000_00101_00000_0_0011_01001_11,
      0b00000000000000000000_0000_00_00_0_010, .mscl 3 5 2)] : List (BitVec 32 × BitVec 32 × Instr)).all
    (fun p => decide (decode (le32 p.1 ++ le32 p.2.1) = .ok (p.2.2, 8))) = true := by decide

/-- R131: all-zero word, major 0x00, reserved major, no entry of the grid, mod of ALU, b of clz, selector 3, imm15[12:6], w 7, w 4, precision 2, rounding 5, scope 5, AMO code 10, fence a[4:2], f 4, unassigned word, 0xC00, hbar 16, verflip 8, m8, vxpose8 v25, vsel m0, ew 4, q4, .ff strided, channel 7, cpcopy b 31, chstat 6, cb16, scommit d do not decode. -/
theorem test_decode_rejects_1 : rejects [
    0b00000000000000000000000000000000,
    0b00000_00000_00000_00000_00000_011011_0,
    0b00000_10010_00111_00110_00101_000001_0,
    0b00001_00000_00111_00110_00101_000001_0,
    0b00000_01111_00111_00110_00101_000001_0,
    0b11_0000000_000001_00110_00101_000110_0,
    0b00_0000001_000001_00110_00101_000110_0,
    0b000000000000_111_00110_00101_001010_0,
    0b0000000_100_00111_00110_00000_001011_0,
    0b00010_00000_00111_00110_00101_001100_0,
    0b10100_00000_00111_00110_00101_001100_0,
    0b10100_00000_00111_00110_00101_010110_0,
    0b00000_01010_00111_00110_00101_010110_0,
    0b00011_00000_00000_00100_00001_010111_0,
    0b100_000000010000_00000_00101_011000_0] = true := by decide

/-- The second part of the list above. -/
theorem test_decode_rejects_2 : rejects [
    0b000_000000000001_00000_00101_011000_0,
    0b000_110000000000_00000_00101_011000_0,
    0b10000_00110_00000_00000_00000_011001_0,
    0b01000_00111_00000_00000_00000_011001_0,
    0b0000_000_000_01011_01010_01000_100010_0,
    0b0110_000_100_00000_00000_11001_100110_0,
    0b0100_000_111_01011_01010_01001_100100_0,
    0b100_00_00_000_00000_01010_01001_101000_0,
    0b010_10_00_000_00000_01010_00100_101000_0,
    0b010_01_01_000_01011_01010_01001_101000_0,
    0b00111_00000_00000_00110_00000_101100_0,
    0b00101_00001_11111_00110_00101_101100_0,
    0b00110_00010_00000_00000_00101_101111_0,
    0b00000_00010_00000_00110_10000_110000_0,
    0b00000_00010_00000_00000_00001_101011_0] = true := by decide

theorem test_decode_rejects_compressed : ([
    0b0001_110_101_0010_01,
    0b00000_00000_1010_01,
    0b0000000001_1011_01,
    0b0000000000_1100_01] : List (BitVec 16)).all
    (fun w => match decode (le16 w) with | .ok _ => false | .error _ => true) = true := by decide

theorem test_decode_rejects_tile : ([
    (0b00000_00000_00000_00000_0_0000_01010_11, 0b00000000000000000000_0000_00_00_0_000),
    (0b00000_00000_00000_00000_0_0101_00100_11, 0b00000000000000000000_0111_00_00_0_000),
    (0b00000_00110_00101_00000_0_1100_00101_11, 0b00000000000000000000_0000_00_00_0_000),
    (0b00000_00110_00101_00000_0_0000_00011_11, 0b00000000000000000000_0000_00_00_0_100),
    (0b00000_00000_00101_00000_0_0000_00011_11, 0b00000000000000000000_0000_00_10_0_000),
    (0b00000_00110_00101_00000_0_0001_00000_11, 0b00000000000000000000_0000_00_00_0_000)] : List (BitVec 32 × BitVec 32)).all
    (fun p => match decode (le32 p.1 ++ le32 p.2) with | .ok _ => false | .error _ => true) = true := by decide

/-! ## An ill-formed term for each check of `Instr.wf` and `Instr.inputOk` is refused -/

theorem test_wf_refuses :
    ([.fadd 5 0 1 2 3, .fadd 0 2 1 2 3, .fsqrt 0 3 1 2, .fcls 7 0 1 2, .amoadd 5 true false false 1 2 3, .fence 6 0 0, .strel 5 0 1 2,
      .mwait 7 1, .ldacq 0 7 1 2, .ldacq 5 0 1 2, .tlbinv 4 1 2, .cwr 0x001 1, .cww 0x017 1 2, .cwset 0x40E 1 2, .cwclr 0x8C3 1 2,
      .vsel 0 0 1 2 3, .vxpose8 0 0 25, .vxpose8 1 0 24, .vld 0 true 0 4 1, .vlds 0 true 0 4 1 2, .vldx 0 true 0 5 1 2, .vldxO 0 true 0 31 1 2,
      .cpdecl 7 1, .cpstat 7 1 2, .cpcopy true 7 1 2 3, .cpcopy true 0 1 2 31, .chstat 6 1, .cJr 0, .mmulO 12 0 0 true 0 0 0,
      .mmulF 0 0 0 false 0 1 0, .mzero 11 1, .mrd 12 0 0 0 1, .msig 12 0, .mscl 12 0 0] : List Instr).all (fun i => !i.wf) = true := by
  decide

theorem test_inputOk_refuses :
    ([(.wfiWake, { hart := 3072 }), (.rampStep, { core := 768 }), (.tableWalk, { die := 20 }), (.partitionDissolve, { slot := 64 }),
      (.queueEnable, { queue := 16 }), (.bucketStart, { die := 6 }), (.copyLanding, { queue := 7 }), (.portDown, { index := 32 }),
      (.gatherBaseWrite, { cw := 0x034 }), (.controlWordWrite, { cw := 0x001 }), (.attestationRequest, { bytesA := [0] })]
      : List (Instr × EventInput)).all (fun p => !p.1.inputOk p.2) = true := by
  decide


/-! ## Small states -/

/-- x registers with some values. -/
def regs (l : List (Nat × W64)) : Vector W64 32 := l.foldl (fun v p => v.setIfInBounds p.1 p.2) (Vector.replicate 32 0)

/-- A hart that runs at user, supervisor or firmware privilege. -/
def usr (l : List (Nat × W64)) : Hart := { mode := .running, pc := 0x3000, x := regs l }
def sup (l : List (Nat × W64)) : Hart := { usr l with priv := .sup }
def fwh (l : List (Nat × W64)) : Hart := { usr l with priv := .fw }

/-- A partition with cores 0 and 1, segment 0 and FIFO 0 of die 0. -/
def rec0 : PartRec := { id := 1, key := 7, segs := 1, cores := 3, fifos := 1, hold := 4096, wtab := 0x2000, qent := 0x0800000000000000, pspad := 1, pmsc := 1 }
def part0 : Part := { record := rec0 }

/-- Bytes of memory: an address space record at 0, a fabric window entry at 0x2000, `sret` at 0x3100, an `addi` at 0x3180, a resume header at 0x5000, a task
descriptor at 0x6000, a stream declaration at 0x7800, a working-set table at 0x7C00, a queue descriptor at 0x7F00, a chain descriptor
at 0x8000, a Collator ring and bucket list at 0xC000 and 0xC100, a chain frame at 0xD000, a table at 0x10000 that maps the first 2^42
addresses to themselves, a partition record at 0x18200, and a context block at 0x100000 (R122, R124, R246, R256, R271, R301, R307, R314,
R332, R334, R348, R353). -/
def mem0 : Memory :=
  [(2, 1), (8, 1), (0x2000, 5), (0x2002, 1), (0x3100, 0x32), (0x3103, 2), (0x3180, 0x84), (0x3181, 0x53),
   (0x5008, 8), (0x5010, 1),   (0x6010, 1), (0x6015, 0x10), (0x6016, 1), (0x6018, 1)]
  ++ [(0x7801, 0x90), (0x7808, 4), (0x7810, 0xE8), (0x7811, 3), (0x781C, 0xF0), (0x7820, 0x40), (0x7824, 0x34), (0x7825, 28),
   (0x7C01, 0x50), (0x7C08, 65), (0x7C0C, 1), (0x7C0E, 1), (0x7C81, 0x50), (0x7C88, 65), (0x7F01, 0x16), (0x7F20, 1)]
  ++ [(0x8001, 1), (0x8009, 2), (0x8011, 0x90), (0x8018, 64), (0x8020, 1), (0x8024, 64), (0x8029, 0xA0),
   (0xC004, 0xF1), (0xC009, 0x10), (0xC00C, 0xF1), (0xC012, 0x40), (0xC014, 0xF1), (0xC019, 0x10), (0xC01A, 0x40), (0xC01C, 0xF1)]
  ++ [(0xC108, 1), (0xC10C, 10), (0xD001, 0x80), (0x10000, 0x1F), (0x18200, 2), (0x18208, 9), (0x18224, 1), (0x100000, 1)]

/-- The part after boot, with hart 0 as given and the partition in slot 0. -/
def sys (h : Hart) : State :=
  { boot := { stage := .started }, harts := [(0, h)], parts := [(0, part0)], mem := mem0, fw := { fnode := 9 } }
def sysP (h : Hart) (p : Part) : State := { sys h with parts := [(0, p)] }
def sysC (h : Hart) (c : Core) : State := { sys h with cores := [(0, c)] }
def sysF (h : Hart) : State := { sys h with fw := { fptab := 0x18000 } }
def sysD (h : Hart) (x : Fifo) : State := { sys h with dies := [(0, { fifos := (Vector.replicate 16 {}).set 0 x })] }
/-- Hart 3 moves beside hart 0. -/
def two (h g : Hart) : State := { sys h with harts := [(0, h), (3, g)], cur := 3 }
def ev (s : State) (a : EventInput) : State := { s with input := a }

/-- Queue 0 turned on, and a hart with a task descriptor's address in x5. -/
def queueOn : TaskQueue := { cap := 2, cset := 3 }
def sysQ (q : TaskQueue) : State := sysP (usr [(5, 0x6000)]) { part0 with queues := [(0, q)], sqctl := 1 }
def sys0 (p : Part) : State := sysP (usr [(5, 0x6000)]) p
def descBytes : List Byte := mem0.bytes 0x6000 128
def task0 : TaskDesc := { gang := 1, min := 1, pref := 1, part := 1 }
def doorbell : RemoteReq :=
  { key := 7, source := 1, hart := 2, tag := 3, seq := 4, retry := false, op := .atomic .swap, addr := 0x4000000000000, width := 8
    data := 0x6000, cmp := 0 }
def stagingR : Reservation := { task := { task0 with nws := 1, wstab := 0x7C00 }, staged := [64] }
def stagingS : State := sys { resv := some stagingR }
def yieldS (m : Mode) : State :=
  { sys {} with harts := [(0, { usr [] with mode := m }), (3, { resv := some { task := task0 } })] }

/-- Queue entries: a fault at the largest index, an addition of 16 words, and its second group. -/
def qf : QEntry :=
  { instr := .vadd 0 0 1 2 3, addr := 0x2FF0, seq := 0
    fault := some { cause := 0x03, val := 8, vf := true, idx := 1099511627775 } }
def qv : QEntry := { instr := .vadd 0 0 1 2 3, addr := 0x2FF0, seq := 0, vl := 16, g := 0, ew := 2 }
def groupE : QEntry := { qv with fw := 0xAAA, k := 8, dispatched := true }
def groupS : State := sys { usr [] with uw := { grant := 0x801 }, vq := [groupE] }

/-- Copies and a stream. -/
def sp0 : Space := { slot := some 0 }
def copy0 : Copy := { dst := 0, src := 0, ctl := 0x800000000040, stamp := 0, seq := 1, ord := false }
def copy1 : Copy := { copy0 with dst := 0x9000, src := 0x5000, ctl := 0x800000000064, vstart := 0x10, space := sp0 }
def chan6 (c : Copy) : Vector Channel 7 := (Vector.replicate 7 {}).set 6 { copies := [c] }
def copyS : State := ev (sys { usr [] with ch := chan6 copy1 }) { queue := 6, landing := .copy 0 41 0 }
def copyD : State := ev (sys { usr [] with ch := chan6 { copy1 with vstart := 100 } }) { queue := 6 }
def streamS : State := sys (fwh [(5, 0x7800)])

/-- A Collator command of two members and one bucket. -/
def cmd0 : ColCmd :=
  ⟨0x7A00, [1, 4, 2, 0, 1, 0, 0, 0] ++ toLE 8 0xC000 ++ toLE 8 0xC100 ++ List.replicate 40 0, 0, 0, 4, sp0, []⟩
def run0 : ColRun :=
  { cmd := cmd0, ring := [(0xF100000000, 0xF100001000), (0xF100400000, 0xF100401000)], buckets := [(0, 1, 10, 0)] }
def bucketS : State :=
  { sysD (fwh []) { run := some run0 } with
    cores := [(0, { spad := [(0, 1), (0x1000, 1)] }), (1, { spad := [(0, 0xFF), (1, 0xFF), (2, 0xFF), (3, 0xFF), (0x1000, 1)] })] }
/-- A forest of two entries of which number 1 is a root. -/
def forestS : State :=
  { sys { usr [(5, 1)] with marks := [7], uw := { gforest := 0xF000000040, gcount := 2, gseq := 7 } } with
    cores := [(0, { spad := [(0x4C, 1), (0x4F, 0x80)] })] }

/-- Chain frames. -/
def desc0 : ChainDesc := { step := 0x100, adj := 0x200, win := 0x9000, wlen := 64, n := 1, s := 64, marks := 0xA000 }
def frame0 : Frame := { desc := 0x8000, d := desc0, space := sp0, sched := Sched.start 1 64 }
def frame1 : Frame := { frame0 with sched := { todo := [.advs 0 2] } }
def sched2 : Sched := { todo := [.advs 1 1], live := 1 }
def chainS (l : List Frame) : State := sys { fwh [(5, 0x8000)] with frames := l }
def spineF (p : Sched) : Frame := { frame0 with sched := p }
def spineS (p : Sched) : State := sys { usr [] with frames := [spineF p] }
def loadS : State := sys { fwh [(5, 0xD000)] with frames := [frame0] }
def loadedFrames : List Frame := match framesOf loadS 0 1 (wordsOf 40 (mem0.bytes 0xD000 320)) with
  | .ok l => l
  | .error _ => []

def request0 : Request :=
  { id := 3, hart := 0, node := 5, addr := 0, key := 7, port := 0, store := false, dev := false, priv := .user, va := 0, msg := .load 3 5 0 8 7 }

/-- A posted store, and as many requests of core 0 as it has slots for (R12). -/
def store0 : Request := { request0 with store := true, msg := .store 3 5 0 [1] 7 }
def fullS (h : Hart) : State := { sys h with fab := { requests := List.replicate 3072 request0 } }

/-- A vector unit whose oldest entry has been dispatched: two elements of 32 bits at a scratchpad address. -/
def vecE (i : Instr) : QEntry := { instr := i, addr := 0x2FF0, seq := 0, vl := 2, g := 0, ew := 2, dispatched := true, space := sp0 }
def vecH (e : QEntry) : Hart := { usr [] with uw := { grant := 0x801 }, vq := [e] }
def vecS (e : QEntry) : State := sys (vecH e)
def memE (i : Instr) : QEntry := { vecE i with o1 := 0xF000000040 }
/-- A matrix unit whose oldest instruction has been dispatched: tiles of one row and two columns. -/
def matE (i : Instr) : QEntry := { vecE i with sm := 1, sn := 2, sk := 2, o1 := 0xF000000040, o2 := 64 }
def matS (e : QEntry) : State := sysC { usr [] with uw := { grant := 0x801 }, mq := [e] } { owner := some 0 }

/-- A load queue bound and without a consumer. -/
def openQ : Vector LoadQueue 4 := (Vector.replicate 4 {}).set 3 { w := 2, bound := true }
/-- A state like another with a poison mark on x5. -/
def markX5 (h : Hart) : Hart := { h with sram := [(.x 5, 2)] }

/-- The machine behind the release and the reads of a `tspawn` whose descriptor is at the address in x5. -/
def spawnR (s : State) : State := homeRange (release s s.cur 3) s.cur (spaceOf s s.cur) (s.rx 5) 128

/-- The state that a part of a Collator command leaves. -/
def left {α : Type} (s : State) (r : Except Halt (State × α)) : State := match r with
  | .ok (t, _) => t
  | .error _ => s
def valueOf {α : Type} (r : Except Halt (State × α)) : Option α := match r with
  | .ok (_, v) => some v
  | .error _ => none
theorem ok_left {α : Type} (s : State) (r : Except Halt (State × α)) (v : α) (h : valueOf r = some v) : r = .ok (left s r, v) := by
  rcases r with _ | ⟨t, w⟩
  · cases h
  · cases h; rfl
def startS : State := sysD (fwh []) { cmds := [cmd0] }
def bucketS1 : State := left bucketS (bucketReady bucketS run0 0)
def bucketS2 : State := left bucketS1 (memberRead bucketS1 cmd0 0 0xF100400000 4 (elemIx 1 0))
def bucketS3 : State := left bucketS2 (memberRead bucketS2 cmd0 0 0xF100000000 4 (elemIx 0 0))

/-- A vector unit whose oldest entry has been dispatched, with 1 in element 0 of v3, and a forest of three entries at a scratchpad address: its
bytes, and the sequence number that is also the one open mark. -/
def gatherH (e : QEntry) (q : Nat) : Hart :=
  { vecH e with
    v := (Vector.replicate 32 0).set 3 1, marks := [q]
    uw := { grant := 0x801, gforest := 0xF000000040, gcount := 3, glog := 0xF000000080, glogend := 0xF000000090, gseq := BitVec.ofNat 64 q } }
def gatherS (e : QEntry) (q : Nat) (b : Memory) : State := { sys (gatherH e q) with cores := [(0, { spad := b })] }
def gatE (i : Instr) : QEntry := { memE i with vl := 1 }
/-- Three roots; a link to a link to a root; and a link with its log entry. -/
def rootsB : Memory := [(0x44, 1), (0x47, 0x80), (0x48, 1), (0x4C, 1), (0x4F, 0x80), (0x50, 2), (0x54, 1), (0x57, 0x80)]
def linksB : Memory := [(0x40, 1), (0x44, 1), (0x48, 2), (0x4C, 2), (0x50, 2), (0x54, 3), (0x57, 0x80)]
def loggedB : Memory := [(0x40, 1), (0x44, 8), (0x48, 1), (0x4C, 2), (0x4F, 0x80), (0x84, 1), (0x88, 1), (0x8C, 8)]

def writtenU (r : Except Halt State) : State := match r with
  | .ok t => t
  | .error _ => {}
def wrote (r : Except Halt State) : Bool := match r with
  | .ok _ => true
  | .error _ => false
theorem ok_written (r : Except Halt State) (h : wrote r = true) : r = .ok (writtenU r) := by
  cases r
  · cases h
  · rfl
def bucketU0 : State := writtenU (memberWrite bucketS3 cmd0 0 0xF100000000 4 (writeIx 0 0) 0)
def bucketU1 : State := writtenU (memberWrite bucketU0 cmd0 0 0xF100400000 4 (writeIx 1 0) 0)
def bucketW0 : State := writtenU (memberWrite bucketU1 cmd0 0 0xF100001000 8 (clearIx 0) 0)
def bucketW1 : State := writtenU (memberWrite bucketW0 cmd0 0 0xF100401000 8 (clearIx 1) 0)

/-! ## Bytes of a context block -/

theorem bytes_append (m : Memory) : ∀ (k a n : Nat), m.bytes a (k + n) = m.bytes a k ++ m.bytes (a + k) n
  | 0, a, n => by simp [Memory.bytes]
  | k + 1, a, n => by
    rw [Nat.add_right_comm, Memory.bytes, Memory.bytes, bytes_append m k, List.cons_append, Nat.add_assoc a 1 k, Nat.add_comm 1 k]

theorem bytes_zero {m : Memory} {a : Nat} (h : ∀ b, a ≤ b → m.read b = 0) : ∀ n, m.bytes a n = List.replicate n 0
  | 0 => rfl
  | n + 1 => by rw [Memory.bytes, h a (Nat.le_refl _), bytes_zero fun b g => h b (by omega), List.replicate_succ]

theorem read_above {a : Nat} : ∀ {m : Memory}, (∀ e ∈ m, e.1 < a) → m.read a = 0
  | [], _ => rfl
  | (b, _) :: r, h => by
    have := h _ (List.mem_cons_self ..)
    rw [Memory.read, kget, if_neg (by simp at this; omega)]
    exact read_above fun e g => h e (List.mem_cons_of_mem _ g)

theorem mem0_tail (b : Nat) (h : 0x100001 ≤ b) : mem0.read b = 0 :=
  read_above fun e g => Nat.lt_of_lt_of_le ((by decide : ∀ e ∈ mem0, e.1 < 0x100001) e g) h

/-- With no line in any cache nothing is evicted. -/
theorem homeRange_idle {s : State} (hc : s.cores = []) (hd : s.dies = []) (i : Nat) (sp : Space) (va : W64) (n : Nat) :
    homeRange s i sp va n = s := by
  have hr : ∀ d o la, recallL1 s d o la = s := by intro d o la; simp [recallL1, l1Holders, hc]
  have ht : ∀ d l, toHome s d l = s := by
    intro d l
    cases l <;> simp [toHome, evictLine, hr, State.die, hd, kget, findLine]
  suffices ∀ fuel va n, homeLines s i sp va n fuel = s from this ..
  intro fuel
  induction fuel with
  | zero => intros; rfl
  | succ k ih =>
    intro va n
    rw [homeLines]
    split
    · rfl
    · split <;> simp only [ht, ih]

/-- With no line in any cache an engine of die 0 reads die 0's memory as it stands, and no poison where none is marked. -/
theorem engineBytes_idle {s : State} (hc : s.cores = []) :
    ∀ n pa, pa + n ≤ 0x200000 → engineBytes s 0 pa n = s.mem.bytes pa n
  | 0, _, _ => rfl
  | n + 1, pa, h => by
    have : homeDie pa = 0 := by simp [homeDie, segmentOf]; omega
    rw [engineBytes, engineBytes_idle hc n (pa + 1) (by omega), Memory.bytes]
    simp [engineByte, l1Holders, hc, this]

theorem enginePoison_idle {s : State} (hc : s.cores = []) (hd : s.dies = []) (hq : s.poison = []) (d pa n : Nat) :
    enginePoison s d (.mem pa) n = none := by
  simp [enginePoison, l1Holders, hc, State.die, hd, kget, findLine, segPoison, hq, List.findSome?_eq_none_iff]

/-- Firmware reads die 0's memory as it stands. -/
theorem firmware_reads {s : State} {i : Nat} {sp : Space} (hp : sp.priv = .fw) (hc : s.cores = []) (hl : s.dies = [])
    (hq : s.poison = []) (hd : dieOf i = 0) :
    ∀ (fuel : Nat) (va : W64) (n : Nat), va.toNat + n ≤ 0x200000 → (va.toNat % 64 = 0 ∨ n = 0) → n ≤ 64 * fuel →
      readLines s i sp false va n fuel = .ok (s.mem.bytes va.toNat n)
  | 0, va, n, _, _, h => by obtain rfl : n = 0 := by omega
                            rfl
  | fuel + 1, va, n, h, ha, hf => by
    rw [readLines]
    split
    · subst n; rfl
    · have hk : lineStep va n = min n 64 := by unfold lineStep; omega
      have hv : va.toNat < 0x200000 := by omega
      have hx : locate s i sp false .load va = .ok ⟨.mem va.toNat, false⟩ := by
        have : localMem va.toNat = true := by
          rw [localMem, show segmentOf va.toNat = 0 by unfold segmentOf; omega, show va.toNat % 2 ^ 38 = va.toNat by omega]
          simp; left; omega
        simp only [locate, hp, physPlace, if_true]
        rw [if_neg (by omega), if_neg (by omega)]
        simp [this, placed]
      have hva : (va + BitVec.ofNat 64 (min n 64)).toNat = va.toNat + min n 64 := by
        rw [BitVec.toNat_add, BitVec.toNat_ofNat]; omega
      have ih := firmware_reads hp hc hl hq hd fuel (va + BitVec.ofNat 64 (min n 64)) (n - min n 64) (by omega) (by omega) (by omega)
      simp only [hx, hk, consume, enginePoison_idle hc hl hq, ih, hva, engineRead, hd, bind, Except.bind, pure, Except.pure]
      rw [engineBytes_idle hc _ _ (by omega), ← bytes_append, Nat.add_sub_cancel' (Nat.min_le_left _ _)]

def blockBytes : List Byte := 1 :: List.replicate 0x1FFFF 0

def loadCtx : State := sys (fwh [(5, 0x100000)])
theorem loadCtx_home (i : Nat) (sp : Space) (va : W64) (n : Nat) : homeRange loadCtx i sp va n = loadCtx := homeRange_idle rfl rfl i sp va n

theorem block_reads : readRange loadCtx 0 (spaceOf loadCtx 0) false 0x100000 0x20000 = .ok blockBytes := by
  rw [readRange, firmware_reads (by decide) rfl rfl rfl (by decide) _ _ _ (by decide) (by decide) (by decide)]
  show Except.ok (mem0.read 0x100000 :: mem0.bytes 0x100001 0x1FFFF) = _
  rw [bytes_zero mem0_tail]
  rfl

theorem block_ok : blockOk (wordsOf 0x4000 blockBytes) = true := by decide +kernel

/-! ## A state and operands for the hypotheses of every statement, in the order of the statements -/

/-- The bytes of an instruction of two parcels that stand in memory at the address of a firmware hart. -/
theorem stands_tick (s : State) (bs : List Byte) (h : bs.length = 4 ∧ parcelLength (BitVec.ofNat 16 (ofLE (bs.take 2))) = 4
    ∧ ∀ k < 2, (match locate s s.cur (spaceOf s s.cur) false .fetch ((s.me.pc &&& ~~~1) + BitVec.ofNat 64 (2 * k)) with
      | .ok ⟨.mem pa, dev⟩ => decide (poisonAt s (viewOf (vectorView s.cur) ⟨.mem pa, dev⟩) (.mem pa) 2 = none)
        && decide (bytesAt s (viewOf (vectorView s.cur) ⟨.mem pa, dev⟩) (.mem pa) 2 = (bs.drop (2 * k)).take 2)
      | _ => false) = true) : Stands s bs := by
  obtain ⟨a, b, c⟩ := h
  refine ⟨by omega, by omega, fun k hk => ?_⟩
  have := c k (by omega)
  split at this
  · rename_i pa dev e
    simp only [Bool.and_eq_true, decide_eq_true_eq] at this
    exact ⟨_, e, nofun, this.1, this.2⟩
  · cases this

theorem witness_ScalarIntegerResults_0 : ∃ (s : State) (i : Instr) (d : Reg) (v : W64),
    integerResult s i = some (d, v) :=
  ⟨sys (usr [(5, 0x8000000000000000), (6, 1)]), .sub 7 5 6, 7, 0x7FFFFFFFFFFFFFFF,
    by decide⟩

theorem witness_ScalarIntegerResults_1 : ∃ (d : Reg) (a : Reg) (b : Reg) (k : Nat) (p : Instr × Reg),
    (aluTable d a b)[k]? = some p :=
  ⟨5, 6, 7, 17, (.popc 5 6, 0),
    by decide⟩

theorem witness_ScalarIntegerResults_2 : ∃ (d : Reg) (a : Reg) (b : Reg) (k : Nat) (i : Instr),
    (muldivTable d a b)[k]? = some i :=
  ⟨5, 6, 7, 7, .remu 5 6 7,
    by decide⟩

theorem witness_CompressedArithmeticExpands_0 : ∃ (s : State) (i : Instr) (j : Instr),
    arithExpansion i = some j :=
  ⟨sys (usr [(5, 0xF000000040), (6, 0x8877665544332211), (7, 0xF000000043)]), .cLi 64 0, .addi 8 0 0x7FC0,
    by decide⟩

theorem witness_BranchAndJumpTargets_0 : ∃ (s : State) (i : Instr) (taken : Bool) (o : Int) (n : Nat),
    branchOf s i = some (taken, o, n) :=
  ⟨sys (usr [(5, 0xFFFFFFFFFFFFFFFF)]), .blt 5 0 0x4000, true, -32768, 4,
    by decide⟩

theorem witness_BranchAndJumpTargets_1 : ∃ (s : State) (i : Instr) (d : Reg) (target : W64),
    jumpOf s i = some (d, target) :=
  ⟨sys (usr [(5, 0xF000000040), (6, 0x8877665544332211), (7, 0xF000000043)]), .jalr 0 6 0, 0, 0x8877665544332210,
    by decide⟩

theorem witness_LoadAnswers_0 : ∃ (s : State) (i : Instr) (d : Reg) (va : W64) (n : Nat) (signed : Bool) (sc : Nat) (len : Nat) (p : Place),
    loadForm s i = some (d, va, n, signed, sc, len) ∧ coreActive s s.cur = true ∧ Lands s .load va n p ∧ AcquireGoes s sc
    ∧ Sound (acquire s s.cur sc) p n :=
  ⟨sys (usr [(5, 0xF000000040), (6, 0x8877665544332211), (7, 0xF000000043)]), .ld64 6 5 0, 6, 0xF000000040, 8, false, 0, 4,
    ⟨.spad 0 0x40, false⟩,
    by decide, by decide, by unfold Lands; decide, by unfold AcquireGoes; decide, ⟨nofun, by decide⟩⟩

theorem witness_RemoteLoadWaits_0 : ∃ (s : State) (i : Instr) (d : Reg) (va : W64) (n : Nat) (signed : Bool) (sc : Nat) (len : Nat) (pa :
    Nat) (addr : Nat) (node : BitVec 16) (dev : Bool),
    Lands s .load va n ⟨.fabric pa node addr, dev⟩ ∧ AcquireGoes s sc ∧ loadForm s i = some (d, va, n, signed, sc, len) ∧ s.me.remote = none
    ∧ slotFree s s.cur = true :=
  ⟨sys (fwh [(5, 0x8000000000000)]), .ld64 6 5 0, 6, 0x8000000000000, 8, false, 0, 4, 0x8000000000000, 0, 5, false,
    by unfold Lands; decide, by unfold AcquireGoes; decide, by decide⟩

theorem witness_RemoteLoadWaits_1 : ∃ (s : State) (i : Instr) (d : Reg) (va : W64) (n : Nat) (signed : Bool) (sc : Nat) (len : Nat) (pa :
    Nat) (addr : Nat) (node : BitVec 16) (dev : Bool),
    loadForm s i = some (d, va, n, signed, sc, len) ∧ Lands s .load va n ⟨.fabric pa node addr, dev⟩ ∧ AcquireGoes s sc ∧ s.me.remote = none
    ∧ slotFree s s.cur = false :=
  ⟨fullS (fwh [(5, 0x8000000000000)]), .ld64 6 5 0, 6, 0x8000000000000, 8, false, 0, 4, 0x8000000000000, 0, 5, false,
    by decide, by unfold Lands; decide, by unfold AcquireGoes; decide, by decide +kernel, by decide⟩

theorem witness_RemoteLoadWaits_2 : ∃ (s : State) (i : Instr) (d : Reg) (va : W64) (n : Nat) (signed : Bool) (sc : Nat) (len : Nat) (pa :
    Nat) (addr : Nat) (node : BitVec 16) (dev : Bool) (id : _) (bs : _),
    Lands s .load va n ⟨.fabric pa node addr, dev⟩ ∧ AcquireGoes s sc ∧ loadForm s i = some (d, va, n, signed, sc, len)
    ∧ s.me.remote = some ⟨id, false, some (.bytes bs)⟩ ∧ heldPoison s s.cur (.fabric pa node addr) n = none :=
  ⟨sys { fwh [(5, 0x8000000000000), (6, 7)] with remote := some ⟨3, false, some (.bytes [1, 2, 3, 4, 5, 6, 7, 8])⟩ }, .ldS8 6 5 0, 6,
    0x8000000000000, 1, true, 0, 4, 0x8000000000000, 0, 5, false, 3, [1, 2, 3, 4, 5, 6, 7, 8],
    by unfold Lands; decide, by unfold AcquireGoes; decide, by decide⟩

theorem witness_StoreLands_0 : ∃ (s : State) (i : Instr) (va : W64) (v : W64) (n : Nat) (rel : Option Nat) (len : Nat) (p : Place),
    MemoryForm s ∧ Lands s .store va n p ∧ (∀ pa node a, p.loc ≠ .fabric pa node a) ∧ InLine p.loc n
    ∧ storeForm s i = some (va, v, n, rel, len) ∧ coreActive s s.cur = true ∧ s.me.guarded = false
    ∧ (rel.isSome = true → releaseReady s s.cur (rel.getD 0) = true) :=
  ⟨sys (fwh [(5, 0x5038), (6, 0x8877665544332211)]), .st64 6 5 0, 0x5038, 0x8877665544332211, 8, none, 4, ⟨.mem 0x5038, false⟩,
    ⟨by decide, fun _ => rfl, by decide, (fun _ _ h => nomatch h), (fun _ _ h => nomatch h)⟩, by unfold Lands; decide, nofun, by rintro pa ⟨⟩; decide, by decide⟩

theorem witness_RemoteStorePosts_0 : ∃ (s : State) (i : Instr) (va : W64) (v : W64) (n : Nat) (rel : Option Nat) (len : Nat) (pa : Nat)
    (addr : Nat) (node : BitVec 16) (dev : Bool),
    Lands s .store va n ⟨.fabric pa node addr, dev⟩ ∧ slotFree s s.cur = false ∧ storeForm s i = some (va, v, n, rel, len)
    ∧ coreActive s s.cur = true ∧ s.me.guarded = false ∧ (rel.isSome = true → releaseReady s s.cur (rel.getD 0) = true) :=
  ⟨fullS (fwh [(5, 0x8000000000000)]), .st64 6 5 0, 0x8000000000000, 0, 8, none, 4, 0x8000000000000, 0, 5, false,
    by unfold Lands; decide, by decide +kernel, by decide⟩

theorem witness_RemoteStorePosts_1 : ∃ (s : State) (i : Instr) (va : W64) (v : W64) (n : Nat) (rel : Option Nat) (len : Nat) (pa : Nat)
    (addr : Nat) (node : BitVec 16) (dev : Bool),
    Lands s .store va n ⟨.fabric pa node addr, dev⟩ ∧ storeForm s i = some (va, v, n, rel, len) ∧ coreActive s s.cur = true
    ∧ s.me.guarded = false ∧ (rel.isSome = true → releaseReady s s.cur (rel.getD 0) = true) ∧ slotFree s s.cur = true :=
  ⟨sys (fwh [(5, 0x8000000000000)]), .st64 6 5 0, 0x8000000000000, 0, 8, none, 4, 0x8000000000000, 0, 5, false,
    by unfold Lands; decide, by decide⟩

theorem witness_GuardedStoreIsHeld_0 : ∃ (s : State) (u : State) (i : Instr) (va : W64) (v : W64) (n : Nat) (rel : Option Nat) (len : Nat)
    (p : Place),
    storeForm s i = some (va, v, n, rel, len) ∧ s.me.guarded = true ∧ Lands s .store va n p ∧ bufferBytes < stripBytes s.me + n :=
  ⟨sys { usr [(5, 0xF000000040), (6, 7)] with gs := true, q := openQ, vq := [{ vecE (.vst 3 0 1 5) with vl := 0x8000 }] },
    sys { usr [(5, 0xF000000040), (6, 7)] with gs := true, q := openQ, vq := [{ vecE (.vst 3 0 1 5) with vl := 0x8000 }] }, .st64 6 5 0,
    0xF000000040, 7, 8, none, 4, ⟨.spad 0 0x40, false⟩,
    by decide, by decide, by unfold Lands; decide, by decide +kernel⟩

theorem witness_GuardedStoreIsHeld_1 : ∃ (s : State) (u : State) (i : Instr) (va : W64) (v : W64) (n : Nat) (rel : Option Nat) (len : Nat)
    (p : Place),
    storeForm s i = some (va, v, n, rel, len) ∧ s.me.guarded = true ∧ Lands s .store va n p ∧ ((s.me.committing = false
    ∧ stripBytes s.me + n ≤ bufferBytes ∧ u = s) ∨ (bufferBytes < stripBytes s.me + n ∧ Committed s u ∧ u.me.buf = [])) :=
  ⟨sys { usr [(5, 0xF000000040), (6, 7)] with gs := true }, sys { usr [(5, 0xF000000040), (6, 7)] with gs := true }, .st8 6 5 1,
    0xF000000041, 7, 1, none, 4, ⟨.spad 0 0x41, false⟩,
    by decide, by decide, by unfold Lands; decide, .inl ⟨by decide, by decide, rfl⟩⟩

theorem witness_MisalignedScalarAccessTraps_0 : ∃ (s : State) (i : Instr) (va : W64) (n : Nat),
    ((∃ d signed sc len, loadForm s i = some (d, va, n, signed, sc, len)) ∨ (∃ v rel len, storeForm s i = some (va, v, n, rel, len)
    ∧ (s.me.guarded = false ∨ s.me.openBinding = false ∨ stripBytes s.me + n ≤ bufferBytes)) ∨ (∃ op sc rel acq w d a b, atomicForm i = some (op, sc, rel, acq, w, d, a, b)
    ∧ va = s.rx a ∧ n = (if w then 8 else 4) ∧ (s.me.guarded = false ∨ s.me.openBinding = false)) ∨ (∃ a b, i = .mwatch a b ∧ va = s.rx a
    ∧ n = 8)) ∧ va.toNat % n ≠ 0 :=
  ⟨sys (usr [(5, 0xF000000040), (6, 0x8877665544332211), (7, 0xF000000043)]), .ldS16 6 7 0, 0xF000000043, 2,
    .inl ⟨6, true, 0, 4, by decide⟩, by decide⟩

theorem witness_MisalignedScalarAccessTraps_1 : ∃ (s : State) (i : Instr) (op : AmoOp) (sc : BitVec 3) (rel : Bool) (acq : Bool) (w : Bool)
    (d : Reg) (a : Reg) (b : Reg),
    atomicForm i = some (op, sc, rel, acq, w, d, a, b) ∧ s.me.guarded = true ∧ s.me.openBinding = true :=
  ⟨sys { usr [(5, 0xF000000041), (6, 7)] with gs := true, q := openQ }, .amoadd 1 true true true 6 5 6, .add, 1, true, true, true, 6, 5, 6,
    rfl, by decide, by decide⟩

theorem witness_MisalignedScalarAccessTraps_2 : ∃ (s : State) (i : Instr) (va : W64) (v : W64) (n : Nat) (rel : Option Nat) (len : Nat),
    bufferBytes < stripBytes s.me + n ∧ storeForm s i = some (va, v, n, rel, len) ∧ s.me.guarded = true ∧ s.me.openBinding = true :=
  ⟨sys { usr [(5, 0xF000000041), (6, 7)] with gs := true, q := openQ, vq := [{ vecE (.vst 3 0 1 5) with vl := 0x8000 }] }, .st64 6 5 0,
    0xF000000041, 7, 8, none, 4,
    by decide +kernel, by decide⟩

theorem witness_ScalarAtomicResult_0 : ∃ (s : State) (u : State) (i : Instr) (op : AmoOp) (sc : BitVec 3) (rel : Bool) (acq : Bool) (w :
    Bool) (d : Reg) (a : Reg) (b : Reg) (p : Place),
    atomicForm i = some (op, sc, rel, acq, w, d, a, b) ∧ (acq = true → addPending s.me = false)
    ∧ Lands s .rmw (s.rx a) (if w then 8 else 4) p ∧ (∀ pa node x, p.loc ≠ .fabric pa node x) :=
  ⟨sys { usr [(5, 0xF000000040), (6, 7)] with gs := true }, sys { usr [(5, 0xF000000040), (6, 7)] with gs := true },
    .amoadd 1 true true true 6 5 6, .add, 1, true, true, true, 6, 5, 6, ⟨.spad 0 0x40, false⟩,
    rfl, by decide, by unfold Lands; decide, nofun⟩

theorem witness_ScalarAtomicResult_1 : ∃ (s : State) (u : State) (i : Instr) (op : AmoOp) (sc : BitVec 3) (rel : Bool) (acq : Bool) (w :
    Bool) (d : Reg) (a : Reg) (b : Reg) (p : Place),
    atomicForm i = some (op, sc, rel, acq, w, d, a, b) ∧ Lands s .rmw (s.rx a) (if w then 8 else 4) p
    ∧ (∀ pa node x, p.loc ≠ .fabric pa node x) ∧ CommitsFirst s u ∧ MemoryForm u ∧ InLine p.loc (if w then 8 else 4)
    ∧ (acq = true → addPending s.me = false) ∧ coreActive u s.cur = true ∧ (rel = true → releaseReady u s.cur sc.toNat = true)
    ∧ atomicPoison (atomicOrdered u sc.toNat rel acq) s.cur p sc.toNat (if w then 8 else 4) = none :=
  ⟨sys (fwh [(5, 0x503C), (6, 7)]), sys (fwh [(5, 0x503C), (6, 7)]), .amocas 4 true true false 6 5 6, .cas, 4, true, true, false, 6, 5, 6,
    ⟨.mem 0x503C, false⟩,
    rfl, by unfold Lands; decide, nofun, .inl ⟨by decide, rfl⟩, ⟨by decide, fun _ => rfl, by decide, (fun _ _ h => nomatch h), (fun _ _ h => nomatch h)⟩, by rintro pa ⟨⟩; decide, by decide⟩

theorem witness_FenceOrders_0 : ∃ (s : State) (sc : BitVec 3) (succ : BitVec 2) (pred : BitVec 2),
    (pred = 0 ∨ succ = 0) :=
  ⟨sys (usr [(5, 0xF000000040), (6, 0x8877665544332211), (7, 0xF000000043)]), 3, 2, 0,
    by decide⟩

theorem witness_FenceOrders_1 : ∃ (s : State) (sc : BitVec 3) (succ : BitVec 2) (pred : BitVec 2),
    pred ≠ 0 ∧ succ ≠ 0 ∧ memPending s.me = false ∧ (pred.getLsbD 0 = true → releaseReady s s.cur sc.toNat = true)
    ∧ coreActive s s.cur = true :=
  ⟨sys (usr [(5, 0xF000000040), (6, 0x8877665544332211), (7, 0xF000000043)]), 4, 2, 1,
    by decide⟩

theorem witness_WatchAndWait_0 : ∃ (s : State) (a : Reg) (b : Reg) (p : Place),
    Lands s .load (s.rx a) 8 p ∧ Sound s p 8 ∧ coreActive s s.cur = true :=
  ⟨sys (usr [(5, 0xF000000040), (6, 0x8877665544332211), (7, 0xF000000043)]), 5, 6, ⟨.spad 0 0x40, false⟩,
    by unfold Lands; decide, ⟨nofun, by decide⟩, by decide⟩

theorem witness_WatchAndWait_1 : ∃ (s : State) (sc : BitVec 3) (d : Reg),
    s.me.watch.armed = false :=
  ⟨sys (usr [(5, 0xF000000040), (6, 0x8877665544332211), (7, 0xF000000043)]), 3, 6,
    by decide⟩

theorem witness_WatchAndWait_2 : ∃ (s : State) (sc : BitVec 3) (d : Reg),
    s.me.watch.armed = true ∧ s.me.watch.event = false :=
  ⟨sys { usr [] with watch := { armed := true } }, 3, 6,
    by decide, by decide⟩

theorem witness_WatchAndWait_3 : ∃ (s : State) (sc : BitVec 3) (d : Reg) (p : Place),
    Sound (acquire s s.cur sc.toNat) p 8 ∧ s.me.watch.armed = true ∧ s.me.watch.event = true ∧ watchBusy s.me = false
    ∧ coreActive s s.cur = true ∧ (s.me.mode = .running ∨ s.me.mode = .trapped)
    ∧ locate s s.cur (spaceOf s s.cur) false .load s.me.watch.a = .ok p ∧ devWaits s p = false :=
  ⟨sys { usr [] with watch := { a := 0xF000000040, armed := true, event := true } }, 3, 6, ⟨.spad 0 0x40, false⟩,
    ⟨nofun, by decide⟩, by decide⟩

theorem witness_WatchAndWait_4 : ∃ (s : State) (sc : BitVec 3) (d : Reg) (handler : Bool) (p : Place),
    Sound (acquire s s.cur sc.toNat) p 8 ∧ s.cur = s.input.hart ∧ s.hold.phase = .none ∧ s.me.mode = .waiting (.mwait d sc) handler
    ∧ s.me.watch.armed = true ∧ s.me.watch.event = true ∧ watchBusy s.me = false ∧ s.me.midGather = false ∧ coreActive s s.cur = true
    ∧ locate s s.cur (spaceOf s s.cur) false .load s.me.watch.a = .ok p ∧ devWaits s p = false :=
  ⟨sys { usr [] with mode := .waiting (.mwait 6 3) false, watch := { a := 0xF000000040, armed := true, event := true } }, 3, 6, false,
    ⟨.spad 0 0x40, false⟩,
    ⟨nofun, by decide⟩, by decide⟩

theorem witness_ScalarFloatResults_0 : ∃ (s : State) (i : Instr) (d : Reg) (v : Nat) (fl : Nat),
    i.wf = true ∧ floatResult s i = some (d, v, fl) :=
  ⟨sys (usr [(5, 0x3F800000), (6, 0x40000000)]), .fadd 0 0 7 5 6, 7, 0x40400000, 0,
    by decide, by decide⟩

theorem witness_ScalarFloatRoundsExactValueOnce_0 : ∃ (s : State) (i : Instr) (d : Reg) (r : BitVec 3) (p : BitVec 2) (ops : List (BitVec 2
    × Nat)) (x : ℚ),
    i.wf = true ∧ exactResult s i = some (d, r, p, ops, x) ∧ (∀ o ∈ ops, finiteCode o.1 o.2) ∧ |x| ≤ largestValue p ∧ d ≠ 0 :=
  ⟨sys (usr [(5, 0x3F800000), (6, 0x40000000)]), .fadd 0 0 7 5 6, 7, 0, 0, [(0, 0x3F800000), (0, 0x40000000)],
    codeValue 0 0x3F800000 + codeValue 0 0x40000000,
    by decide, rfl, (by intro o h; fin_cases h <;> exact ⟨by decide, by decide⟩), by norm_num [codeValue, shape, largestValue, abs_le], by decide⟩

theorem witness_WordReads_0 : ∃ (s : State) (c : BitVec 12) (d : Reg),
    cwAssigned c = true ∧ AccessReady s c.toNat :=
  ⟨sys (usr [(5, 0xF000000040), (6, 0x8877665544332211), (7, 0xF000000043)]), 0x010, 6,
    by decide, ⟨.inl (by decide), fun _ => ⟨by decide, by decide⟩, fun _ => by decide⟩⟩

theorem witness_WordWrites_0 : ∃ (s : State) (i : Instr) (c : BitVec 12) (d : Reg) (f : W64 → W64) (mask : W64),
    cwForm s i = some (c, d, f) ∧ AccessReady s c.toNat ∧ (((c.toNat, mask) ∈ userFields
    ∧ (c = 0x012 → s.me.priv = .user)) ∨ (c.toNat, mask) ∈ privilegedFields) :=
  ⟨sys (usr [(5, 0xFF)]), .cww 0x020 6 5, 0x020, 6, fun _ => 0xFF, 0xFFFFFFFFFFFFFFFF,
    rfl, ⟨.inl (by decide), fun _ => ⟨by decide, by decide⟩, fun _ => by decide⟩, .inl ⟨by decide, fun _ => by decide⟩⟩

theorem witness_WordLimits_0 : ∃ (s : State) (i : Instr) (c : BitVec 12) (d : Reg) (f : W64 → W64) (mask : W64) (g : Nat → Nat),
    cwForm s i = some (c, d, f) ∧ AccessReady s c.toNat ∧ (c.toNat, mask, g) ∈ limitedFields :=
  ⟨sys (usr [(5, 0x1F)]), .cww 0x014 6 5, 0x014, 6, fun _ => 0x1F, 0x1F, fun v => max 1 (min 16 v),
    rfl, ⟨.inl (by decide), fun _ => ⟨by decide, by decide⟩, fun _ => by decide⟩, .head _⟩

theorem witness_ReadOnlyWordsKeep_0 : ∃ (s : State) (i : Instr) (c : BitVec 12) (d : Reg) (f : W64 → W64),
    cwForm s i = some (c, d, f) ∧ AccessReady s c.toNat ∧ c.toNat ∈ readOnlyWords :=
  ⟨sys (usr [(5, 0xFF)]), .cwset 0x034 6 5, 0x034, 6, fun old => old ||| 0xFF,
    rfl, ⟨.inl (by decide), fun _ => ⟨by decide, by decide⟩, fun _ => by decide⟩, by decide⟩

theorem witness_StatusWordWrites_0 : ∃ (s : State) (i : Instr) (c : BitVec 12) (d : Reg) (f : W64 → W64) (L : Priv),
    cwForm s i = some (c, d, f) ∧ Reaches s.me.priv c.toNat ∧ ((c = 0x404 ∧ L = .sup) ∨ (c = 0x804 ∧ L = .fw)) :=
  ⟨sys { sup [(5, 0x20)] with sup := { stat := 0x20, image := [qf] } }, .cww 0x404 6 5, 0x404, 6, fun _ => 0x20, .sup,
    rfl, by unfold Reaches; decide, .inl ⟨rfl, rfl⟩⟩

theorem witness_WordPrivilege_0 : ∃ (s : State) (c : BitVec 12) (d : Reg) (a : Reg),
    cwAssigned c = true ∧ ¬Reaches s.me.priv c.toNat :=
  ⟨sys (usr [(5, 0xF000000040), (6, 0x8877665544332211), (7, 0xF000000043)]), 0x400, 6, 5,
    by decide, by unfold Reaches; decide⟩

theorem witness_WordPrivilege_1 : ∃ (s : State) (c : BitVec 12) (d : Reg) (a : Reg),
    cwAssigned c = true ∧ ¬Reaches s.me.priv c.toNat :=
  ⟨sys (usr [(5, 0xF000000040), (6, 0x8877665544332211), (7, 0xF000000043)]), 0x400, 6, 5,
    by decide, by unfold Reaches; decide⟩

theorem witness_WordPrivilege_2 : ∃ (s : State) (c : BitVec 12) (d : Reg) (a : Reg),
    cwAssigned c = true ∧ ¬Reaches s.me.priv c.toNat :=
  ⟨sys (usr [(5, 0xF000000040), (6, 0x8877665544332211), (7, 0xF000000043)]), 0x400, 6, 5,
    by decide, by unfold Reaches; decide⟩

theorem witness_WordPrivilege_3 : ∃ (s : State) (c : BitVec 12) (d : Reg) (a : Reg),
    cwAssigned c = true ∧ ¬Reaches s.me.priv c.toNat :=
  ⟨sys (usr [(5, 0xF000000040), (6, 0x8877665544332211), (7, 0xF000000043)]), 0x400, 6, 5,
    by decide, by unfold Reaches; decide⟩

theorem witness_PrivilegedTrapsAtUser_0 : ∃ (s : State) (i : Instr),
    i.wf = true ∧ privilegedInstr i = true ∧ s.me.priv = .user :=
  ⟨sys (usr [(5, 0xF000000040), (6, 0x8877665544332211), (7, 0xF000000043)]), .sret,
    by decide⟩

theorem witness_TrapEntryTakesOldestQueueFault_0 : ∃ (s : State) (e : QEntry) (r : TrapInfo),
    NotRolledBack s s.input.hart r.cause ∧ (s.hart s.input.hart).mode ≠ .free ∧ s.hold.phase = .none ∧ coreActive s s.input.hart = true
    ∧ (s.hart s.input.hart).remote = none ∧ (s.hart s.input.hart).midGather = false
    ∧ e ∈ (s.hart s.input.hart).vq ++ (s.hart s.input.hart).mq ∧ e.fault = some r
    ∧ (∀ f ∈ (s.hart s.input.hart).vq ++ (s.hart s.input.hart).mq, f.fault.isSome = true → f ≠ e → e.seq < f.seq) ∧ r.sp = false
    ∧ r.err = none ∧ r.idx < 2 ^ 40 :=
  ⟨sys { usr [] with vq := [qf] }, qf, { cause := 0x03, val := 8, vf := true, idx := 1099511627775 },
    .inl (by decide), by decide⟩

theorem witness_TrapEntryTakesOldestQueueFault_1 : ∃ (s : State) (n : BitVec 4) (p : Priv × TrapInfo) (l : List (Priv × TrapInfo)),
    (s.hart s.input.hart).mode = .waiting (.hbar n) false ∧ s.hold.phase = .none ∧ coreActive s s.input.hart = true
    ∧ (s.hart s.input.hart).remote = none ∧ (s.hart s.input.hart).queueFault = none ∧ (s.hart s.input.hart).midGather = false
    ∧ (s.hart s.input.hart).committing = false ∧ (s.hart s.input.hart).priv = .user ∧ (s.hart s.input.hart).frames = [] ∧ p.2.idx < 2 ^ 40
    ∧ p.2.sp = false ∧ (s.hart s.input.hart).ch.toList.flatMap Channel.faults = p :: l :=
  ⟨sys { usr [] with mode := .waiting (.hbar 15) false, ch := chan6 { copy0 with fault := some { cause := 0x0B, val := 8 } } }, 15,
    (.user, { cause := 0x0B, val := 8 }), [],
    by decide⟩

theorem witness_TrapEntryTakesOldestQueueFault_2 : ∃ (s : State) (n : BitVec 4) (p : Priv × TrapInfo) (l : List (Priv × TrapInfo)),
    (s.hart s.input.hart).mode = .waiting (.hbar n) false ∧ s.hold.phase = .none ∧ coreActive s s.input.hart = true
    ∧ (s.hart s.input.hart).remote = none ∧ (s.hart s.input.hart).queueFault = none ∧ (s.hart s.input.hart).midGather = false
    ∧ (s.hart s.input.hart).committing = false ∧ (s.hart s.input.hart).priv = .user ∧ (s.hart s.input.hart).frames = [] ∧ p.2.idx < 2 ^ 40
    ∧ p.2.sp = false ∧ (s.hart s.input.hart).ch.toList.flatMap Channel.faults = [] ∧ (s.hart s.input.hart).storeFaults = p :: l :=
  ⟨sys { usr [] with mode := .waiting (.hbar 15) false, storeFaults := [(.user, { cause := 0x0B, val := 8 })] }, 15,
    (.user, { cause := 0x0B, val := 8 }), [],
    by decide⟩

theorem witness_TrapEntryTakesOldestQueueFault_3 : ∃ (s : State) (n : BitVec 4) (c : _) (l : _),
    (s.hart s.input.hart).mode = .waiting (.hbar n) false ∧ s.hold.phase = .none ∧ coreActive s s.input.hart = true
    ∧ (s.hart s.input.hart).remote = none ∧ (s.hart s.input.hart).queueFault = none ∧ (s.hart s.input.hart).midGather = false
    ∧ (s.hart s.input.hart).committing = false ∧ (s.hart s.input.hart).priv = .user ∧ (s.hart s.input.hart).copyFault = none
    ∧ (s.hart s.input.hart).spineTrap = none ∧ (s.hart s.input.hart).frames = [] ∧ (s.hart s.input.hart).guarded = false
    ∧ (s.hart s.input.hart).sw.fdeleg.getLsbD 16 = true ∧ (s.hart s.input.hart).preempt = c :: l ∧ c < 256 :=
  ⟨sys { usr [] with mode := .waiting (.hbar 15) false, preempt := [2] }, 15, 2, [],
    by decide⟩

theorem witness_TrapReturnRestores_0 : ∃ (s : State) (r : TrapInfo),
    r.sp = false ∧ r.err = none ∧ s.me.priv = .user ∧ s.me.mode = .running ∧ s.me.sw.fdeleg.getLsbD r.cause.toNat = true
    ∧ s.me.sup.stat.getLsbD 5 = false ∧ (∀ e ∈ s.me.vq, isMatrix e.instr = false) ∧ (∀ e ∈ s.me.mq, isMatrix e.instr = true) :=
  ⟨sys { usr [] with vq := [qf] }, { cause := 0x07, code := 31 },
    by decide⟩

theorem witness_SretReturnsFromTheLevelInForce_0 : ∃ (s : State) (L : Priv),
    L ≠ .user ∧ s.me.priv = L ∧ (s.me.level L).stat.getLsbD 6 = false ∧ fld (s.me.level L).stat 1 0 ≤ 2 :=
  ⟨sys { sup [] with sup := { pc := 0x7000, stat := 0x20, image := [qf] } }, .sup,
    by decide⟩

theorem witness_HintsChangeNothing_0 : ∃ (s : State) (k : BitVec 5),
    k ≠ 0 ∧ k ≠ 1 :=
  ⟨sys (usr [(5, 0xF000000040), (6, 0x8877665544332211), (7, 0xF000000043)]), 31,
    by decide, by decide⟩

theorem witness_HintsChangeNothing_1 : ∃ (s : State),
    s.me.vq = [] ∧ s.me.mq = [] :=
  ⟨sys (usr [(5, 0xF000000040), (6, 0x8877665544332211), (7, 0xF000000043)]),
    by decide, by decide⟩

theorem witness_HintsChangeNothing_2 : ∃ (s : State),
    (s.me.vq ≠ [] ∨ s.me.mq ≠ []) :=
  ⟨sys { usr [] with vq := [qf] },
    by decide⟩

theorem witness_WaitsForEvents_0 : ∃ (s : State),
    s.me.priv ≠ .user :=
  ⟨sys (fwh [(5, 0x5000), (6, 0x8877665544332211), (7, 0x5003)]),
    by decide⟩

theorem witness_WaitsForEvents_1 : ∃ (s : State) (a : Reg),
    s.me.priv ≠ .user ∧ (s.rx a).toNat ≤ 1 :=
  ⟨sys (fwh [(5, 1)]), 5,
    by decide, by decide⟩

theorem witness_WaitsForEvents_2 : ∃ (s : State) (a : Reg),
    s.me.priv ≠ .user ∧ 1 < (s.rx a).toNat :=
  ⟨sys (fwh [(5, 2)]), 5,
    by decide, by decide⟩

theorem witness_WaitsForEvents_3 : ∃ (s : State) (handler : Bool),
    ((s.hart s.input.hart).mode = .waiting .wfi handler ∨ (∃ n, (s.hart s.input.hart).mode = .waiting (.pgate n) handler))
    ∧ coreActive s s.input.hart = true ∧ s.hold.phase = .none ∧ (((s.hart s.input.hart).watch.armed = true
    ∧ (s.hart s.input.hart).watch.event = true) ∨ 1 ∈ (s.hart s.input.hart).preempt ∨ (s.hart s.input.hart).queueFault.isSome = true) :=
  ⟨sys { sup [] with mode := .waiting (.pgate 1) false, preempt := [1] }, false,
    .inr ⟨1, by decide⟩, by decide⟩

theorem witness_LowestEventFirst_0 : ∃ (h : Hart) (c : Nat) (u : Nat) (c' : Nat) (u' : Nat),
    h.uiNext = some (c, u) ∧ (c', u') ∈ uiPairs ∧ h.uipend.getLsbD (uiBit c' u') = true ∧ h.uw.uimask.getLsbD c' = true :=
  ⟨{ usr [] with uipend := 0x800000000000000, uw := { uimask := 0x3E } }, 5, 0, 5, 0,
    by decide⟩

theorem witness_InterruptAndReturn_0 : ∃ (s : State) (c : Nat) (u : Nat),
    s.cur = s.input.hart ∧ s.hold.phase = .none ∧ coreActive s s.cur = true ∧ s.me.uiReady = true ∧ s.me.guarded = false
    ∧ s.me.uiNext = some (c, u) :=
  ⟨sys { usr [(1, 11), (5, 15)] with uipend := 0x40, uidetail := [(6, 77)], uw := { uimask := 2, uivec := 0x9000 } }, 1, 6,
    by decide⟩

theorem witness_InterruptAndReturn_1 : ∃ (s : State),
    s.me.uw.uicause.getLsbD 4 = true :=
  ⟨sys { usr [] with shadow := [1, 2, 3, 4, 5, 6], uw := { uicause := 0x10 } },
    by decide⟩

theorem witness_InterruptAndReturn_2 : ∃ (s : State),
    s.me.uw.uicause.getLsbD 4 = false :=
  ⟨sys (usr [(5, 0xF000000040), (6, 0x8877665544332211), (7, 0xF000000043)]),
    by decide⟩

theorem witness_TranslationCaches_0 : ∃ (s : State) (sc : BitVec 3) (a : Reg) (b : Reg),
    s.me.priv ≠ .user ∧ sc.toNat < 4 ∧ (∃ r ∈ s.fab.requests, InScope sc s.cur (coreOf r.hart)) :=
  ⟨{ sys (fwh []) with fab := { requests := [request0] } }, 3, 5, 6,
    by decide, by decide, ⟨request0, by decide, .inr (.inr rfl)⟩⟩

theorem witness_TranslationCaches_1 : ∃ (s : State) (sc : BitVec 3) (a : Reg) (b : Reg),
    s.me.priv ≠ .user ∧ sc.toNat < 4 ∧ (∀ r ∈ s.fab.requests, ¬InScope sc s.cur (coreOf r.hart))
    ∧ (∀ p ∈ s.harts, InScope sc s.cur (coreOf p.1) → slotOfHart s p.1 = slotOfHart s s.cur → p.2.holdsStores = false) :=
  ⟨sys (fwh [(5, 0x5000), (6, 0x8877665544332211), (7, 0x5003)]), 3, 5, 6,
    by decide, by decide, nofun, by unfold InScope; decide⟩

theorem witness_TranslationCaches_2 : ∃ (s : State) (e : Tlb),
    walk s (spaceOf s s.input.hart) s.input.word.toNat = .ok e :=
  ⟨ev (sys (usr [])) { word := 0x3FFFFFFFFFF }, ⟨0, 42, 0, true, true, true, false, false, some 0, 0, none⟩,
    by decide⟩

theorem witness_VersionBits_1 : ∃ (s : State) (u : State) (v : BitVec 3) (p : Nat),
    CommitsFirst s u ∧ slotOfHart u s.cur = some p ∧ coreActive u s.cur = true ∧ releaseReady u s.cur 4 = false :=
  ⟨{ sys (sup []) with fab := { requests := [store0] } }, { sys (sup []) with fab := { requests := [store0] } }, 7, 0,
    .inl ⟨by decide, rfl⟩, by decide⟩

theorem witness_VersionBits_2 : ∃ (s : State) (u : State) (v : BitVec 3) (p : Nat),
    CommitsFirst s u ∧ slotOfHart u s.cur = some p ∧ coreActive u s.cur = true ∧ releaseReady u s.cur 4 = true :=
  ⟨sys (sup []), sys (sup []), 7, 0,
    .inl ⟨by decide, rfl⟩, by decide⟩

theorem witness_VersionBits_3 : ∃ (s : State) (p : Nat),
    slotOfHart s (s.input.hart) = some p ∧ (s.hart (s.input.hart)).guarded = false ∧ releaseReady s (s.input.hart) 4 = false :=
  ⟨ev { sys (usr []) with fab := { requests := [store0] } } { word := 7 }, 0,
    by decide⟩

theorem witness_VersionBits_4 : ∃ (s : State) (p : Nat),
    slotOfHart s (s.input.hart) = some p ∧ (s.hart (s.input.hart)).guarded = false ∧ releaseReady s (s.input.hart) 4 = true :=
  ⟨ev (sys (usr [])) { word := 7 }, 0,
    by decide⟩

theorem witness_GangBarrier_0 : ∃ (s : State) (n : BitVec 4),
    gangCount s.me ≤ 1 ∧ releaseReady s s.cur 3 = true ∧ coreActive s s.cur = true :=
  ⟨sys (usr [(5, 0xF000000040), (6, 0x8877665544332211), (7, 0xF000000043)]), 15,
    by decide⟩

theorem witness_GangBarrier_1 : ∃ (s : State) (n : BitVec 4) (p : Nat),
    1 < gangCount s.me ∧ slotOfHart s s.cur = some p ∧ releaseReady s s.cur 3 = true ∧ coreActive s s.cur = true ∧ s.me.mode = .running
    ∧ (let k := gangKey (gangId s.me) (gangRank s.me) n; kget 0 (s.part p).gangIn k ≤ kget 0 (s.part p).gangDone k) :=
  ⟨sys { usr [] with uw := { gang := 2 } }, 15, 0,
    by decide⟩

theorem witness_GangBarrier_2 : ∃ (s : State) (n : BitVec 4) (p : Nat) (handler : Bool),
    slotOfHart s s.input.hart = some p ∧ s.hold.phase = .none ∧ (s.hart s.input.hart).mode = .waiting (.hbar n) handler
    ∧ (∀ r, r < gangCount (s.hart s.input.hart) → (kget 0 (s.part p).gangIn (gangKey (gangId (s.hart s.input.hart)) (gangRank (s.hart s.input.hart)) n)) ≤ kget 0 (s.part p).gangIn (gangKey (gangId (s.hart s.input.hart)) r n) ∨ (gangId (s.hart s.input.hart), r) ∈ (s.part p).gangOut) :=
  ⟨sysP { usr [] with mode := .waiting (.hbar 0) true, uw := { gang := 0x0000000500010002 } } { part0 with gangIn := [(4096 * 5 * 16, 1), ((4096 * 5 + 1) * 16, 1)] },
    0, 0, true,
    by decide⟩

theorem witness_ContextBlockLayout_0 : ∃ (s : State) (i : Nat) (img : List QEntry) (m : Bool),
    ((img.filter fun e => !isMatrix e.instr).length ≤ 64) ∧ ((img.filter fun e => isMatrix e.instr).length ≤ 16) :=
  ⟨sys { usr [] with vq := [qf] }, 0, [qf], true,
    by decide, by decide⟩

theorem witness_ContextSaves_0 : ∃ (s : State) (a : Reg),
    AreaReady s a .store (if s.me.uw.mshape.getLsbD 63 then 0x122000 else 0x20000) ∧ coreActive s s.cur = true :=
  ⟨sys (fwh [(5, 0x100000)]), 5,
    by unfold AreaReady; decide, by decide⟩

theorem witness_ContextLoads_0 : ∃ (s : State) (a : Reg) (hd : List Byte) (bs : List Byte) (img : List QEntry) (u : State),
    AreaReady s a .load 64 ∧ coreActive s s.cur = true
    ∧ readRange (homeRange s s.cur (spaceOf s s.cur) (s.rx a) 64) s.cur (spaceOf s s.cur) false (s.rx a) 64 = .ok hd
    ∧ checkRange (homeRange s s.cur (spaceOf s s.cur) (s.rx a) 64) s.cur (spaceOf s s.cur) .load (s.rx a) (if (BitVec.ofNat 64 (ofLE (hd.take 8))).getLsbD 48 then 0x122000 else 0x20000) = .ok ()
    ∧ readRange (homeRange (homeRange s s.cur (spaceOf s s.cur) (s.rx a) 64) s.cur (spaceOf s s.cur) (s.rx a) (if (BitVec.ofNat 64 (ofLE (hd.take 8))).getLsbD 48 then 0x122000 else 0x20000)) s.cur (spaceOf s s.cur) false (s.rx a) (if (BitVec.ofNat 64 (ofLE (hd.take 8))).getLsbD 48 then 0x122000 else 0x20000) = .ok bs
    ∧ blockOk (wordsOf ((if (BitVec.ofNat 64 (ofLE (hd.take 8))).getLsbD 48 then 0x122000 else 0x20000) / 8) bs) = true
    ∧ matrixOk (wordsOf ((if (BitVec.ofNat 64 (ofLE (hd.take 8))).getLsbD 48 then 0x122000 else 0x20000) / 8) bs) = true
    ∧ (s.me.level s.me.priv).stat.getLsbD 5 = false
    ∧ fld (blockAt (wordsOf ((if (BitVec.ofNat 64 (ofLE (hd.take 8))).getLsbD 48 then 0x122000 else 0x20000) / 8) bs) 8) 3 0 = popc8 s.me.slices
    ∧ (blockAt (wordsOf ((if (BitVec.ofNat 64 (ofLE (hd.take 8))).getLsbD 48 then 0x122000 else 0x20000) / 8) bs) 8).getLsbD 4 = s.me.prot
    ∧ ((blockAt (wordsOf ((if (BitVec.ofNat 64 (ofLE (hd.take 8))).getLsbD 48 then 0x122000 else 0x20000) / 8) bs) 0).getLsbD 48 = true → ((homeRange (homeRange s s.cur (spaceOf s s.cur) (s.rx a) 64) s.cur (spaceOf s s.cur) (s.rx a) (if (BitVec.ofNat 64 (ofLE (hd.take 8))).getLsbD 48 then 0x122000 else 0x20000)).core (coreOf s.cur)).owner = none ∨ ((homeRange (homeRange s s.cur (spaceOf s s.cur) (s.rx a) 64) s.cur (spaceOf s s.cur) (s.rx a) (if (BitVec.ofNat 64 (ofLE (hd.take 8))).getLsbD 48 then 0x122000 else 0x20000)).core (coreOf s.cur)).owner = some s.cur)
    ∧ imagesOf (homeRange (homeRange s s.cur (spaceOf s s.cur) (s.rx a) 64) s.cur (spaceOf s s.cur) (s.rx a) (if (BitVec.ofNat 64 (ofLE (hd.take 8))).getLsbD 48 then 0x122000 else 0x20000)).me s.cur (keptOf (homeRange (homeRange s s.cur (spaceOf s s.cur) (s.rx a) 64) s.cur (spaceOf s s.cur) (s.rx a) (if (BitVec.ofNat 64 (ofLE (hd.take 8))).getLsbD 48 then 0x122000 else 0x20000)) s.cur (fld (blockAt (wordsOf ((if (BitVec.ofNat 64 (ofLE (hd.take 8))).getLsbD 48 then 0x122000 else 0x20000) / 8) bs) 16) 31 0)) (userSpace (homeRange (homeRange s s.cur (spaceOf s s.cur) (s.rx a) 64) s.cur (spaceOf s s.cur) (s.rx a) (if (BitVec.ofNat 64 (ofLE (hd.take 8))).getLsbD 48 then 0x122000 else 0x20000)) s.cur) (wordsOf ((if (BitVec.ofNat 64 (ofLE (hd.take 8))).getLsbD 48 then 0x122000 else 0x20000) / 8) bs) = some img
    ∧ admitDecl (homeRange (homeRange s s.cur (spaceOf s s.cur) (s.rx a) 64) s.cur (spaceOf s s.cur) (s.rx a) (if (BitVec.ofNat 64 (ofLE (hd.take 8))).getLsbD 48 then 0x122000 else 0x20000)) s.cur (blockAt (wordsOf ((if (BitVec.ofNat 64 (ofLE (hd.take 8))).getLsbD 48 then 0x122000 else 0x20000) / 8) bs) 0x678) = .ok u :=
  ⟨loadCtx, 5, mem0.bytes 0x100000 64, blockBytes, [], loadCtx,
    by unfold AreaReady; decide, by decide, (by simp only [loadCtx_home]; decide +kernel), (by simp only [loadCtx_home]; decide +kernel), (by simp only [loadCtx_home]; exact block_reads), block_ok, (by decide +kernel), (by decide +kernel), (by decide +kernel), (by decide +kernel), (by simp only [loadCtx_home]; decide +kernel), (by simp only [loadCtx_home]; decide +kernel), (by simp only [loadCtx_home]; decide +kernel)⟩

theorem witness_ChainFramesSaveAndLoad_0 : ∃ (s : State) (a : Reg),
    AreaReady s a .store (320 * s.me.frames.length) :=
  ⟨sys { fwh [(5, 0x5000)] with frames := [frame0] }, 5,
    by unfold AreaReady; decide⟩

theorem witness_ChainFramesSaveAndLoad_1 : ∃ (s : State) (a : Reg) (bs : List Byte) (fs : List Frame),
    AreaReady s a .load (320 * s.me.frames.length) ∧ coreActive s s.cur = true
    ∧ readRange (homeRange s s.cur (spaceOf s s.cur) (s.rx a) (320 * (s.me.frames.length))) s.cur (spaceOf (homeRange s s.cur (spaceOf s s.cur) (s.rx a) (320 * (s.me.frames.length))) s.cur) false (s.rx a) (320 * (s.me.frames.length)) = .ok bs
    ∧ (framesOf ((List.range (s.me.frames.length)).foldl (fun u j => homeRange u u.cur (userSpace u u.cur) ((wordsOf (40 * (s.me.frames.length)) bs).getD (40 * j) 0) 64) (homeRange s s.cur (spaceOf s s.cur) (s.rx a) (320 * (s.me.frames.length)))) s.cur (s.me.frames.length) (wordsOf (40 * (s.me.frames.length)) bs) = .ok fs) :=
  ⟨loadS, 5, mem0.bytes 0xD000 320, loadedFrames,
    by unfold AreaReady; decide, by decide, (by decide +kernel), (by decide +kernel)⟩

theorem witness_ChainFramesSaveAndLoad_2 : ∃ (s : State) (a : Reg),
    AreaReady s a .load 0 ∧ s.me.frames = [] :=
  ⟨sys (fwh [(5, 0x5000)]), 5,
    by unfold AreaReady; decide, by decide⟩

theorem witness_SpawnEnqueues_0 : ∃ (s : State) (d : Reg) (a : Reg),
    (s.rx a).toNat % 64 = 0 ∧ checkRange s s.cur (spaceOf s s.cur) .load (s.rx a) 128 = .ok () :=
  ⟨sys { usr [(5, 0x6000)] with gs := true }, 6, 5,
    by decide, by decide +kernel⟩

theorem witness_SpawnEnqueues_1 : ∃ (s : State) (u : State) (r : State) (d : Reg) (a : Reg) (bs : List Byte) (p : Nat),
    SpawnReads s u r (s.rx a) bs ∧ NoSpillOf u p s.cur ∧ coreActive u s.cur = true ∧ slotOfHart u s.cur = some p
    ∧ (taskOf (wordsOf 16 bs)).badLimits = false ∧ (taskOf (wordsOf 16 bs)).part = (u.part p).record.id
    ∧ (taskOf (wordsOf 16 bs)).asid.toNat = fld u.me.sw.sasid 15 0 ∧ (u.part p).enabled (taskOf (wordsOf 16 bs)).queue = true
    ∧ (queueIn u p (taskOf (wordsOf 16 bs)).queue).spills = [] ∧ (queueIn u p (taskOf (wordsOf 16 bs)).queue).waiters = []
    ∧ (queueIn u p (taskOf (wordsOf 16 bs)).queue).olen = 0
    ∧ (queueIn u p (taskOf (wordsOf 16 bs)).queue).chip.length < (queueIn u p (taskOf (wordsOf 16 bs)).queue).cap :=
  ⟨sysQ { queueOn with chip := [⟨{}, true, 0⟩] }, sysQ { queueOn with chip := [⟨{}, true, 0⟩] },
    spawnR (sysQ { queueOn with chip := [⟨{}, true, 0⟩] }), 6, 5, descBytes, 0,
    ⟨by decide, by decide +kernel, .inl ⟨by decide, rfl⟩, by decide, rfl, by decide +kernel, by decide, by decide +kernel⟩, by unfold NoSpillOf; decide, by decide⟩

theorem witness_SpawnEnqueues_2 : ∃ (s : State) (u : State) (r : State) (d : Reg) (a : Reg) (bs : List Byte) (p : Nat) (st : Nat),
    SpawnReads s u r (s.rx a) bs ∧ coreActive u s.cur = true ∧ slotOfHart u s.cur = some p ∧ NoSpillOf u p s.cur
    ∧ (((taskOf (wordsOf 16 bs)).badLimits = true ∧ st = 1) ∨ ((taskOf (wordsOf 16 bs)).badLimits = false
    ∧ ((taskOf (wordsOf 16 bs)).part ≠ (u.part p).record.id ∨ (taskOf (wordsOf 16 bs)).asid.toNat ≠ fld u.me.sw.sasid 15 0)
    ∧ st = 2) ∨ ((taskOf (wordsOf 16 bs)).badLimits = false ∧ (taskOf (wordsOf 16 bs)).part = (u.part p).record.id
    ∧ (taskOf (wordsOf 16 bs)).asid.toNat = fld u.me.sw.sasid 15 0 ∧ (u.part p).enabled (taskOf (wordsOf 16 bs)).queue = false ∧ st = 3)) :=
  ⟨sys0 { part0 with record := { rec0 with id := 2 } }, sys0 { part0 with record := { rec0 with id := 2 } },
    spawnR (sys0 { part0 with record := { rec0 with id := 2 } }), 6, 5, descBytes, 0, 2,
    ⟨by decide, by decide +kernel, .inl ⟨by decide, rfl⟩, by decide, rfl, by decide +kernel, by decide, by decide +kernel⟩, by decide, by decide, by unfold NoSpillOf; decide, .inr (.inl (by decide))⟩

theorem witness_FullQueueSpills_0 : ∃ (s : State) (u : State) (r : State) (d : Reg) (a : Reg) (bs : List Byte) (p : Nat),
    SpawnReads s u r (s.rx a) bs ∧ coreActive u s.cur = true ∧ slotOfHart u s.cur = some p ∧ u.me.priv = .user
    ∧ u.me.sw.fdeleg.getLsbD 14 = true ∧ u.me.mode = .running ∧ (taskOf (wordsOf 16 bs)).badLimits = false
    ∧ (taskOf (wordsOf 16 bs)).part = (u.part p).record.id ∧ (taskOf (wordsOf 16 bs)).asid.toNat = fld u.me.sw.sasid 15 0
    ∧ (u.part p).enabled (taskOf (wordsOf 16 bs)).queue = true ∧ (queueIn u p (taskOf (wordsOf 16 bs)).queue).spills = []
    ∧ (queueIn u p (taskOf (wordsOf 16 bs)).queue).waiters = []
    ∧ (queueIn u p (taskOf (wordsOf 16 bs)).queue).chip.length = (queueIn u p (taskOf (wordsOf 16 bs)).queue).cap
    ∧ (queueIn u p (taskOf (wordsOf 16 bs)).queue).olen = (queueIn u p (taskOf (wordsOf 16 bs)).queue).ovn :=
  ⟨sysQ { queueOn with cap := 0, ovn := 0, ovf := 0x8000 }, sysQ { queueOn with cap := 0, ovn := 0, ovf := 0x8000 },
    spawnR (sysQ { queueOn with cap := 0, ovn := 0, ovf := 0x8000 }), 6, 5, descBytes, 0,
    ⟨by decide, by decide +kernel, .inl ⟨by decide, rfl⟩, by decide, rfl, by decide +kernel, by decide, by decide +kernel⟩, by decide⟩

theorem witness_FullQueueSpills_1 : ∃ (s : State) (u : State) (r : State) (d : Reg) (a : Reg) (bs : List Byte) (p : Nat) (m : Nat),
    SpawnReads s u r (s.rx a) bs ∧ coreActive u s.cur = true ∧ slotOfHart u s.cur = some p ∧ u.me.mode = .running ∧ m < 16
    ∧ (∃ x ∈ (queueIn u p m).spills, x.1 = s.cur) ∧ (taskOf (wordsOf 16 bs)).badLimits = false
    ∧ (taskOf (wordsOf 16 bs)).part = (u.part p).record.id ∧ (taskOf (wordsOf 16 bs)).asid.toNat = fld u.me.sw.sasid 15 0
    ∧ (u.part p).enabled (taskOf (wordsOf 16 bs)).queue = true ∧ (∀ x ∈ (queueIn u p (taskOf (wordsOf 16 bs)).queue).spills, x.1 = s.cur)
    ∧ (queueIn u p (taskOf (wordsOf 16 bs)).queue).waiters = [] ∧ (queueIn u p (taskOf (wordsOf 16 bs)).queue).olen = 0
    ∧ (queueIn u p (taskOf (wordsOf 16 bs)).queue).chip.length < (queueIn u p (taskOf (wordsOf 16 bs)).queue).cap :=
  ⟨sys0 { part0 with queues := [(0, queueOn), (15, { spills := [(0, 0)] })], sqctl := 1 },
    sys0 { part0 with queues := [(0, queueOn), (15, { spills := [(0, 0)] })], sqctl := 1 },
    spawnR (sys0 { part0 with queues := [(0, queueOn), (15, { spills := [(0, 0)] })], sqctl := 1 }), 6, 5, descBytes, 0, 15,
    ⟨by decide, by decide +kernel, .inl ⟨by decide, rfl⟩, by decide, rfl, by decide +kernel, by decide, by decide +kernel⟩, by decide⟩

theorem witness_DoorbellEnqueues_0 : ∃ (s : State) (r : RemoteReq) (p : Nat) (n : Nat),
    s.input.request = some r ∧ r.op = .atomic .swap ∧ r.width = 8 ∧ n < 16 ∧ r.addr = 0x4000000000000 + 8 * n ∧ slotOfKey s r.key = some p
    ∧ (revokes s = true → r.key ∉ s.fab.revoked) ∧ fld s.fw.fnode 15 0 ≠ 0 ∧ s.hold.phase = .none ∧ dedupFind s r = none ∧ r.retry = false
    ∧ s.fab.dedup.length < 65536 ∧ (r.data.toNat) % 64 = 0 ∧ ownsPa s (some p) (r.data.toNat) = true
    ∧ ownsPa s (some p) ((r.data.toNat) + 127) = true ∧ poisonAt s .home (.mem (r.data.toNat)) 128 = none
    ∧ taskReserved (wordsOf 16 (s.mem.bytes (r.data.toNat) 128)) = false
    ∧ (taskOf (wordsOf 16 (s.mem.bytes (r.data.toNat) 128))).badLimits = false
    ∧ (taskOf (wordsOf 16 (s.mem.bytes (r.data.toNat) 128))).part = (s.part p).record.id
    ∧ asidNamed s (some p) (taskOf (wordsOf 16 (s.mem.bytes (r.data.toNat) 128))).asid = true ∧ (s.part p).enabled n = true
    ∧ countersOk s (dieHart (homeDie (r.data.toNat))) (taskSpace s (some p) (taskOf (wordsOf 16 (s.mem.bytes (r.data.toNat) 128)))) (taskOf (wordsOf 16 (s.mem.bytes (r.data.toNat) 128))).counters = .ok ()
    ∧ (queueIn s p n).olen = 0 ∧ (queueIn s p n).chip.length < (queueIn s p n).cap :=
  ⟨ev (sysQ queueOn) { request := some doorbell }, doorbell, 0, 0,
    by decide⟩

theorem witness_DoorbellEnqueues_1 : ∃ (s : State) (r : RemoteReq) (p : Nat) (n : Nat),
    s.input.request = some r ∧ r.op = .atomic .swap ∧ r.width = 8 ∧ n < 16 ∧ r.addr = 0x4000000000000 + 8 * n ∧ slotOfKey s r.key = some p
    ∧ (revokes s = true → r.key ∉ s.fab.revoked) ∧ fld s.fw.fnode 15 0 ≠ 0 ∧ s.hold.phase = .none ∧ dedupFind s r = none ∧ r.retry = false
    ∧ s.fab.dedup.length < 65536 ∧ ((r.data.toNat) % 64 ≠ 0 ∨ ownsPa s (some p) (r.data.toNat) = false) :=
  ⟨ev (sysQ queueOn) { request := some { doorbell with data := 0x6001, addr := 0x4000000000078 } },
    { doorbell with data := 0x6001, addr := 0x4000000000078 }, 0, 15,
    by decide⟩

theorem witness_QueuesTurnOnAndOff_0 : ∃ (s : State) (p : Nat) (n : Nat) (bs : List Byte) (q : TaskQueue),
    readRange (homeRange s s.input.hart ({ priv := .sup, asid := (BitVec.ofNat 16 (s.hart s.input.hart).sw.skasid.toNat), slot := some p, ver := kget 0 (s.part p).ver (BitVec.ofNat 16 (s.hart s.input.hart).sw.skasid.toNat).toNat }) ((s.part p).sqtab + BitVec.ofNat 64 (256 * n)) 256) s.input.hart ({ priv := .sup, asid := (BitVec.ofNat 16 (s.hart s.input.hart).sw.skasid.toNat), slot := some p, ver := kget 0 (s.part p).ver (BitVec.ofNat 16 (s.hart s.input.hart).sw.skasid.toNat).toNat }) false ((s.part p).sqtab + BitVec.ofNat 64 (256 * n)) 256 = .ok bs
    ∧ queueOfWords (s.part p) (BitVec.ofNat 16 (s.hart s.input.hart).sw.skasid.toNat) (wordsOf 32 bs) = some q
    ∧ (((List.range 16).foldl (fun m j => if (s.part p).enabled j = true
    ∧ (queueIn s p j).home = q.home then m + (queueIn s p j).cap else m) 0) + q.cap ≤ (s.part p).record.entries q.home)
    ∧ slotOfHart s s.input.hart = some p ∧ s.input.queue = n ∧ n < 16 ∧ (s.part p).enabled n = false :=
  ⟨ev (sysP (fwh []) { part0 with sqtab := 0x7000 }) { queue := 15 }, 0, 15, (sys (fwh [])).mem.bytes 0x7F00 256,
    { home := 5, cap := 512, cset := 1 },
    (by decide +kernel), (by decide +kernel), (by decide +kernel), by decide⟩

theorem witness_QueuesTurnOnAndOff_1 : ∃ (s : State) (p : Nat) (n : Nat) (d : Reg) (a : Reg) (bs : List Byte),
    readRange (homeRange s s.cur ({ priv := .sup, asid := (BitVec.ofNat 16 s.me.sw.skasid.toNat), slot := some p, ver := kget 0 (s.part p).ver (BitVec.ofNat 16 s.me.sw.skasid.toNat).toNat }) ((s.part p).sqtab + BitVec.ofNat 64 (256 * n)) 256) s.cur ({ priv := .sup, asid := (BitVec.ofNat 16 s.me.sw.skasid.toNat), slot := some p, ver := kget 0 (s.part p).ver (BitVec.ofNat 16 s.me.sw.skasid.toNat).toNat }) false ((s.part p).sqtab + BitVec.ofNat 64 (256 * n)) 256 = .ok bs
    ∧ (queueOfWords (s.part p) (BitVec.ofNat 16 s.me.sw.skasid.toNat) (wordsOf 32 bs) = none ∨ ∃ q, queueOfWords (s.part p) (BitVec.ofNat 16 s.me.sw.skasid.toNat) (wordsOf 32 bs) = some q
    ∧ (s.part p).record.entries q.home < ((List.range 16).foldl (fun m j => if (s.part p).enabled j = true
    ∧ (queueIn s p j).home = q.home then m + (queueIn s p j).cap else m) 0) + q.cap) ∧ s.me.priv ≠ .user ∧ slotOfHart s s.cur = some p
    ∧ n < 16 ∧ (s.part p).enabled n = false ∧ s.rx a = (s.part p).sqctl ||| BitVec.ofNat 64 (2 ^ n) :=
  ⟨sysP (fwh [(5, 1)]) { part0 with sqtab := 0x7000 }, 0, 0, 6, 5, (sys (fwh [])).mem.bytes 0x7000 256,
    (by decide +kernel), .inl (by decide +kernel), by decide⟩

theorem witness_QueuesTurnOnAndOff_2 : ∃ (s : State) (p : Nat) (n : Nat),
    slotOfHart s s.input.hart = some p ∧ s.input.queue = n ∧ n < 16 ∧ (s.part p).enabled n = true :=
  ⟨ev (sysQ queueOn) {}, 0, 0,
    by decide⟩

theorem witness_DependencesMakeReady_0 : ∃ (s : State) (e : QTask),
    (s.input).bad = false ∧ (queueIn s (s.input).slot (s.input).queue).chip[(s.input).index]? = some e ∧ e.ready = false :=
  ⟨ev (sysQ { queueOn with chip := [⟨{}, false, 0⟩] }) {}, ⟨{}, false, 0⟩,
    by decide⟩

theorem witness_DependencesMakeReady_2 : ∃ (s : State),
    (s.input).bad = true ∧ (s.input).index < (queueIn s (s.input).slot (s.input).queue).chip.length
    ∧ (queueIn s (s.input).slot (s.input).queue).olen = 0 ∧ (s.part (s.input).slot).errs.length < 64 :=
  ⟨ev (sysQ { queueOn with chip := [⟨{}, false, 0⟩] }) { bad := true },
    by decide⟩

theorem witness_DispatchBindsTheFirstFreeHart_0 : ∃ (s : State) (n : Nat) (i : Nat) (ln : Nat) (k : TaskDesc) (l : List Nat),
    n < 16 ∧ (s.part (s.input.slot)).sqctl = BitVec.ofNat 64 (2 ^ n) ∧ (queueIn s (s.input.slot) n).chip = [⟨k, true, ln⟩]
    ∧ (queueIn s (s.input.slot) n).olen = 0 ∧ k.gang = 1 ∧ k.msdecl = 0 ∧ s.hold.phase = .none
    ∧ freeHarts s (some (s.input.slot)) (queueIn s (s.input.slot) n).cset = i :: l :=
  ⟨sysQ { queueOn with chip := [⟨task0, true, 0⟩] }, 0, 4, 0, task0, [1, 5, 2, 6, 3, 7],
    by decide⟩

theorem witness_ProoferStagesNextBytes_0 : ∃ (s : State) (r : Reservation) (one : Bool) (g : W64 × Nat × Nat) (n : Nat) (k : Nat),
    nextStage (stageRanges (reachTable s (s.input.hart) (r.space.getD (taskSpace s (slotOfHart s (s.input.hart)) r.task)) r.task) (s.input.hart) (r.space.getD (taskSpace s (slotOfHart s (s.input.hart)) r.task)) r.task (r.rank == 0) true) r.lines r.staged 0 = some ((one, g), n, k)
    ∧ budgetRoom (reachTable s (s.input.hart) (r.space.getD (taskSpace s (slotOfHart s (s.input.hart)) r.task)) r.task) (slotOfHart s (s.input.hart)) (some (coreOf (s.input.hart))) (min 64 (g.2.2 - k)) = true
    ∧ (s.hart (s.input.hart)).resv = some r ∧ r.ctx = none ∧ (s.hart (s.input.hart)).mode = .free ∧ s.hold.phase = .none ∧ one = true :=
  ⟨stagingS, stagingR, true, (0x5000, 0x100, 65), 0, 64,
    by decide +kernel, by decide +kernel, by decide⟩

theorem witness_ProoferStagesNextBytes_1 : ∃ (s : State) (r : Reservation) (one : Bool) (g : W64 × Nat × Nat) (n : Nat) (k : Nat),
    nextStage (stageRanges (reachTable s (s.input.hart) (r.space.getD (taskSpace s (slotOfHart s (s.input.hart)) r.task)) r.task) (s.input.hart) (r.space.getD (taskSpace s (slotOfHart s (s.input.hart)) r.task)) r.task (r.rank == 0) true) r.lines r.staged 0 = some ((one, g), n, k)
    ∧ budgetRoom (reachTable s (s.input.hart) (r.space.getD (taskSpace s (slotOfHart s (s.input.hart)) r.task)) r.task) (slotOfHart s (s.input.hart)) (some (coreOf (s.input.hart))) (min 64 (g.2.2 - k)) = false
    ∧ (s.hart (s.input.hart)).resv = some r ∧ r.ctx = none ∧ (s.hart (s.input.hart)).mode = .free ∧ s.hold.phase = .none ∧ one = true :=
  ⟨sysP { resv := some stagingR } { part0 with record := { rec0 with pspad := 0 } }, stagingR, true, (0x5000, 0x100, 65), 0, 64,
    by decide +kernel, by decide +kernel, by decide⟩

theorem witness_ProoferStagesNextBytes_2 : ∃ (s : State) (r : Reservation) (one : Bool) (g : W64 × Nat × Nat) (n : Nat) (k : Nat),
    nextStage (stageRanges (reachTable s (s.input.hart) (r.space.getD (taskSpace s (slotOfHart s (s.input.hart)) r.task)) r.task) (s.input.hart) (r.space.getD (taskSpace s (slotOfHart s (s.input.hart)) r.task)) r.task (r.rank == 0) true) r.lines r.staged 0 = some ((one, g), n, k)
    ∧ budgetRoom (reachTable s (s.input.hart) (r.space.getD (taskSpace s (slotOfHart s (s.input.hart)) r.task)) r.task) (slotOfHart s (s.input.hart)) none (min 64 (g.2.2 - k)) = true
    ∧ (s.hart (s.input.hart)).resv = some r ∧ r.ctx = none ∧ (s.hart (s.input.hart)).mode = .free ∧ s.hold.phase = .none ∧ one = false :=
  ⟨sys { resv := some { task := { task0 with nws := 1, wstab := 0x7C80 }, lines := 64 } },
    { task := { task0 with nws := 1, wstab := 0x7C80 }, lines := 64 }, false, (0x5000, 0, 65), 0, 64,
    by decide +kernel, by decide +kernel, by decide⟩

theorem witness_ProoferStagesNextBytes_3 : ∃ (s : State) (r : Reservation),
    nextStage (stageRanges (reachTable s (s.input.hart) (r.space.getD (taskSpace s (slotOfHart s (s.input.hart)) r.task)) r.task) (s.input.hart) (r.space.getD (taskSpace s (slotOfHart s (s.input.hart)) r.task)) r.task (r.rank == 0) true) r.lines r.staged 0 = none
    ∧ (s.hart (s.input.hart)).resv = some r ∧ r.ctx = none ∧ (s.hart (s.input.hart)).mode = .free ∧ s.hold.phase = .none :=
  ⟨sys { resv := some { stagingR with staged := [65] } }, { stagingR with staged := [65] },
    by decide +kernel, by decide⟩

theorem witness_HartStartsTask_0 : ∃ (s : State) (r : Reservation),
    (s.hart (s.input.hart)).resv = some r ∧ r.ctx = none ∧ r.min ≤ popc8 r.got ∧ s.hold.phase = .none ∧ coreActive s (s.input.hart) = true
    ∧ r.rank < 2 ^ 16 ∧ r.task.gang < 2 ^ 16 :=
  ⟨sys { resv := some { task := task0, rank := 65535, got := 1 } }, { task := task0, rank := 65535, got := 1 },
    by decide⟩

theorem witness_HstartReservesAndResumes_0 : ∃ (s : State) (a : Reg) (b : Reg) (bs : List Byte) (p : Nat) (n : Nat),
    Header s bs n ∧ s.me.priv ≠ .user ∧ checkRange s s.cur (spaceOf s s.cur) .load (s.rx a) 64 = .ok ()
    ∧ readRange (homeRange s s.cur (spaceOf s s.cur) (s.rx a) 64) s.cur (spaceOf s s.cur) false (s.rx a) 64 = .ok bs
    ∧ slotOfHart s s.cur = some p ∧ ((s.rx b).toNat) ≠ s.cur ∧ (s.hart ((s.rx b).toNat)).mode = .free
    ∧ slotOfHart s ((s.rx b).toNat) = some p ∧ (s.hart ((s.rx b).toNat)).resv = none :=
  ⟨sys (fwh [(5, 0x5000), (6, 1)]), 5, 6, (sys (fwh [])).mem.bytes 0x5000 64, 0, 8,
    ⟨by decide, by decide, by decide, by decide, by decide, by decide⟩, by decide⟩

theorem witness_HstartReservesAndResumes_1 : ∃ (s : State) (a : Reg) (b : Reg) (bs : List Byte) (p : Nat) (n : Nat),
    Header s bs n ∧ s.me.priv ≠ .user ∧ checkRange s s.cur (spaceOf s s.cur) .load (s.rx a) 64 = .ok ()
    ∧ readRange (homeRange s s.cur (spaceOf s s.cur) (s.rx a) 64) s.cur (spaceOf s s.cur) false (s.rx a) 64 = .ok bs
    ∧ slotOfHart s s.cur = some p ∧ (s.hart ((s.rx b).toNat)).mode ≠ .free :=
  ⟨sys (fwh [(5, 0x5000), (6, 0)]), 5, 6, (sys (fwh [])).mem.bytes 0x5000 64, 0, 8,
    ⟨by decide, by decide, by decide, by decide, by decide, by decide⟩, by decide⟩

theorem witness_HstartReservesAndResumes_2 : ∃ (s : State) (r : Reservation) (area : W64),
    (s.hart (s.input.hart)).resv = some r ∧ r.ctx = some area ∧ popc8 r.got = r.min ∧ s.hold.phase = .none
    ∧ coreActive s (s.input.hart) = true :=
  ⟨sys { resv := some { ctx := some 0x5000, min := 2, got := 3 } }, { ctx := some 0x5000, min := 2, got := 3 }, 0x5000,
    by decide⟩

theorem witness_HstopEndsContexts_0 : ∃ (s : State) (a : Reg),
    s.me.priv ≠ .user ∧ (s.rx a).toNat = s.cur ∧ (s.me.copiesOut = true ∨ s.me.drained = false) :=
  ⟨sys { sup [] with vq := [qf] }, 0,
    by decide, by decide, .inr (by decide)⟩

theorem witness_HstopEndsContexts_1 : ∃ (s : State) (a : Reg),
    (∀ r ∈ s.fab.requests, r.hart = s.cur → r.store = false) ∧ s.me.priv ≠ .user ∧ (s.rx a).toNat = s.cur ∧ s.me.copiesOut = false
    ∧ s.me.drained = true ∧ s.me.gs = false :=
  ⟨sys { sup [] with frames := [frame0], marks := [1] }, 0,
    (fun _ h => nomatch h), by decide⟩

theorem witness_HstopEndsContexts_2 : ∃ (s : State) (a : Reg) (p : Nat),
    s.me.priv ≠ .user ∧ ((s.rx a).toNat) ≠ s.cur ∧ slotOfHart s s.cur = some p ∧ slotOfHart s ((s.rx a).toNat) = some p
    ∧ coreActive s s.cur = true ∧ (s.hart ((s.rx a).toNat)).mode ≠ .free ∧ 1 ∉ (s.hart ((s.rx a).toNat)).preempt :=
  ⟨two { usr [] with pc := 0x3000 } (fwh [(5, 0)]), 5, 0,
    by decide⟩

theorem witness_HstopEndsContexts_3 : ∃ (s : State) (a : Reg) (p : Nat),
    s.me.priv ≠ .user ∧ ((s.rx a).toNat) ≠ s.cur ∧ slotOfHart s s.cur = some p ∧ slotOfHart s ((s.rx a).toNat) = some p
    ∧ coreActive s s.cur = true ∧ (s.hart ((s.rx a).toNat)).mode = .free :=
  ⟨sys (fwh [(5, 3)]), 5, 0,
    by decide⟩

theorem witness_HstopEndsContexts_4 : ∃ (s : State) (a : Reg),
    s.me.priv ≠ .user ∧ (s.rx a).toNat ≠ s.cur ∧ slotOfHart s (s.rx a).toNat ≠ slotOfHart s s.cur :=
  ⟨sys (fwh [(5, 8)]), 5,
    by decide⟩

theorem witness_TyieldYields_0 : ∃ (s : State),
    noDemand s s.cur :=
  ⟨sys (usr [(5, 0xF000000040), (6, 0x8877665544332211), (7, 0xF000000043)]),
    by unfold noDemand; decide⟩

theorem witness_TyieldYields_1 : ∃ (s : State),
    ¬noDemand s s.cur :=
  ⟨yieldS .running,
    by unfold noDemand; decide⟩

theorem witness_TyieldYields_2 : ∃ (s : State) (handler : Bool),
    ¬noDemand s (s.input.hart) ∧ (s.hart (s.input.hart)).mode = .waiting .tyield handler ∧ 2 ∉ (s.hart (s.input.hart)).preempt
    ∧ s.hold.phase = .none :=
  ⟨yieldS (.waiting .tyield true), true,
    by unfold noDemand; decide, by decide⟩

theorem witness_TyieldYields_3 : ∃ (s : State) (handler : Bool),
    noDemand s (s.input.hart) ∧ (s.hart (s.input.hart)).mode = .waiting .tyield handler ∧ 2 ∉ (s.hart (s.input.hart)).preempt
    ∧ s.hold.phase = .none :=
  ⟨sys { usr [] with mode := .waiting .tyield false }, false,
    by unfold noDemand; decide, by decide⟩

theorem witness_YieldWindowExpires_0 : ∃ (s : State),
    s.hold.phase = .none ∧ (s.hart (s.input.hart)).yreq ≠ 0 ∧ (s.hart (s.input.hart)).mode ≠ .free ∧ 0 ∉ (s.hart (s.input.hart)).preempt :=
  ⟨sys { usr [] with yreq := 8, preempt := [2] },
    by decide⟩

theorem witness_ArbiterGivesFreeSlices_0 : ∃ (s : State) (i : Nat) (r : Reservation),
    (∀ j, j / 4 = s.input.core → j ≠ i → (s.hart j).resv = none ∧ ∀ ew n d a b, (s.hart j).mode ≠ .waiting (.lease ew n d a) b)
    ∧ (∀ ew n d a b, (s.hart i).mode ≠ .waiting (.lease ew n d a) b) ∧ s.hold.phase = .none ∧ (s.core s.input.core).arb = true
    ∧ i / 4 = s.input.core ∧ (s.hart i).resv = some r ∧ r.got = 0 ∧ (s.hart i).slices = 0 ∧ r.min ≤ r.pref ∧ 0 < r.min
    ∧ r.min ≤ popc8 (freeSlices s s.input.core) :=
  ⟨{ sys { resv := some { task := task0, min := 8, pref := 8 } } with cores := [(0, { arb := true })] }, 0,
    { task := task0, min := 8, pref := 8 },
    by
      intro j _ h
      rw [show State.hart _ j = ({} : Hart) from by simp [State.hart, sys, kget, Ne.symm h]]
      exact ⟨rfl, nofun⟩, nofun, by decide⟩

theorem witness_ArbiterGivesFreeSlices_1 : ∃ (s : State),
    (s.core s.input.core).arb = false :=
  ⟨sys (usr []),
    by decide⟩

theorem witness_ArbiterKeepsSlicesDisjoint_0 : ∃ (s : State),
    (∀ i j, i / 4 = s.input.core → j / 4 = s.input.core → i ≠ j → (s.hart i).heldSlices &&& (s.hart j).heldSlices = 0) :=
  ⟨sys { usr [] with uw := { grant := 0xFF } },
    (by
      intro i j _ _ h
      rcases Nat.eq_zero_or_pos i with rfl | p
      · rw [show (sys _).hart j = ({} : Hart) from by simp [State.hart, sys, kget, h]]; decide
      · rw [show (sys _).hart i = ({} : Hart) from by simp [State.hart, sys, kget]; omega]; simp [Hart.heldSlices, Hart.slices])⟩

theorem witness_VectorInstructionsQueue_0 : ∃ (s : State) (i : Instr),
    i.wf = true ∧ (vectorQueued i || matrixQueued i) = true ∧ (commitsFirst i = true ∨ (storesBytes i = true
    ∧ (s.me.committing = true ∨ 0x40000 < stripBytes s.me + (entryOf s i).storeBytes s.me))) :=
  ⟨sys { usr [] with gs := true }, .vamoxor 3 7 31 30 29,
    by decide, by decide, .inl (by decide)⟩

theorem witness_VectorInstructionsQueue_1 : ∃ (s : State) (i : Instr) (u : _),
    (commitsFirst i = true ∨ (storesBytes i = true ∧ (s.me.committing = true ∨ 0x40000 < stripBytes s.me + (entryOf s i).storeBytes s.me)))
    ∧ Committed s u ∧ (matrixQueued i = true → (u.core (coreOf s.cur)).owner = some s.cur) ∧ i.wf = true
    ∧ (vectorQueued i || matrixQueued i) = true ∧ s.me.guarded = true :=
  ⟨sys { usr [] with gs := true }, .vamoxor 3 7 31 30 29, (commitStrip (sys { usr [] with gs := true }) 0 0x3000 false).1,
    .inl (by decide), ⟨by decide, by decide, by decide, Prod.ext rfl (by decide), by decide⟩, nofun, by decide⟩

theorem witness_VectorInstructionsQueue_2 : ∃ (s : State) (i : Instr),
    QueueOpen s i ∧ (∀ e ∈ s.me.vq, ∀ w m d a, e.instr ≠ .vldFf w m d a) ∧ ¬ QueueTaken s i ∧ i.wf = true
    ∧ (vectorQueued i || matrixQueued i) = true ∧ queueLength s i < queueBound i :=
  ⟨sys { usr [] with vq := List.replicate 63 qf }, .vsel 1 7 31 30 29,
    ⟨.inl (by decide), nofun, nofun, nofun, .inl (by decide)⟩, by intro e h w m d a; rw [List.eq_of_mem_replicate h]; nofun, (by rintro ⟨_, _, _, h, _⟩; cases h), by decide⟩

theorem witness_VectorInstructionsQueue_3 : ∃ (s : State) (i : Instr),
    i.wf = true ∧ (vectorQueued i || matrixQueued i) = true ∧ QueueOpen s i
    ∧ (queueBound i ≤ queueLength s i ∨ (∃ e ∈ s.me.vq, ∃ w m d a, e.instr = .vldFf w m d a) ∨ QueueTaken s i) :=
  ⟨sysC { usr [] with mq := List.replicate 16 { qf with instr := .mzero 11 0, fault := none } } { owner := some 0 },
    .mmulF 11 1 31 true 31 30 7,
    by decide, by decide, ⟨.inl (by decide), fun _ => by decide, nofun, nofun, .inl (by decide)⟩, .inl (by decide)⟩

theorem witness_VectorInstructionsQueue_4 : ∃ (s : State) (i : Instr),
    i.wf = true ∧ (vectorQueued i || matrixQueued i) = true ∧ s.me.priv ≠ .user ∧ (s.me.level s.me.priv).stat.getLsbD 5 = true :=
  ⟨sys { sup [] with sup := { stat := 0x20 } }, .cbload 15 31,
    by decide⟩

theorem witness_VsetlSetsLength_0 : ∃ (s : State) (ew : BitVec 2) (n : BitVec 2) (d : Reg) (a : Reg),
    StripOpen s ∧ (s.me.priv ≠ .user ∨ (s.me.gs = false ∧ s.me.uw.guard.getLsbD 0 = false)) :=
  ⟨sys (usr [(5, 0xF000000040), (6, 0x8877665544332211), (7, 0xF000000043)]), 3, 3, 0, 0,
    ⟨.inl (by decide), by decide, (fun _ h => nomatch h), .inl (by decide)⟩, by decide⟩

theorem witness_VsetlBeginsStrip_0 : ∃ (s : State) (ew : BitVec 2) (n : BitVec 2) (d : Reg) (a : Reg),
    StripOpen s ∧ Drained s ∧ s.me.priv = .user ∧ s.me.gs = false ∧ s.me.uw.guard.getLsbD 0 = true :=
  ⟨sys { usr [] with uw := { guard := 1, grant := 0x801 } }, 2, 0, 7, 5,
    ⟨.inl (by decide), by decide, (fun _ h => nomatch h), .inl (by decide)⟩, by unfold Drained; decide, by decide⟩

theorem witness_VsetlTakesGrant_0 : ∃ (s : State) (ew : BitVec 2) (n : BitVec 2) (d : Reg) (a : Reg),
    StripOpen s ∧ Drained s ∧ (∀ j, j / 4 = coreOf s.cur → j ≠ s.cur → (s.hart j).mode = .free ∧ (s.hart j).resv = none
    ∧ (s.hart j).slices = 0) ∧ s.me.priv = .user ∧ s.me.gs = false ∧ s.me.resv = none ∧ s.me.yreq = 0 ∧ fld s.me.uw.lease 3 0 ≤ 8
    ∧ max 1 (fld s.me.uw.lease 3 0) ≤ popc8 s.me.slices :=
  ⟨sys { usr [] with uw := { lease := 0x88, grant := 0x40FF, guard := 2 } }, 0, 3, 7, 5,
    ⟨.inl (by decide), by decide, (fun _ h => nomatch h), .inl (by decide)⟩, by unfold Drained; decide, by
      intro j _ h
      rw [show (sys _).hart j = ({} : Hart) from by simp [State.hart, sys, kget, Ne.symm (show j ≠ 0 from h)]]
      exact ⟨rfl, rfl, by decide⟩, by decide⟩

theorem witness_GrantNeedsUser_0 : ∃ (s : State) (ew : BitVec 2) (n : BitVec 2) (d : Reg) (a : Reg),
    s.me.priv ≠ .user :=
  ⟨sys (fwh [(5, 0x5000), (6, 0x8877665544332211), (7, 0x5003)]), 0, 0, 1, 1,
    by decide⟩

theorem witness_VgrantReads_0 : ∃ (s : State) (d : Reg),
    (s.me.priv = .user ∨ (s.me.level s.me.priv).stat.getLsbD 5 = false) ∧ Drained s :=
  ⟨sys (usr [(5, 0xF000000040), (6, 0x8877665544332211), (7, 0xF000000043)]), 7,
    by decide, by unfold Drained; decide⟩

theorem witness_ScommitCommits_0 : ∃ (s : State),
    s.me.priv = .user ∧ s.me.gs = false :=
  ⟨sys (usr [(5, 0xF000000040), (6, 0x8877665544332211), (7, 0xF000000043)]),
    by decide, by decide⟩

theorem witness_ScommitCommits_1 : ∃ (s : State),
    Drained s ∧ Steady s ∧ (∀ b ∈ s.me.buf, ∀ pa n a, b.loc ≠ .fabric pa n a) ∧ (∀ r ∈ s.fab.requests, r.hart ≠ s.cur) ∧ s.me.priv = .user
    ∧ s.me.gs = true ∧ bufferError s s.cur = none ∧ s.pick = none ∧ s.me.storeFaults = [] :=
  ⟨sys { usr [] with gs := true, buf := [⟨.spad 0 0x40, [1], 0, 0xF000000040, false, none, 0, .core 0⟩] },
    by unfold Drained; decide, by unfold Steady; decide, by intro b h pa n a; rw [List.mem_singleton.mp h]; nofun, (fun _ h => nomatch h), by decide⟩

theorem witness_ScommitCommits_2 : ∃ (s : State) (n : Nat) (b : Held),
    Drained s ∧ Steady s ∧ (∀ pa n a, b.loc ≠ .fabric pa n a) ∧ (∀ o ∈ s.me.buf.drop (n + 1), b.add = none ∧ b.meets o = false
    ∧ ¬(b.dev = true ∧ o.dev = true)) ∧ s.me.priv = .user ∧ s.me.gs = true ∧ bufferError s s.cur = none ∧ s.pick = some n
    ∧ s.me.buf[n]? = some b ∧ 1 < s.me.buf.length ∧ (b.dev = true → devStoresOut s s.cur = false) :=
  ⟨{ sys { usr [] with gs := true, buf := [⟨.spad 0 0x40, [1], 0, 0xF000000040, false, none, 0, .core 0⟩, ⟨.spad 0 0x80, [1], 0, 0xF000000040, false, none, 0, .core 0⟩] } with pick := some 1 },
    1, ⟨.spad 0 0x80, [1], 0, 0xF000000040, false, none, 0, .core 0⟩,
    by unfold Drained; decide, by unfold Steady; decide, nofun, nofun, by decide⟩

theorem witness_DispatchStarts_0 : ∃ (s : State) (e : QEntry) (l : List QEntry),
    UnitsReady s (s.input.hart) ∧ (s.hart (s.input.hart)).vq = e :: l ∧ (s.hart (s.input.hart)).mq = [] ∧ e.dispatched = false
    ∧ e.fault = none ∧ dispatchCheck s (s.input.hart) e = .ok () :=
  ⟨sys { usr [] with uw := { grant := 0x801 }, vq := [{ qv with fw := 0xAAA }] }, { qv with fw := 0xAAA }, [],
    by constructor <;> decide, by decide⟩

theorem witness_ReservedFormatFaults_0 : ∃ (s : State) (e : QEntry) (l : List QEntry),
    UnitsReady s (s.input.hart) ∧ (s.hart (s.input.hart)).vq = e :: l ∧ (s.hart (s.input.hart)).mq = [] ∧ e.dispatched = false
    ∧ e.fault = none ∧ (s.hart (s.input.hart)).sram = [] ∧ (vshape e.instr).fw.isSome = true ∧ (fwRsv e.fw ≠ 0 ∨ fwRnd e.fw = 7) :=
  ⟨sys { usr [] with vq := [{ qv with instr := .vfuq 7 7 31 30 29, fw := 0x10000000 }] },
    { qv with instr := .vfuq 7 7 31 30 29, fw := 0x10000000 }, [],
    by constructor <;> decide, by decide⟩

theorem witness_GroupCommits_0 : ∃ (s : State) (e : QEntry) (l : List QEntry) (m : BitVec 3) (d : Reg) (a : Reg) (b : Reg) (f : Nat → Nat →
    Nat → Nat),
    CommitReady s (s.input.hart) e l ∧ laneArith e.instr = some (m, d, a, b, f) ∧ e.qa = none ∧ e.qb = none ∧ fwNb e.fw = 0
    ∧ fwA e.fw = fwD e.fw ∧ fwB e.fw = fwD e.fw :=
  ⟨groupS, groupE, [], 0, 1, 2, 3, fun w x y => (x + y) % 2 ^ w,
    ⟨by constructor <;> decide, rfl, rfl, by decide, by decide, by decide, by decide, by decide, by decide⟩, rfl, by decide⟩

theorem witness_LanesCommit_0 : ∃ (s : State) (e : QEntry) (l : List QEntry) (d : Reg) (m0 : Bool) (r : Nat → Res),
    CommitReady s (s.input.hart) e l ∧ (∀ x, laneResult (s.hart (s.input.hart)) e x = some (d, r x, m0)) :=
  ⟨vecS (vecE (.vfuq 0 0 1 2 3)), vecE (.vfuq 0 0 1 2 3), [], 1, true,
    fun x => ((laneResult (vecH (vecE (.vfuq 0 0 1 2 3))) (vecE (.vfuq 0 0 1 2 3)) x).getD (0, { bits := 0 }, false)).2.1,
    ⟨by constructor <;> decide, rfl, rfl, by decide, by decide, by decide, by decide, by decide, by decide⟩, (fun _ => rfl)⟩

theorem witness_MasksCommit_0 : ∃ (s : State) (e : QEntry) (l : List QEntry) (d : BitVec 3) (bit : Nat → Bool) (nv : Nat → Bool),
    CommitReady s (s.input.hart) e l ∧ e.vl ≤ 16384 ∧ (∀ x, maskResult (s.hart (s.input.hart)) e x = some (d, bit x, nv x)) :=
  ⟨vecS (vecE (.vfle 0 0 1 2 3)), vecE (.vfle 0 0 1 2 3), [], 1,
    fun x => ((maskResult (vecH (vecE (.vfle 0 0 1 2 3))) (vecE (.vfle 0 0 1 2 3)) x).getD (0, false, false)).2.1,
    fun x => ((maskResult (vecH (vecE (.vfle 0 0 1 2 3))) (vecE (.vfle 0 0 1 2 3)) x).getD (0, false, false)).2.2,
    ⟨by constructor <;> decide, rfl, rfl, by decide, by decide, by decide, by decide, by decide, by decide⟩, by decide, (fun _ => rfl)⟩

theorem witness_WholeCommits_0 : ∃ (s : State) (e : QEntry) (l : List QEntry) (d : Reg) (a : Reg) (y : Nat → Option (Option Nat)),
    (∀ x, movedFrom (s.hart (s.input.hart)) e x = some (d, a, y x)) ∧ CommitReady s (s.input.hart) e l ∧ e.k = 0 ∧ e.vl ≤ 16384 :=
  ⟨vecS { vecE (.vperm 0 0 1 2 3) with fw := 0xA00 }, { vecE (.vperm 0 0 1 2 3) with fw := 0xA00 }, [], 1, 2,
    fun x => ((movedFrom (vecH { vecE (.vperm 0 0 1 2 3) with fw := 0xA00 }) { vecE (.vperm 0 0 1 2 3) with fw := 0xA00 } x).getD (0, 0, none)).2.2,
    (fun _ => rfl), ⟨by constructor <;> decide, rfl, rfl, by decide, by decide, by decide, by decide, by decide, by decide⟩, by decide, by decide⟩

theorem witness_WholeCommits_1 : ∃ (s : State) (e : QEntry) (l : List QEntry) (m : BitVec 3) (f : BitVec 3) (o : BitVec 2) (d : Reg) (a :
    Reg),
    CommitReady s (s.input.hart) e l ∧ e.instr = .vred m f o d a ∧ e.k = 0 ∧ e.vl ≤ 16384 :=
  ⟨vecS (vecE (.vred 0 0 0 1 2)), vecE (.vred 0 0 0 1 2), [], 0, 0, 0, 1, 2,
    ⟨by constructor <;> decide, rfl, rfl, by decide, by decide, by decide, by decide, by decide, by decide⟩, by decide⟩

theorem witness_WholeCommits_2 : ∃ (s : State) (e : QEntry) (l : List QEntry) (m : BitVec 3) (f : BitVec 3) (o : BitVec 2) (d : Reg) (a :
    Reg),
    CommitReady s (s.input.hart) e l ∧ e.instr = .vscan m f o d a ∧ e.k = 0 ∧ e.vl ≤ 16384 :=
  ⟨vecS (vecE (.vscan 0 0 0 1 2)), vecE (.vscan 0 0 0 1 2), [], 0, 0, 0, 1, 2,
    ⟨by constructor <;> decide, rfl, rfl, by decide, by decide, by decide, by decide, by decide, by decide⟩, by decide⟩

theorem witness_WholeCommits_3 : ∃ (s : State) (e : QEntry) (l : List QEntry) (f : BitVec 3) (d : Reg),
    CommitReady s (s.input.hart) e l ∧ e.instr = .vxpose8 0 f d ∧ d.toNat + 7 ≤ 31 ∧ e.k = 0 ∧ e.vl ≤ 16384 :=
  ⟨vecS (vecE (.vxpose8 0 0 24)), vecE (.vxpose8 0 0 24), [], 0, 24,
    ⟨by constructor <;> decide, rfl, rfl, by decide, by decide, by decide, by decide, by decide, by decide⟩, by decide⟩

theorem witness_WholeCommits_4 : ∃ (s : State) (e : QEntry) (l : List QEntry) (d : Reg) (v : W64),
    CommitReady s (s.input.hart) e l ∧ scalarResult (s.hart (s.input.hart)) e = some (d, v) ∧ e.k = 0 ∧ e.vl ≤ 16384 :=
  ⟨vecS (vecE (.mpop 0 31 7)), vecE (.mpop 0 31 7), [], 31, 0,
    ⟨by constructor <;> decide, rfl, rfl, by decide, by decide, by decide, by decide, by decide, by decide⟩, by decide⟩

theorem witness_WholeCommits_5 : ∃ (s : State) (e : QEntry) (l : List QEntry) (d : BitVec 3),
    CommitReady s (s.input.hart) e l ∧ e.instr = .mfromvl d ∧ e.k = 0 ∧ e.vl ≤ 16384 :=
  ⟨vecS (vecE (.mfromvl 7)), vecE (.mfromvl 7), [], 7,
    ⟨by constructor <;> decide, rfl, rfl, by decide, by decide, by decide, by decide, by decide, by decide⟩, by decide⟩

theorem witness_WholeCommits_6 : ∃ (s : State) (e : QEntry) (l : List QEntry) (d : Reg) (a : Reg) (b : Reg),
    CommitReady s (s.input.hart) e l ∧ e.instr = .vmvv d a b ∧ e.k = 0 ∧ e.vl ≤ 16384 :=
  ⟨vecS (vecE (.vmvv 31 5 6)), vecE (.vmvv 31 5 6), [], 31, 5, 6,
    ⟨by constructor <;> decide, rfl, rfl, by decide, by decide, by decide, by decide, by decide, by decide⟩, by decide⟩

theorem witness_LoadsCommit_0 : ∃ (s : State) (e : QEntry) (l : List QEntry) (w : BitVec 2) (q : Bool) (d : Reg) (p : Nat → Loc),
    CommitReady s (s.input.hart) e l
    ∧ (∀ w m d a, e.instr = .vldFf w m d a → AccessesLand s (s.input.hart) e (memWidth w) .load ((List.range ((groupStop (s.hart (s.input.hart)).leff e) - e.k)).map (e.k + ·)) p)
    ∧ AccessesLand s (s.input.hart) e (memWidth w) .load (admitted (s.hart (s.input.hart)) e e.k (groupStop (s.hart (s.input.hart)).leff e)) p
    ∧ OwnPlaces e (groupStop (s.hart (s.input.hart)).leff e) (admitted (s.hart (s.input.hart)) e e.k (groupStop (s.hart (s.input.hart)).leff e)) p
    ∧ loadDest e.instr = some (w, q, d) ∧ e.qa = none ∧ e.qb = none
    ∧ (∀ x ∈ (admitted (s.hart (s.input.hart)) e e.k (groupStop (s.hart (s.input.hart)).leff e)), loadPoison s (s.input.hart) (vectorView (s.input.hart)) ⟨p x, false⟩ (memWidth w) = none)
    ∧ (q = true → queueFull (s.hart (s.input.hart)) e e.k = false ∧ d.toNat < 4) :=
  ⟨vecS (memE (.vld 2 false 0 31 5)), memE (.vld 2 false 0 31 5), [], 2, false, 31, fun x => .spad 0 (0x40 + 4 * x),
    ⟨by constructor <;> decide, rfl, rfl, by decide, by decide, by decide, by decide, by decide, by decide⟩, nofun, fun x h => ⟨by revert x h; decide, nofun⟩, .inr fun x _ => ⟨0, 0x40 + 4 * x, rfl⟩, by decide⟩

theorem witness_FirstFaultTrims_0 : ∃ (s : State) (e : QEntry) (l : List QEntry) (w : BitVec 2) (m : BitVec 3) (d : Reg) (a : Reg) (p : Nat
    → Loc) (k : Nat) (f : TrapInfo),
    CommitReady s (s.input.hart) e l ∧ AccessesLand s (s.input.hart) e (memWidth w) .load ((List.range (k - e.k)).map (e.k + ·)) p
    ∧ (∀ x ∈ (admitted (s.hart (s.input.hart)) e e.k k), ∃ c o, p x = .spad c o) ∧ e.instr = .vldFf w m d a ∧ e.k ≤ k ∧ 0 < k
    ∧ k < groupStop (s.hart (s.input.hart)).leff e
    ∧ (∀ x ∈ (admitted (s.hart (s.input.hart)) e e.k k), loadPoison s (s.input.hart) (vectorView (s.input.hart)) ⟨p x, false⟩ (memWidth w) = none)
    ∧ elemCheck s (s.input.hart) e (memWidth w) k .load = .error f ∧ f.cause ≠ 0x09 :=
  ⟨vecS { memE (.vldFf 2 0 31 5) with o1 := 0xF0003FFFFC }, { memE (.vldFf 2 0 31 5) with o1 := 0xF0003FFFFC }, [], 2, 0, 31, 5,
    fun x => .spad 0 (0x3FFFFC + 4 * x), 1, { cause := 0x06, val := 0xF000400000 },
    ⟨by constructor <;> decide, rfl, rfl, by decide, by decide, by decide, by decide, by decide, by decide⟩, fun x h => ⟨by revert x h; decide, nofun⟩, fun x _ => ⟨0, 0x3FFFFC + 4 * x, rfl⟩, by decide⟩

theorem witness_StoresCommit_0 : ∃ (s : State) (e : QEntry) (l : List QEntry) (w : BitVec 2) (d : Reg) (p : Nat → Loc) (c : _),
    CommitReady s (s.input.hart) e l
    ∧ AccessesLand s (s.input.hart) e (2 ^ w.toNat) .store (admitted (s.hart (s.input.hart)) e 0 (groupStop (s.hart (s.input.hart)).leff e)) p
    ∧ (∀ x ∈ (admitted (s.hart (s.input.hart)) e e.k (groupStop (s.hart (s.input.hart)).leff e)), ∃ o, p x = .spad c o
    ∧ o % (2 ^ w.toNat) = 0) ∧ vectorStore e.instr = some (w, d)
    ∧ ((admitted (s.hart (s.input.hart)) e 0 (groupStop (s.hart (s.input.hart)).leff e)).Pairwise (fun x y => p x ≠ p y))
    ∧ e.guarded (s.hart (s.input.hart)) = false ∧ progressOf e = 0 :=
  ⟨vecS (memE (.vst 2 0 31 5)), memE (.vst 2 0 31 5), [], 2, 31, fun x => .spad 0 (0x40 + 4 * x), 0,
    ⟨by constructor <;> decide, rfl, rfl, by decide, by decide, by decide, by decide, by decide, by decide⟩, fun x h => ⟨by revert x h; decide, nofun⟩, fun x _ => ⟨0x40 + 4 * x, rfl, by show (0x40 + 4 * x) % 4 = 0; omega⟩, by decide⟩

theorem witness_StoresCommit_1 : ∃ (s : State) (e : QEntry) (l : List QEntry) (w : BitVec 2) (d : Reg) (p : Nat → Loc) (x : _) (a : _),
    CommitReady s (s.input.hart) e l
    ∧ AccessesLand s (s.input.hart) e (2 ^ w.toNat) .store (admitted (s.hart (s.input.hart)) e 0 (groupStop (s.hart (s.input.hart)).leff e)) p
    ∧ MemoryForm s ∧ vectorStore e.instr = some (w, d)
    ∧ ((admitted (s.hart (s.input.hart)) e 0 (groupStop (s.hart (s.input.hart)).leff e)).Pairwise (fun x y => p x ≠ p y))
    ∧ e.guarded (s.hart (s.input.hart)) = false ∧ progressOf e = 0 ∧ (groupStop (s.hart (s.input.hart)).leff e) = e.k + 1
    ∧ (admitted (s.hart (s.input.hart)) e e.k (groupStop (s.hart (s.input.hart)).leff e)) = [x] ∧ p x = .mem a ∧ a % 64 + (2 ^ w.toNat) ≤ 64 :=
  ⟨vecS { memE (.vst 2 0 31 5) with o1 := 0x5000, vl := 1 }, { memE (.vst 2 0 31 5) with o1 := 0x5000, vl := 1 }, [], 2, 31,
    fun _ => .mem 0x5000, 0, 0x5000,
    ⟨by constructor <;> decide, rfl, rfl, by decide, by decide, by decide, by decide, by decide, by decide⟩, fun x h => ⟨by revert x h; decide, nofun⟩, ⟨by decide, fun _ => rfl, by decide, (fun _ _ h => nomatch h), (fun _ _ h => nomatch h)⟩, by decide⟩

theorem witness_StoresCommit_2 : ∃ (s : State) (e : QEntry) (l : List QEntry) (w : BitVec 2) (d : Reg) (p : Nat → Loc) (c : _) (o : _),
    CommitReady s (s.input.hart) e l
    ∧ AccessesLand s (s.input.hart) e (2 ^ w.toNat) .store (admitted (s.hart (s.input.hart)) e 0 (groupStop (s.hart (s.input.hart)).leff e)) p
    ∧ vectorStore e.instr = some (w, d)
    ∧ ((admitted (s.hart (s.input.hart)) e 0 (groupStop (s.hart (s.input.hart)).leff e)).Pairwise (fun x y => p x ≠ p y))
    ∧ e.guarded (s.hart (s.input.hart)) = false ∧ progressOf e ≠ 0 ∧ e.k % (s.hart (s.input.hart)).leff = 0
    ∧ (admitted (s.hart (s.input.hart)) e e.k (groupStop (s.hart (s.input.hart)).leff e)) = []
    ∧ locate s (s.input.hart) e.space false .store e.o2 = .ok ⟨.spad c o, false⟩ ∧ addPoison s (s.input.hart) (.spad c o) = none :=
  ⟨vecS { memE (.vstN 2 1 31 5) with o2 := 0xF0000FFFF8 }, { memE (.vstN 2 1 31 5) with o2 := 0xF0000FFFF8 }, [], 2, 31,
    fun x => .spad 0 (0x40 + 4 * x), 0, 0xFFFF8,
    ⟨by constructor <;> decide, rfl, rfl, by decide, by decide, by decide, by decide, by decide, by decide⟩, fun x h => ⟨by revert x h; decide, nofun⟩, by decide⟩

theorem witness_StoresCommit_3 : ∃ (s : State) (e : QEntry) (l : List QEntry) (w : BitVec 2) (d : Reg) (p : Nat → Loc),
    CommitReady s (s.input.hart) e l
    ∧ AccessesLand s (s.input.hart) e (2 ^ w.toNat) .store (admitted (s.hart (s.input.hart)) e 0 (groupStop (s.hart (s.input.hart)).leff e)) p
    ∧ vectorStore e.instr = some (w, d)
    ∧ ((admitted (s.hart (s.input.hart)) e 0 (groupStop (s.hart (s.input.hart)).leff e)).Pairwise (fun x y => p x ≠ p y))
    ∧ e.guarded (s.hart (s.input.hart)) = true ∧ progressOf e = 0 :=
  ⟨sys { vecH (memE (.vst 2 0 31 5)) with gs := true }, memE (.vst 2 0 31 5), [], 2, 31, fun x => .spad 0 (0x40 + 4 * x),
    ⟨by constructor <;> decide, rfl, rfl, by decide, by decide, by decide, by decide, by decide, by decide⟩, fun x h => ⟨by revert x h; decide, nofun⟩, by decide⟩

theorem witness_AtomicsCommit_0 : ∃ (s : State) (e : QEntry) (l : List QEntry) (w : BitVec 2) (d : Reg) (p : Nat → Loc) (c : Nat),
    CommitReady s (s.input.hart) e l
    ∧ (∀ x ∈ (admitted (s.hart (s.input.hart)) e e.k (groupStop 64 e)), chunkPlace s (s.input.hart) e (2 ^ w.toNat) ((admitted (s.hart (s.input.hart)) e e.k (groupStop 64 e)).filterMap fun x => (chunkCheck s (s.input.hart) e (2 ^ w.toNat) x).toOption) x = .ok ⟨p x, false⟩
    ∧ ∃ o, p x = .spad c o ∧ o % (2 ^ w.toNat) = 0) ∧ storeSrc e.instr = some (w, d) ∧ vectorStore e.instr = none
    ∧ (∀ x ∈ (admitted (s.hart (s.input.hart)) e e.k (groupStop 64 e)), ∀ y ∈ (admitted (s.hart (s.input.hart)) e e.k (groupStop 64 e)), p x = p y ↔ elemAddr (s.hart (s.input.hart)) e (2 ^ w.toNat) x = elemAddr (s.hart (s.input.hart)) e (2 ^ w.toNat) y) :=
  ⟨vecS (memE (.vamomax 2 0 31 5 30)), memE (.vamomax 2 0 31 5 30), [], 2, 31, fun _ => .spad 0 0x40, 0,
    ⟨by constructor <;> decide, rfl, rfl, by decide, by decide, by decide, by decide, by decide, by decide⟩, fun x h => ⟨by revert x h; decide, 0x40, rfl, by decide⟩, by decide⟩

theorem witness_CodebookLoads_0 : ∃ (s : State) (e : QEntry) (l : List QEntry) (t : BitVec 4) (a : Reg) (p : Loc),
    CommitReady s (s.input.hart) e l ∧ (∀ pa node a, p ≠ .fabric pa node a) ∧ e.instr = .cbload t a ∧ e.k = 0 ∧ e.vl = 1
    ∧ e.o1.toNat % 32 = 0 ∧ touchesBuffer (e.guarded (s.hart (s.input.hart))) (s.hart (s.input.hart)) (s.input.hart) e.o1 32 = false
    ∧ locate s (s.input.hart) e.space false .load e.o1 = .ok ⟨p, false⟩
    ∧ loadPoison s (s.input.hart) (vectorView (s.input.hart)) ⟨p, false⟩ 32 = none :=
  ⟨vecS { memE (.cbload 15 5) with vl := 1 }, { memE (.cbload 15 5) with vl := 1 }, [], 15, 5, .spad 0 0x40,
    ⟨by constructor <;> decide, rfl, rfl, by decide, by decide, by decide, by decide, by decide, by decide⟩, nofun, by decide⟩

theorem witness_MshapeClaims_0 : ∃ (s : State) (d : Reg) (a : Reg),
    (s.me.priv = .user ∨ (s.me.level s.me.priv).stat.getLsbD 5 = false) ∧ fld (s.rx a) 47 0 ≠ 0 ∧ (s.core (coreOf s.cur)).owner = none :=
  ⟨sys (usr [(5, 0x010001000100)]), 6, 5,
    by decide⟩

theorem witness_MshapeClaims_1 : ∃ (s : State) (d : Reg) (a : Reg),
    (s.me.priv = .user ∨ (s.me.level s.me.priv).stat.getLsbD 5 = false) ∧ fld (s.rx a) 47 0 ≠ 0 ∧ (s.core (coreOf s.cur)).owner = some s.cur :=
  ⟨sysC (usr [(5, 1)]) { owner := some 0 }, 6, 5,
    by decide⟩

theorem witness_MshapeClaims_2 : ∃ (s : State) (d : Reg) (a : Reg),
    (s.me.priv = .user ∨ (s.me.level s.me.priv).stat.getLsbD 5 = false) ∧ fld (s.rx a) 47 0 ≠ 0 ∧ (∃ j, j ≠ s.cur
    ∧ (s.core (coreOf s.cur)).owner = some j) :=
  ⟨sysC (usr [(5, 0x800000000000)]) { owner := some 3 }, 6, 5,
    by decide, by decide, ⟨3, by decide, by decide⟩⟩

theorem witness_MshapeClaims_3 : ∃ (s : State) (d : Reg) (a : Reg),
    (s.me.priv = .user ∨ (s.me.level s.me.priv).stat.getLsbD 5 = false) ∧ fld (s.rx a) 47 0 = 0 ∧ (s.core (coreOf s.cur)).owner = some s.cur
    ∧ s.me.mq = [] :=
  ⟨sysC (usr [(5, 0xFFFF000000000000)]) { owner := some 0 }, 6, 5,
    by decide⟩

theorem witness_MshapeClaims_4 : ∃ (s : State) (d : Reg) (a : Reg),
    (s.me.priv = .user ∨ (s.me.level s.me.priv).stat.getLsbD 5 = false) ∧ fld (s.rx a) 47 0 = 0 ∧ (s.core (coreOf s.cur)).owner ≠ some s.cur :=
  ⟨sysC (usr []) { owner := some 3 }, 6, 5,
    by decide⟩

theorem witness_MzeroClears_0 : ∃ (s : State) (e : QEntry) (l : List QEntry) (acc : BitVec 4) (cnt : BitVec 4),
    UnitsReady s (s.input.hart) ∧ (s.hart (s.input.hart)).mq = e :: l ∧ (s.hart (s.input.hart)).vq = [] ∧ e.fault = none
    ∧ (s.hart (s.input.hart)).sram = [] ∧ e.instr = .mzero acc cnt :=
  ⟨matS (matE (.mzero 11 0)), matE (.mzero 11 0), [], 11, 0,
    by constructor <;> decide, by decide⟩

theorem witness_MrdReadsRow_0 : ∃ (s : State) (e : QEntry) (l : List QEntry) (acc : BitVec 4) (f : Reg) (d : Reg) (b : Reg) (m : BitVec 3),
    MatrixReady s (s.input.hart) e l ∧ e.instr = .mrd acc f d b m ∧ e.vl ≤ 256
    ∧ e.vl * e.ewval ≤ e.gval * 256 * (s.hart (s.input.hart)).leff :=
  ⟨matS { matE (.mrd 11 24 31 5 0) with o2 := 63 }, { matE (.mrd 11 24 31 5 0) with o2 := 63 }, [], 11, 24, 31, 5, 0,
    ⟨by constructor <;> decide, rfl, rfl, by decide, by decide, by decide, by decide, by decide, by decide, by decide⟩, by decide⟩

theorem witness_BanksLoad_0 : ∃ (s : State) (e : QEntry) (l : List QEntry) (b : BitVec 1) (bs : Nat → List Byte),
    MatrixReady s (s.input.hart) e l ∧ bankNamed e.instr = some b ∧ e.sk ≤ 256 ∧ e.sn ≤ 256
    ∧ (∀ k, k < e.sk → rowCheck s (s.input.hart) e (bankRow (s.hart (s.input.hart)) e k) e.sn (fmtOf (fwB e.fw)).width = none
    ∧ windowRow s (s.input.hart) (bankRow (s.hart (s.input.hart)) e k) (packedBytes (fmtOf (fwB e.fw)).width e.sn) = .ok (bs k)) :=
  ⟨matS (matE (.mldb 1 24 5 6)), matE (.mldb 1 24 5 6), [], 1, fun _ => List.replicate 8 0,
    ⟨by constructor <;> decide, rfl, rfl, by decide, by decide, by decide, by decide, by decide, by decide, by decide⟩, by decide⟩

theorem witness_MmulAccumulates_0 : ∃ (s : State) (e : QEntry) (l : List QEntry) (acc : BitVec 4) (b : BitVec 1) (asrc : Bool) (oa : Reg) (m
    : BitVec 3) (ord : Bool) (A : Nat → List Nat) (y : Bank),
    MatrixReady s (s.input.hart) e l ∧ mmulForm e.instr = some (acc, b, asrc, oa, m, ord)
    ∧ (s.core (coreOf (s.input.hart))).banks[b.toNat]? = some y ∧ e.sn ≤ 256 ∧ e.sk ≤ 256
    ∧ (∀ r, r < e.sm → (s.hart (s.input.hart)).admits m r = true → rowOfA s (s.input.hart) e asrc oa r = .ok (A r)) :=
  ⟨matS { matE (.mmulO 11 1 24 false 2 3 0) with fw := 0x880 }, { matE (.mmulO 11 1 24 false 2 3 0) with fw := 0x880 }, [], 11, 1, false, 2,
    0, true, fun _ => [0, 0], {},
    ⟨by constructor <;> decide, rfl, rfl, by decide, by decide, by decide, by decide, by decide, by decide, by decide⟩, rfl, rfl, by decide⟩

theorem witness_MwrWritesRow_0 : ∃ (s : State) (e : QEntry) (l : List QEntry) (acc : BitVec 4) (f : Reg) (a : Reg) (b : Reg) (m : BitVec 3),
    MatrixReady s (s.input.hart) e l ∧ e.instr = .mwr acc f a b m ∧ e.vl ≤ 256 :=
  ⟨matS { matE (.mwr 11 24 31 5 0) with o2 := 63 }, { matE (.mwr 11 24 31 5 0) with o2 := 63 }, [], 11, 24, 31, 5, 0,
    ⟨by constructor <;> decide, rfl, rfl, by decide, by decide, by decide, by decide, by decide, by decide, by decide⟩, by decide, by decide⟩

theorem witness_MstStoresRows_0 : ∃ (s : State) (e : QEntry) (l : List QEntry) (acc : BitVec 4) (f : Reg) (a : Reg) (b : Reg) (m : BitVec 3)
    (k : Nat) (o : Nat → Nat),
    MatrixReady s (s.input.hart) e l
    ∧ (∀ r ∈ ((List.range e.sm).filter fun r => (s.hart (s.input.hart)).admits m r), ∃ ps, storeRowPlaces s (s.input.hart) e (e.o1 + BitVec.ofNat 64 r * e.o2) (packedBytes (codeWidth (fwD e.fw)) e.sn) (codeWidth (fwD e.fw)) = .ok ps
    ∧ ∀ q ∈ ps, q.2.1 = ⟨.spad k (o r + (q.1 - (e.o1 + BitVec.ofNat 64 r * e.o2)).toNat), false⟩) ∧ e.instr = .mst acc f a b m
    ∧ e.guarded (s.hart (s.input.hart)) = false
    ∧ (∀ r ∈ ((List.range e.sm).filter fun r => (s.hart (s.input.hart)).admits m r), ∀ q ∈ ((List.range e.sm).filter fun r => (s.hart (s.input.hart)).admits m r), r ≠ q → o r + (packedBytes (codeWidth (fwD e.fw)) e.sn) ≤ o q ∨ o q + (packedBytes (codeWidth (fwD e.fw)) e.sn) ≤ o r) :=
  ⟨matS (matE (.mst 11 24 5 6 0)), matE (.mst 11 24 5 6 0), [], 11, 24, 5, 6, 0, 0, fun r => 0x40 + 64 * r,
    ⟨by constructor <;> decide, rfl, rfl, by decide, by decide, by decide, by decide, by decide, by decide, by decide⟩, (by
      intro r h
      obtain rfl : r = 0 := by revert r h; decide
      exact ⟨_, rfl, by decide⟩), by decide⟩

theorem witness_MsigSigns_0 : ∃ (s : State) (e : QEntry) (l : List QEntry) (acc : BitVec 4) (d : Reg),
    MatrixReady s (s.input.hart) e l ∧ e.instr = .msig acc d :=
  ⟨matS (matE (.msig 11 31)), matE (.msig 11 31), [], 11, 31,
    ⟨by constructor <;> decide, rfl, rfl, by decide, by decide, by decide, by decide, by decide, by decide, by decide⟩, by decide⟩

theorem witness_MsclScales_0 : ∃ (s : State) (e : QEntry) (l : List QEntry) (acc : BitVec 4) (a : Reg) (m : BitVec 3),
    MatrixReady s (s.input.hart) e l ∧ e.instr = .mscl acc a m ∧ e.sn ≤ 256 :=
  ⟨matS (matE (.mscl 11 31 0)), matE (.mscl 11 31 0), [], 11, 31, 0,
    ⟨by constructor <;> decide, rfl, rfl, by decide, by decide, by decide, by decide, by decide, by decide, by decide⟩, by decide, by decide⟩

theorem witness_SbinitClears_0 : ∃ (s : State) (n : BitVec 5),
    Steady s ∧ barHeld s (coreOf s.cur) n.toNat = false :=
  ⟨sys (usr [(5, 0xF000000040), (6, 0x8877665544332211), (7, 0xF000000043)]), 31,
    by unfold Steady; decide, by decide⟩

theorem witness_SbexpectArms_0 : ∃ (s : State) (n : BitVec 5) (a : Reg),
    barHeld s (coreOf s.cur) n.toNat = false ∧ 0 < (s.rx a).toNat ∧ (s.rx a).toNat < 2 ^ 31 :=
  ⟨sys (usr [(5, 0x7FFFFFFF)]), 31, 5,
    by decide⟩

theorem witness_SbexpectArms_1 : ∃ (s : State) (n : BitVec 5) (a : Reg),
    (s.rx a = 0 ∨ 2 ^ 31 ≤ (s.rx a).toNat) :=
  ⟨sys (usr [(5, 0x80000000)]), 31, 5,
    by decide⟩

theorem witness_SbcancelAbandons_0 : ∃ (s : State) (n : BitVec 5),
    barHeld s (coreOf s.cur) n.toNat = false ∧ (s.bar (coreOf s.cur) n).st = .armed ∧ Steady s :=
  ⟨sysC (usr []) { bars := Vector.replicate 32 { st := .armed } }, 31,
    by decide, by decide, by unfold Steady; decide⟩

theorem witness_SbcancelAbandons_1 : ∃ (s : State) (n : BitVec 5),
    barHeld s (coreOf s.cur) n.toNat = false ∧ (s.bar (coreOf s.cur) n).st ≠ .armed :=
  ⟨sys (usr [(5, 0xF000000040), (6, 0x8877665544332211), (7, 0xF000000043)]), 0,
    by decide, by decide⟩

theorem witness_SbwaitAnswers_0 : ∃ (s : State) (n : BitVec 5) (d : Reg) (a : Reg),
    addPending s.me = true :=
  ⟨sys { usr [] with vq := [{ memE (.vstN 2 1 31 5) with o2 := 0x40 }] }, 31, 6, 5,
    by decide⟩

theorem witness_SbwaitAnswers_1 : ∃ (s : State) (n : BitVec 5) (d : Reg) (a : Reg),
    addPending s.me = false ∧ ((s.bar (coreOf s.cur) n).st) = .complete :=
  ⟨sysC (usr []) { bars := Vector.replicate 32 { st := .complete } }, 31, 6, 5,
    by decide, by decide⟩

theorem witness_SbwaitAnswers_2 : ∃ (s : State) (n : BitVec 5) (d : Reg) (a : Reg),
    addPending s.me = false ∧ ((s.bar (coreOf s.cur) n).st) = .broken :=
  ⟨sysC (usr []) { bars := Vector.replicate 32 { st := .broken } }, 31, 6, 5,
    by decide, by decide⟩

theorem witness_SbwaitAnswers_3 : ∃ (s : State) (n : BitVec 5) (d : Reg) (a : Reg),
    addPending s.me = false ∧ (((s.bar (coreOf s.cur) n).st) = .idle ∨ ((s.bar (coreOf s.cur) n).st) = .armed) ∧ s.rx a = 0 :=
  ⟨sysC (usr []) { bars := Vector.replicate 32 { st := .armed } }, 31, 6, 5,
    by decide⟩

theorem witness_SbwaitAnswers_4 : ∃ (s : State) (n : BitVec 5) (d : Reg) (a : Reg),
    addPending s.me = false ∧ (((s.bar (coreOf s.cur) n).st) = .idle ∨ ((s.bar (coreOf s.cur) n).st) = .armed) ∧ s.rx a ≠ 0 :=
  ⟨sys (usr [(5, 1)]), 31, 6, 5,
    by decide⟩

theorem witness_SbwaitAnswers_5 : ∃ (s : State) (d : Reg) (n : BitVec 5) (b : Bool),
    (s.hart (s.input.hart)).mode = .waiting (.sbwait d n false) b ∧ s.hold.phase = .none ∧ coreActive s (s.input.hart) = true :=
  ⟨sys { usr [] with mode := .waiting (.sbwait 6 31 false) true }, 6, 31, true,
    by decide⟩

theorem witness_CpcopyQueues_0 : ∃ (s : State) (u : State) (o : Bool) (c : BitVec 3) (d : Reg) (a : Reg) (b : Reg),
    c.toNat < 7 ∧ CopyOk s c.toNat b ∧ (s.me.pendingSeqs c.toNat).length < 16 :=
  ⟨sys { usr [(5, 0xF000000040), (30, 0x700000000040), (31, 0)] with gs := true },
    sys { usr [(5, 0xF000000040), (30, 0x700000000040), (31, 0)] with gs := true }, true, 6, 5, 5, 30,
    by decide, by unfold CopyOk; decide, by decide⟩

theorem witness_CpcopyQueues_1 : ∃ (s : State) (u : State) (o : Bool) (c : BitVec 3) (d : Reg) (a : Reg) (b : Reg),
    c.toNat < 7 ∧ CopyOk s c.toNat b ∧ (s.me.pendingSeqs c.toNat).length < 16 ∧ HandsOver s u :=
  ⟨sys { usr [(5, 0xF000000040), (30, 0x700000000040), (31, 0)] with ch := Vector.replicate 7 { copies := List.replicate 15 copy0 } },
    sys { usr [(5, 0xF000000040), (30, 0x700000000040), (31, 0)] with ch := Vector.replicate 7 { copies := List.replicate 15 copy0 } }, true,
    6, 5, 5, 30,
    by decide, by unfold CopyOk; decide, by decide, ⟨.inl ⟨by decide, rfl⟩, by decide, by unfold Steady; decide⟩⟩

theorem witness_CpdeclDeclares_0 : ∃ (s : State) (u : State) (c : BitVec 3) (a : Reg),
    HandsOver s u ∧ c.toNat < 7 ∧ s.rx a = 0 ∧ (s.me.chan c.toNat).copies = [] ∧ (c.toNat = 6 → s.me.frames = []) :=
  ⟨sys (usr [(5, 0xF000000040), (6, 0x8877665544332211), (7, 0xF000000043)]),
    sys (usr [(5, 0xF000000040), (6, 0x8877665544332211), (7, 0xF000000043)]), 6, 0,
    ⟨.inl ⟨by decide, rfl⟩, by decide, by unfold Steady; decide⟩, by decide⟩

theorem witness_CpdeclDeclares_1 : ∃ (s : State) (c : BitVec 3) (a : Reg),
    c.toNat < 6 ∧ (s.rx a).toNat % 64 = 0 ∧ (s.me.chan c.toNat).copies = [] :=
  ⟨sys { fwh [(5, 0x7800)] with gs := true }, 5, 5,
    by decide⟩

theorem witness_CpdeclDeclares_2 : ∃ (s : State) (u : State) (c : BitVec 3) (a : Reg) (bs : List Byte) (r : Stream),
    HandsOver s u ∧ readRange (besideHome u (s.rx a)) s.cur (spaceOf (besideHome u (s.rx a)) s.cur) false (s.rx a) 64 = .ok bs ∧ c.toNat < 6
    ∧ s.rx a ≠ 0 ∧ (s.rx a).toNat % 64 = 0 ∧ (s.me.chan c.toNat).copies = [] ∧ streamOf (wordsOf 8 bs) = some r :=
  ⟨streamS, streamS, 5, 5, (sys (fwh [])).mem.bytes 0x7800 64,
    { src := 0x9000, stride := 4, len := 1000, buf := 0xF000000000, slot := 64, nslots := 4, ew := 3, sb0 := 28 },
    ⟨.inl ⟨by decide, rfl⟩, by decide, by unfold Steady; decide⟩, (by decide +kernel), by decide⟩

theorem witness_CopyLands_0 : ∃ (s : State) (y : Copy) (l : List Copy) (n : Nat) (off : Nat) (p : Place) (q : Place),
    CopiesReady s (s.input.hart) ∧ (∀ pa node a, p.loc ≠ .fabric pa node a) ∧ (∀ pa node a, q.loc ≠ .fabric pa node a)
    ∧ ((y.src + BitVec.ofNat 64 (y.vstart + off)).toNat % 64 + n + 7 ≤ 64 ∨ (∃ core o, p.loc = .spad core o)) ∧ MemoryForm s
    ∧ (∀ pa, p.loc = .mem pa → pa % 64 = (y.src + BitVec.ofNat 64 (y.vstart + off)).toNat % 64)
    ∧ (∀ pa, q.loc = .mem pa → pa % 64 = (y.dst + BitVec.ofNat 64 (y.vstart + off)).toNat % 64) ∧ (s.input.queue) < 7
    ∧ ((s.hart (s.input.hart)).chan (s.input.queue)).copies = y :: l ∧ y.fault = none ∧ y.saved = [] ∧ y.pieces = []
    ∧ s.input.landing = .copy 0 n off ∧ (off = 0 ∨ (y.dst + BitVec.ofNat 64 (y.vstart + off)).toNat % 8 = 0)
    ∧ ordWaits (s.hart (s.input.hart)) (s.input.queue) y = false ∧ 0 < n ∧ (y.vstart + off) < fld y.ctl 39 0 ∧ y.ctl.getLsbD 45 = false
    ∧ outOfRegion y.src (y.src + BitVec.ofNat 64 (y.vstart + off)) = false
    ∧ outOfRegion y.dst (y.dst + BitVec.ofNat 64 (y.vstart + off)) = false
    ∧ commandPlace s (s.input.hart) y.space true .load (y.src + BitVec.ofNat 64 (y.vstart + off)) = .ok p
    ∧ commandPlace s (s.input.hart) y.space true .store (y.dst + BitVec.ofNat 64 (y.vstart + off)) = .ok q
    ∧ enginePoison s (dieOf (s.input.hart)) p.loc (64 - (y.src + BitVec.ofNat 64 (y.vstart + off)).toNat % 64) = none :=
  ⟨copyS, copy1, [], 41, 0, ⟨.mem 0x5010, false⟩, ⟨.mem 0x9010, false⟩,
    ⟨by constructor <;> decide, by decide⟩, nofun, nofun, .inl (by decide), ⟨by decide, fun _ => rfl, by decide, (fun _ _ h => nomatch h), (fun _ _ h => nomatch h)⟩, by rintro pa ⟨⟩; decide, by rintro pa ⟨⟩; decide, by decide⟩

theorem witness_CopyAsks_0 : ∃ (s : State) (y : Copy) (l : List Copy) (n : Nat) (pa : Nat) (a : Nat) (node : BitVec 16) (dev : Bool) (q :
    Place),
    CopiesReady s (s.input.hart) ∧ slotFree s (s.input.hart) = false ∧ (s.input.queue) < 7
    ∧ ((s.hart (s.input.hart)).chan (s.input.queue)).copies = y :: l ∧ y.fault = none ∧ y.pieces = [] ∧ y.asked = []
    ∧ s.input.landing = .copy 0 n 0 ∧ ordWaits (s.hart (s.input.hart)) (s.input.queue) y = false ∧ 0 < n ∧ y.vstart < fld y.ctl 39 0
    ∧ outOfRegion y.src (y.src + BitVec.ofNat 64 y.vstart) = false ∧ outOfRegion y.dst (y.dst + BitVec.ofNat 64 y.vstart) = false
    ∧ commandPlace s (s.input.hart) y.space true .load (y.src + BitVec.ofNat 64 y.vstart) = .ok ⟨.fabric pa node a, dev⟩
    ∧ commandPlace s (s.input.hart) y.space true .store (y.dst + BitVec.ofNat 64 y.vstart) = .ok q :=
  ⟨{ ev (sys { usr [] with ch := chan6 { copy0 with dst := 0x9000, src := 0x8000000000000, ctl := 0x800000000064, space := { priv := .fw, slot := some 0 } } }) { queue := 6, landing := .copy 0 64 0 } with fab := { requests := List.replicate 3072 request0 } },
    { copy0 with dst := 0x9000, src := 0x8000000000000, ctl := 0x800000000064, space := { priv := .fw, slot := some 0 } }, [], 64,
    0x8000000000000, 0, 5, false, ⟨.mem 0x9000, false⟩,
    ⟨by constructor <;> decide, by decide⟩, by decide +kernel, by decide⟩

theorem witness_CopyAsks_1 : ∃ (s : State) (y : Copy) (l : List Copy) (n : Nat) (pa : Nat) (a : Nat) (node : BitVec 16) (dev : Bool) (q :
    Place),
    CopiesReady s (s.input.hart) ∧ (s.input.queue) < 7 ∧ ((s.hart (s.input.hart)).chan (s.input.queue)).copies = y :: l ∧ y.fault = none
    ∧ y.pieces = [] ∧ y.asked = [] ∧ s.input.landing = .copy 0 n 0 ∧ ordWaits (s.hart (s.input.hart)) (s.input.queue) y = false ∧ 0 < n
    ∧ y.vstart < fld y.ctl 39 0 ∧ outOfRegion y.src (y.src + BitVec.ofNat 64 y.vstart) = false
    ∧ outOfRegion y.dst (y.dst + BitVec.ofNat 64 y.vstart) = false
    ∧ commandPlace s (s.input.hart) y.space true .load (y.src + BitVec.ofNat 64 y.vstart) = .ok ⟨.fabric pa node a, dev⟩
    ∧ commandPlace s (s.input.hart) y.space true .store (y.dst + BitVec.ofNat 64 y.vstart) = .ok q ∧ slotFree s (s.input.hart) = true
    ∧ fld s.fw.fnode 15 0 ≠ 0 :=
  ⟨{ ev (sys { usr [] with ch := chan6 { copy0 with dst := 0x9000, src := 0x8000000000000, ctl := 0x800000000064, space := { priv := .fw, slot := some 0 } } }) { queue := 6, landing := .copy 0 64 0 } with fab := { requests := [] } },
    { copy0 with dst := 0x9000, src := 0x8000000000000, ctl := 0x800000000064, space := { priv := .fw, slot := some 0 } }, [], 64,
    0x8000000000000, 0, 5, false, ⟨.mem 0x9000, false⟩,
    ⟨by constructor <;> decide, by decide⟩, by decide⟩

theorem witness_CopyCompletes_0 : ∃ (s : State) (y : Copy) (l : List Copy),
    CopiesReady s (s.input.hart) ∧ (s.input.queue) < 7 ∧ s.input.index = 0 ∧ ((s.hart (s.input.hart)).chan (s.input.queue)).copies = y :: l
    ∧ y.fault = none ∧ ordWaits (s.hart (s.input.hart)) (s.input.queue) y = false ∧ fld y.ctl 39 0 ≤ y.vstart ∧ y.ctl.getLsbD 47 = true
    ∧ y.ctl.getLsbD 46 = false :=
  ⟨copyD, { copy1 with vstart := 100 }, [],
    ⟨by constructor <;> decide, by decide⟩, by decide⟩

theorem witness_EpushAppends_0 : ∃ (s : State) (u : State) (a : Reg) (b : Reg) (f : Nat) (bs : List Byte),
    endpoint s (s.rx a) = some f ∧ (s.rx b).toNat % 64 = 0 ∧ f < 16 ∧ (s.fifo (dieOf s.cur) f).held < 8 :=
  ⟨sys { fwh [(5, 0x100), (6, 0x7800)] with gs := true }, sys { fwh [(5, 0x100), (6, 0x7800)] with gs := true }, 5, 6, 0,
    (sys (fwh [])).mem.bytes 0x7800 64,
    by decide⟩

theorem witness_EpushAppends_1 : ∃ (s : State) (u : State) (a : Reg) (b : Reg) (f : Nat) (bs : List Byte),
    HandsOver s u ∧ readRange (besideHome u (s.rx b)) s.cur (spaceOf (besideHome u (s.rx b)) s.cur) false (s.rx b) 64 = .ok bs
    ∧ endpoint s (s.rx a) = some f ∧ (s.rx b).toNat % 64 = 0 ∧ f < 16 ∧ (s.fifo (dieOf s.cur) f).held < 8 :=
  ⟨sys (fwh [(5, 0x100), (6, 0x7800)]), sys (fwh [(5, 0x100), (6, 0x7800)]), 5, 6, 0, (sys (fwh [])).mem.bytes 0x7800 64,
    ⟨.inl ⟨by decide, rfl⟩, by decide, by unfold Steady; decide⟩, (by decide +kernel), by decide⟩

theorem witness_EndpointsRead_0 : ∃ (s : State) (d : Reg) (a : Reg) (f : Nat),
    endpoint s (s.rx a) = some f ∧ f < 16 ∧ (s.fifo (dieOf s.cur) f).results = [] :=
  ⟨sys (fwh [(5, 0x100)]), 6, 5, 0,
    by decide⟩

theorem witness_EndpointsRead_1 : ∃ (s : State) (d : Reg) (a : Reg) (f : Nat) (r : _) (l : _),
    endpoint s (s.rx a) = some f ∧ f < 16 ∧ (s.fifo (dieOf s.cur) f).results = r :: l ∧ addPending s.me = true :=
  ⟨sysD { fwh [(5, 0x100)] with vq := [{ memE (.vstN 2 1 31 5) with o2 := 0x40 }] } { results := [9, 8] }, 6, 5, 0, 9, [8],
    by decide⟩

theorem witness_EndpointsRead_2 : ∃ (s : State) (d : Reg) (a : Reg) (f : Nat) (r : _) (l : _),
    endpoint s (s.rx a) = some f ∧ f < 16 ∧ (s.fifo (dieOf s.cur) f).results = r :: l ∧ addPending s.me = false :=
  ⟨sysD (fwh [(5, 0x100)]) { results := [9, 8] }, 6, 5, 0, 9, [8],
    by decide⟩

theorem witness_EndpointsRead_3 : ∃ (s : State) (d : Reg) (a : Reg) (f : Nat),
    endpoint s (s.rx a) = some f ∧ f < 16 ∧ (s.fifo (dieOf s.cur) f).results.length ≤ 8 :=
  ⟨sysD (fwh [(5, 0x100)]) { results := [9, 8, 7, 6, 5, 4, 3, 2] }, 6, 5, 0,
    by decide⟩

theorem witness_EndpointsRead_4 : ∃ (s : State) (d : Reg) (a : Reg),
    endpoint s (s.rx a) = none ∧ (s.me.guarded = false ∨ s.me.openBinding = false) :=
  ⟨sys (fwh [(5, 0x101)]), 6, 5,
    by decide, by decide⟩

theorem witness_EndpointsRead_5 : ∃ (s : State) (d : Reg) (a : Reg),
    endpoint s (s.rx a) = none :=
  ⟨sys (fwh [(5, 0x101)]), 6, 5,
    by decide⟩

theorem witness_EndpointsRead_6 : ∃ (s : State) (d : Reg) (a : Reg),
    endpoint s (s.rx a) = none :=
  ⟨sys (fwh [(5, 0x101)]), 6, 5,
    by decide⟩

theorem witness_CommandStarts_0 : ∃ (s : State) (c : ColCmd) (l : List ColCmd) (u : _) (r : _),
    startCommand s c = .ok (u, r) ∧ s.hold.phase = .none ∧ (s.input.queue) < 16 ∧ (s.fifo (s.input.die) (s.input.queue)).cmds = c :: l
    ∧ (s.fifo (s.input.die) (s.input.queue)).run = none ∧ (s.fifo (s.input.die) (s.input.queue)).waiting = [] :=
  ⟨startS, cmd0, [], left startS (startCommand startS cmd0), run0,
    rfl, by decide⟩

theorem witness_CommandStarts_1 : ∃ (s : State) (c : ColCmd) (l : List ColCmd),
    s.hold.phase = .none ∧ (s.input.queue) < 16 ∧ (s.fifo (s.input.die) (s.input.queue)).cmds = c :: l
    ∧ (s.fifo (s.input.die) (s.input.queue)).run = none ∧ (s.fifo (s.input.die) (s.input.queue)).waiting = [] ∧ c.ok = false :=
  ⟨sysD (fwh []) { cmds := [{ cmd0 with raw := [] }] }, { cmd0 with raw := [] }, [],
    by decide⟩

theorem witness_BucketReduces_0 : ∃ (s : State) (r : ColRun) (m0 : W64 × W64) (m1 : W64 × W64) (off : W64) (va0 : W64) (va1 : W64) (v0 :
    Nat) (v1 : Nat) (s1 : State) (s2 : State) (s3 : State) (u0 : State) (u1 : State) (w0 : State) (w1 : State),
    bucketReady s r (s.input.index) = .ok (s1, true) ∧ memberRead s1 r.cmd (s.input.index) va1 4 (elemIx 1 0) = .ok (s2, v1)
    ∧ memberRead s2 r.cmd (s.input.index) va0 4 (elemIx 0 0) = .ok (s3, v0)
    ∧ memberWrite s3 r.cmd (s.input.index) va0 4 (writeIx 0 0) ((v0 + v1) % 2 ^ 32) = .ok u0
    ∧ memberWrite u0 r.cmd (s.input.index) va1 4 (writeIx 1 0) ((v0 + v1) % 2 ^ 32) = .ok u1
    ∧ memberWrite u1 r.cmd (s.input.index) (m0.2 + BitVec.ofNat 64 (8 * (s.input.index))) 8 (clearIx 0) 0 = .ok w0
    ∧ memberWrite w0 r.cmd (s.input.index) (m1.2 + BitVec.ofNat 64 (8 * (s.input.index))) 8 (clearIx 1) 0 = .ok w1 ∧ s.hold.phase = .none
    ∧ (s.input.queue) < 16 ∧ (s.fifo (s.input.die) (s.input.queue)).run = some r ∧ r.rejected = false ∧ r.failed = none
    ∧ (s.input.index) ∉ r.done ∧ r.begun (s.input.index) = false ∧ ((List.range r.buckets.length).filter r.begun).length < 4
    ∧ r.ring = [m0, m1] ∧ r.buckets[(s.input.index)]? = some (off, 1, 10, 0) ∧ memberAddr m0.1 off 0 4 = .ok va0
    ∧ memberAddr m1.1 off 0 4 = .ok va1 ∧ v0 < 2 ^ 32 ∧ v1 < 2 ^ 32 :=
  ⟨bucketS, run0, (0xF100000000, 0xF100001000), (0xF100400000, 0xF100401000), 0, 0xF100000000, 0xF100400000, 1, 0xFFFFFFFF, bucketS1,
    bucketS2, bucketS3, bucketU0, bucketU1, bucketW0, bucketW1,
    ok_left _ _ _ (by decide +kernel), ok_left _ _ _ (by decide +kernel), ok_left _ _ _ (by decide +kernel), ok_written _ (by decide +kernel), ok_written _ (by decide +kernel), ok_written _ (by decide +kernel), ok_written _ (by decide +kernel), by decide⟩

theorem witness_CommandPosts_0 : ∃ (s : State) (r : ColRun),
    (∀ j, j < r.buckets.length → r.begun j = false) ∧ (∀ j, r.failed = some j → j < 64) ∧ s.hold.phase = .none ∧ (s.input.queue) < 16
    ∧ (s.fifo (s.input.die) (s.input.queue)).run = some r
    ∧ (r.rejected = true ∨ r.failed.isSome = true ∨ (∀ j, j < r.buckets.length → j ∈ r.done)) ∧ r.cmd.hasStamp = false ∧ r.cmd.hasUi = false
    ∧ r.cmd.hasRes = true ∧ (s.fifo (s.input.die) (s.input.queue)).results.length < 8 :=
  ⟨sysD (fwh []) { run := some { run0 with rejected := true, cmd := { cmd0 with raw := [1, 4] } }, results := [1, 2, 3, 4, 5, 6, 7] },
    { run0 with rejected := true, cmd := { cmd0 with raw := [1, 4] } },
    (by intro j _; rfl), nofun, by decide⟩

theorem witness_CommandPosts_1 : ∃ (s : State) (e : W64) (l : List (W64 × Option (Nat × BitVec 32 × W64))),
    s.hold.phase = .none ∧ (s.input.queue) < 16 ∧ (s.fifo (s.input.die) (s.input.queue)).waiting = (e, none) :: l
    ∧ (s.fifo (s.input.die) (s.input.queue)).results.length < 8 :=
  ⟨sysD (fwh []) { waiting := [(9, none)], results := [1, 2, 3, 4, 5, 6, 7] }, 9, [],
    by decide⟩

theorem witness_InitWrites_0 : ∃ (s : State) (e : QEntry) (l : List QEntry) (c : Nat) (o : Nat → Nat),
    GatherReady s (s.input.hart) e l ∧ e.instr = .ginit ∧ e.vl < 2 ^ 31
    ∧ (∀ x, e.k ≤ x → x < (groupStop 64 e) → ∃ w, EntryAt s (s.input.hart) e.space x c (o x) w)
    ∧ (∀ x y, e.k ≤ x → x < y → y < (groupStop 64 e) → o x ≠ o y) :=
  ⟨gatherS (memE .ginit) 7 [], memE .ginit, [], 0, fun x => 0x40 + 8 * x,
    ⟨by constructor <;> decide, rfl, rfl, by decide, by decide, by decide, by decide⟩, by decide, by decide, (by
      intro x _ h
      have h : x < 2 := h
      interval_cases x <;> exact ⟨0, by constructor <;> decide⟩), (by intro x y _ h _ e; have : 0x40 + 8 * x = 0x40 + 8 * y := e; omega)⟩

theorem witness_UniteLinks_0 : ∃ (s : State) (e : QEntry) (l : List QEntry) (m : BitVec 3) (d : Reg) (a : Reg) (b : Reg) (x : Nat) (c : Nat)
    (oa : Nat) (ob : Nat) (ol : Nat) (za : Nat) (zb : Nat),
    CommitReady s (s.input.hart) e l
    ∧ EntryAt s (s.input.hart) e.space ((s.hart (s.input.hart)).elem a.toNat 32 x) c oa (BitVec.ofNat 64 (rootWord za ((s.hart (s.input.hart)).elem a.toNat 32 x)))
    ∧ e.instr = .gunite m d a b ∧ admitted (s.hart (s.input.hart)) e e.k (groupStop (s.hart (s.input.hart)).leff e) = [x] ∧ za < 2 ^ 31
    ∧ zb < 2 ^ 31 ∧ ((s.hart (s.input.hart)).elem a.toNat 32 x) = ((s.hart (s.input.hart)).elem b.toNat 32 x) :=
  ⟨gatherS (gatE (.gunite 0 1 3 3)) 7 rootsB, gatE (.gunite 0 1 3 3), [], 0, 1, 3, 3, 0, 0, 0x48, 0x48, 0x80, 1, 1,
    ⟨by constructor <;> decide, rfl, rfl, by decide, by decide, by decide, by decide, by decide, by decide⟩, by constructor <;> decide, by decide⟩

theorem witness_UniteLinks_1 : ∃ (s : State) (e : QEntry) (l : List QEntry) (m : BitVec 3) (d : Reg) (a : Reg) (b : Reg) (x : Nat) (c : Nat)
    (oa : Nat) (ob : Nat) (ol : Nat) (za : Nat) (zb : Nat),
    CommitReady s (s.input.hart) e l
    ∧ EntryAt s (s.input.hart) e.space ((s.hart (s.input.hart)).elem a.toNat 32 x) c oa (BitVec.ofNat 64 (rootWord za ((s.hart (s.input.hart)).elem a.toNat 32 x)))
    ∧ EntryAt s (s.input.hart) e.space ((s.hart (s.input.hart)).elem b.toNat 32 x) c ob (BitVec.ofNat 64 (rootWord zb ((s.hart (s.input.hart)).elem b.toNat 32 x)))
    ∧ ((s.hart (s.input.hart)).marks ≠ [] → ((s.hart (s.input.hart)).uw.glog + BitVec.ofNat 64 (16 * (((s.hart (s.input.hart)).uw.gseq.toNat + 1) - (s.hart (s.input.hart)).marks.headD 0 - 1))).toNat + 16 ≤ (s.hart (s.input.hart)).uw.glogend.toNat
    ∧ gatherPlace s (s.input.hart) e.space (s.hart (s.input.hart)).uw.glog ((s.hart (s.input.hart)).uw.glog + BitVec.ofNat 64 (16 * (((s.hart (s.input.hart)).uw.gseq.toNat + 1) - (s.hart (s.input.hart)).marks.headD 0 - 1))) 16 = .ok ⟨.spad c ol, false⟩
    ∧ (∀ y ∈ [oa, ob], ol + 16 ≤ y ∨ y + 8 ≤ ol)) ∧ e.instr = .gunite m d a b
    ∧ admitted (s.hart (s.input.hart)) e e.k (groupStop (s.hart (s.input.hart)).leff e) = [x] ∧ za < 2 ^ 31 ∧ zb < 2 ^ 31
    ∧ ((s.hart (s.input.hart)).elem a.toNat 32 x) ≠ ((s.hart (s.input.hart)).elem b.toNat 32 x) ∧ oa ≠ ob ∧ za + zb < 2 ^ 31
    ∧ ((s.hart (s.input.hart)).uw.gseq.toNat + 1) < 2 ^ 31 :=
  ⟨gatherS (gatE (.gunite 0 1 2 3)) 7 rootsB, gatE (.gunite 0 1 2 3), [], 0, 1, 2, 3, 0, 0, 0x40, 0x48, 0x80, 1, 1,
    ⟨by constructor <;> decide, rfl, rfl, by decide, by decide, by decide, by decide, by decide, by decide⟩, by constructor <;> decide, by constructor <;> decide, fun _ => ⟨by decide, by decide, by decide⟩, by decide⟩

theorem witness_FindCompresses_0 : ∃ (s : State) (e : QEntry) (l : List QEntry) (m : BitVec 3) (d : Reg) (a : Reg) (x : Nat) (c : Nat) (oa :
    Nat) (z : _),
    CommitReady s (s.input.hart) e l
    ∧ EntryAt s (s.input.hart) e.space ((s.hart (s.input.hart)).elem a.toNat 32 x) c oa (BitVec.ofNat 64 (rootWord z ((s.hart (s.input.hart)).elem a.toNat 32 x)))
    ∧ e.instr = .gfind m d a ∧ admitted (s.hart (s.input.hart)) e e.k (groupStop (s.hart (s.input.hart)).leff e) = [x] ∧ z < 2 ^ 31 :=
  ⟨gatherS (gatE (.gfind 0 1 3)) 7 rootsB, gatE (.gfind 0 1 3), [], 0, 1, 3, 0, 0, 0x48, 1,
    ⟨by constructor <;> decide, rfl, rfl, by decide, by decide, by decide, by decide, by decide, by decide⟩, by constructor <;> decide, by decide⟩

theorem witness_FindCompresses_1 : ∃ (s : State) (e : QEntry) (l : List QEntry) (m : BitVec 3) (d : Reg) (a : Reg) (x : Nat) (c : Nat) (oa :
    Nat) (k : _) (r : _) (z : _) (q : _) (p : _) (ok : _) (or' : _),
    CommitReady s (s.input.hart) e l
    ∧ EntryAt s (s.input.hart) e.space ((s.hart (s.input.hart)).elem a.toNat 32 x) c oa (BitVec.ofNat 64 (linkWord q k))
    ∧ EntryAt s (s.input.hart) e.space k c ok (BitVec.ofNat 64 (linkWord p r))
    ∧ EntryAt s (s.input.hart) e.space r c or' (BitVec.ofNat 64 (rootWord z r)) ∧ e.instr = .gfind m d a
    ∧ admitted (s.hart (s.input.hart)) e e.k (groupStop (s.hart (s.input.hart)).leff e) = [x] ∧ z < 2 ^ 31 ∧ q < 2 ^ 31 ∧ p < 2 ^ 31 :=
  ⟨gatherS (gatE (.gfind 0 1 2)) 7 linksB, gatE (.gfind 0 1 2), [], 0, 1, 2, 0, 0, 0x40, 1, 2, 3, 1, 2, 0x48, 0x50,
    ⟨by constructor <;> decide, rfl, rfl, by decide, by decide, by decide, by decide, by decide, by decide⟩, by constructor <;> decide, by constructor <;> decide, by constructor <;> decide, by decide⟩

theorem witness_RelabelAdds_0 : ∃ (s : State) (e : QEntry) (l : List QEntry) (fs : Bool) (wb : Bool) (m : BitVec 3) (d : Reg) (a : Reg) (b :
    Reg) (c : Nat) (root : Nat → Nat) (o : Nat → Nat) (w : Nat → W64),
    CommitReady s (s.input.hart) e l
    ∧ (∀ x ∈ (admitted (s.hart (s.input.hart)) e e.k (groupStop 64 e)), rootOf s (s.input.hart) e.space ((s.hart (s.input.hart)).elem a.toNat 32 x) = .ok (s, root x, w x)
    ∧ gatherPlace s (s.input.hart) e.space e.o1 (e.o1 + BitVec.ofNat 64 (4 * root x)) 4 = .ok ⟨.spad c (o (root x)), false⟩)
    ∧ (∀ x ∈ (admitted (s.hart (s.input.hart)) e e.k (groupStop 64 e)), ∀ y ∈ (admitted (s.hart (s.input.hart)) e e.k (groupStop 64 e)), root x ≠ root y → o (root x) + 4 ≤ o (root y) ∨ o (root y) + 4 ≤ o (root x))
    ∧ e.instr = .grelabel fs wb m d a b ∧ (s.hart (s.input.hart)).buf = [] ∧ (wb = true → e.k = 0 ∧ (groupStop 64 e) = e.vl) :=
  ⟨gatherS { gatE (.grelabel true true 0 1 2 3) with o1 := 0xF000000100 } 7 rootsB,
    { gatE (.grelabel true true 0 1 2 3) with o1 := 0xF000000100 }, [], true, true, 0, 1, 2, 3, 0, fun _ => 0, fun r => 0x100 + 4 * r,
    fun _ => 0x8000000100000000,
    ⟨by constructor <;> decide, rfl, rfl, by decide, by decide, by decide, by decide, by decide, by decide⟩, (by
      intro x h
      obtain rfl : x = 0 := by revert x; decide
      exact ⟨rfl, by decide⟩), (fun _ _ _ _ h => absurd rfl h), by decide⟩

theorem witness_UndoUnlinks_0 : ∃ (s : State) (m : Nat) (k : Nat) (p : Nat) (c : Nat) (ok : Nat) (op : Nat) (ol : Nat) (z : Nat) (old : Nat)
    (num : Nat) (w : W64),
    Drained s ∧ EntryAt s s.cur (spaceOf s s.cur) k c ok w ∧ EntryAt s s.cur (spaceOf s s.cur) p c op (BitVec.ofNat 64 (rootWord z p))
    ∧ s.me.guarded = false ∧ s.me.marks.getLast? = some m ∧ m < (s.me.uw.gseq.toNat) ∧ (s.me.uw.gseq.toNat) < 2 ^ 31
    ∧ forestCheck s s.cur (spaceOf s s.cur) = .ok ()
    ∧ gatherPlace s s.cur (spaceOf s s.cur) s.me.uw.glog (s.me.uw.glog + BitVec.ofNat 64 (16 * ((s.me.uw.gseq.toNat) - s.me.marks.headD 0 - 1))) 16 = .ok ⟨.spad c ol, false⟩
    ∧ spadBytesAt s c ol 16 = toLE 4 k ++ toLE 4 p ++ toLE 4 old ++ toLE 4 num ∧ k < 2 ^ 31 ∧ p < 2 ^ 31 ∧ ok ≠ op ∧ old ≤ z ∧ z < 2 ^ 31 :=
  ⟨{ sys { usr [] with marks := [7], uw := { gforest := 0xF000000040, gcount := 2, glog := 0xF000000080, glogend := 0xF000000090, gseq := 8 } } with cores := [(0, { spad := loggedB })] },
    7, 0, 1, 0, 0x40, 0x48, 0x80, 2, 1, 8, 0x800000001,
    by unfold Drained; decide, by constructor <;> decide, by constructor <;> decide, by decide⟩

theorem witness_GsizeReads_0 : ∃ (s : State) (u : State) (d : Reg) (a : Reg) (e : W64),
    Drained s ∧ forestCheck s s.cur (spaceOf s s.cur) = .ok () ∧ ((s.rx a).toNat) < s.me.uw.gcount.toNat
    ∧ readEntry s s.cur (spaceOf s s.cur) ((s.rx a).toNat) = .ok (u, e) ∧ e.getLsbD 63 = true :=
  ⟨forestS, forestS, 6, 5, 0x8000000100000000,
    by unfold Drained; decide, by decide⟩

theorem witness_MarksPushAndPop_0 : ∃ (s : State) (d : Reg),
    Drained s ∧ s.me.guarded = false ∧ s.me.marks.length < 4 :=
  ⟨sys { usr [] with marks := [1, 2, 3] }, 6,
    by unfold Drained; decide, by decide, by decide⟩

theorem witness_MarksPushAndPop_1 : ∃ (s : State) (d : Reg),
    Drained s ∧ s.me.guarded = false ∧ 4 ≤ s.me.marks.length :=
  ⟨sys { usr [] with marks := [1, 2, 3, 4] }, 6,
    by unfold Drained; decide, by decide, by decide⟩

theorem witness_MarksPushAndPop_2 : ∃ (s : State),
    Drained s ∧ s.me.guarded = false :=
  ⟨sys { usr [] with marks := [1, 2, 3] },
    by unfold Drained; decide, by decide⟩

theorem witness_MarksPushAndPop_3 : ∃ (s : State),
    Drained s ∧ s.me.guarded = false ∧ s.me.marks = [] :=
  ⟨sys (usr [(5, 0xF000000040), (6, 0x8877665544332211), (7, 0xF000000043)]),
    by unfold Drained; decide, by decide, by decide⟩

theorem witness_MarksPushAndPop_4 : ∃ (s : State) (m : _),
    Drained s ∧ s.me.guarded = false ∧ s.me.marks.getLast? = some m ∧ fld s.me.uw.gseq 30 0 ≤ m
    ∧ forestCheck s s.cur (spaceOf s s.cur) = .ok () :=
  ⟨forestS, 7,
    by unfold Drained; decide, by decide⟩

theorem witness_LossScaleMoves_0 : ∃ (s : State) (d : Reg) (a : Reg),
    Drained s :=
  ⟨sys { usr [(5, 1)] with uw := { lscale := 0x01000000 } }, 6, 5,
    by unfold Drained; decide⟩

theorem witness_LossScaleMoves_1 : ∃ (s : State) (a : Reg),
    Drained s :=
  ⟨sys (usr [(5, 0xF000000040), (6, 0x8877665544332211), (7, 0xF000000043)]), 5,
    by unfold Drained; decide⟩

theorem witness_LossScaleMoves_2 : ∃ (s : State) (d : Reg) (a : Reg),
    (¬(s.me.vq = [] ∧ s.me.mq = [])) ∧ s.me.openBinding = false :=
  ⟨sys { usr [] with vq := [qv] }, 6, 5,
    by decide, by decide⟩

theorem witness_ChainPushes_0 : ∃ (s : State) (a : Reg) (bs : List Byte) (d : _),
    ChainOpen s ∧ (s.rx a).toNat % 64 = 0 ∧ (s.me.chan 6).stream = none
    ∧ readRange (homeRange s s.cur (spaceOf s s.cur) (s.rx a) 64) s.cur (spaceOf (homeRange s s.cur (spaceOf s s.cur) (s.rx a) 64) s.cur) false (s.rx a) 64 = .ok bs
    ∧ s.me.frames.length < 4 ∧ chainCheck (wordsOf 8 bs) = .ok d :=
  ⟨chainS [frame0, frame0, frame0], 5, (sys (fwh [])).mem.bytes 0x8000 64, desc0,
    by unfold ChainOpen Drained NoCopies; decide, by decide⟩

theorem witness_ChainPushes_1 : ∃ (s : State) (a : Reg) (bs : List Byte),
    ChainOpen s ∧ (s.rx a).toNat % 64 = 0 ∧ (s.me.chan 6).stream = none
    ∧ readRange (homeRange s s.cur (spaceOf s s.cur) (s.rx a) 64) s.cur (spaceOf (homeRange s s.cur (spaceOf s s.cur) (s.rx a) 64) s.cur) false (s.rx a) 64 = .ok bs
    ∧ 4 ≤ s.me.frames.length :=
  ⟨chainS [frame0, frame0, frame0, frame0], 5, (sys (fwh [])).mem.bytes 0x8000 64,
    by unfold ChainOpen Drained NoCopies; decide, by decide⟩

theorem witness_ChainPushes_2 : ∃ (s : State) (a : Reg) (bs : List Byte),
    ChainOpen s ∧ (s.rx a).toNat % 64 = 0 ∧ (s.me.chan 6).stream = none
    ∧ readRange (homeRange s s.cur (spaceOf s s.cur) (s.rx a) 64) s.cur (spaceOf (homeRange s s.cur (spaceOf s s.cur) (s.rx a) 64) s.cur) false (s.rx a) 64 = .ok bs
    ∧ s.me.frames.length < 4 ∧ chainFields (wordsOf 8 bs) (chainDescOf (wordsOf 8 bs)) = false :=
  ⟨sys (fwh [(5, 0x5000)]), 5, (sys (fwh [])).mem.bytes 0x5000 64,
    by unfold ChainOpen Drained NoCopies; decide, by decide⟩

theorem witness_ChainOrder_0 : ∃ (s : State) (a : Reg),
    s.me.uw.uicause.getLsbD 4 = false ∧ (s.rx a).toNat % 64 = 0 :=
  ⟨sys { fwh [(5, 0x8000)] with frames := [frame0] }, 5,
    by decide, by decide⟩

theorem witness_ChainOrder_1 : ∃ (s : State),
    s.me.uw.uicause.getLsbD 4 = false ∧ s.me.frames ≠ [] :=
  ⟨sys { usr [] with frames := [frame0] },
    by decide, by decide⟩

theorem witness_ChainOrder_2 : ∃ (s : State) (a : Reg) (i : Instr),
    (i = .chain a ∨ i = .chret ∨ i = .chabort) ∧ s.me.openBinding = true :=
  ⟨sys { usr [(5, 0x8001)] with q := openQ }, 5, .chain 5,
    .inl rfl, by decide⟩

theorem witness_ChretReturns_0 : ∃ (s : State) (f : Frame) (k : Nat) (p : Sched),
    ChainOpen s ∧ s.me.frames.getLast? = some f ∧ (f.phase = .inAdvance ∨ f.phase = .inAdjoint) ∧ s.rx 2 = f.sx2 ∧ s.rx 4 = f.sx4
    ∧ f.d.sigcheck = false ∧ f.repairs = [] ∧ (p.settled.next silentSteps).isSome = true
    ∧ (f.action = some (.advance k, p) ∨ f.action = some (.adjoint k, p)) :=
  ⟨sys { usr [] with frames := [{ frame1 with phase := .inAdvance }] }, { frame1 with phase := .inAdvance }, 0, sched2,
    by unfold ChainOpen Drained NoCopies; decide, by decide⟩

theorem witness_ChretReturns_1 : ∃ (s : State),
    s.me.openBinding = false ∧ s.me.frames = [] :=
  ⟨sys (usr [(5, 0xF000000040), (6, 0x8877665544332211), (7, 0xF000000043)]),
    by decide, by decide⟩

theorem witness_ChretReturns_2 : ∃ (s : State) (f : Frame),
    s.me.openBinding = false ∧ s.me.frames.getLast? = some f ∧ (f.phase = .inAdvance ∨ f.phase = .inAdjoint)
    ∧ s.me.uw.uicause.getLsbD 4 = false ∧ (s.rx 2 ≠ f.sx2 ∨ s.rx 4 ≠ f.sx4) :=
  ⟨sys { usr [(2, 1)] with frames := [{ frame1 with phase := .inAdjoint }] }, { frame1 with phase := .inAdjoint },
    by decide⟩

theorem witness_ChstatReads_0 : ∃ (s : State) (sel : BitVec 5) (d : Reg),
    Drained s :=
  ⟨sys (usr [(5, 0xF000000040), (6, 0x8877665544332211), (7, 0xF000000043)]), 31, 6,
    by unfold Drained; decide⟩

theorem witness_ChabortPops_0 : ∃ (s : State) (f : Frame),
    ChainOpen s ∧ s.me.frames.getLast? = some f :=
  ⟨sys { usr [] with frames := [frame0] }, frame0,
    by unfold ChainOpen Drained NoCopies; decide, by decide⟩

theorem witness_RoutineCalls_0 : ∃ (s : State) (f : Frame) (k : Nat) (p : Sched),
    SpineReady s (s.input.hart) f (.advance k) p :=
  ⟨sys { usr [] with frames := [frame1] }, frame1, 0, sched2,
    by constructor <;> decide⟩

theorem witness_RoutineCalls_1 : ∃ (s : State) (f : Frame) (k : Nat) (p : Sched),
    SpineReady s (s.input.hart) f (.adjoint k) p :=
  ⟨sys { usr [] with frames := [{ frame1 with sched := { todo := [.adj 16777215, .adj 0] } }] },
    { frame1 with sched := { todo := [.adj 16777215, .adj 0] } }, 16777215, { todo := [.adj 0] },
    by constructor <;> decide⟩

theorem witness_SpineCopies_0 : ∃ (s : State) (f : Frame) (j : Nat) (p : Sched) (w : Place) (v : Place),
    MemoryForm s ∧ SpineReady s (s.input.hart) f (.snap j) p ∧ SpineLine s (s.input.hart) f .load f.d.win w
    ∧ SpineLine s (s.input.hart) f .store (f.d.marks + BitVec.ofNat 64 (64 * j)) v ∧ s.input.index = 0 ∧ s.input.word = 0 ∧ f.d.wlen = 64
    ∧ f.d.sigcheck = false ∧ j < f.slots.length ∧ p.settled = p :=
  ⟨spineS { todo := [.snapNext, .adj 0] }, spineF { todo := [.snapNext, .adj 0] }, 0, { todo := [.adj 0], slots := [(0, 0)] },
    ⟨.mem 0x9000, false⟩, ⟨.mem 0xA000, false⟩,
    ⟨by decide, fun _ => rfl, by decide, (fun _ _ h => nomatch h), (fun _ _ h => nomatch h)⟩, by constructor <;> decide, ⟨by decide, by decide, nofun, by decide, by rintro pa ⟨⟩; decide⟩, ⟨by decide, by decide, nofun, by decide, by rintro pa ⟨⟩; decide⟩, by decide⟩

theorem witness_SpineCopies_1 : ∃ (s : State) (f : Frame) (j : Nat) (p : Sched) (w : Place) (v : Place),
    MemoryForm s ∧ SpineReady s (s.input.hart) f (.restore j) p
    ∧ SpineLine s (s.input.hart) f .load (f.d.marks + BitVec.ofNat 64 (64 * j)) v ∧ SpineLine s (s.input.hart) f .store f.d.win w
    ∧ s.input.index = 0 ∧ s.input.word = 0 ∧ f.d.wlen = 64 ∧ f.d.sigcheck = false ∧ j < f.slots.length ∧ p.settled = p :=
  ⟨spineS { todo := [.need 1, .adj 1], slots := [(63, 1)] }, spineF { todo := [.need 1, .adj 1], slots := [(63, 1)] }, 63,
    { todo := [.adj 1], slots := [(63, 1)], live := 1 }, ⟨.mem 0x9000, false⟩, ⟨.mem 0xAFC0, false⟩,
    ⟨by decide, fun _ => rfl, by decide, (fun _ _ h => nomatch h), (fun _ _ h => nomatch h)⟩, by constructor <;> decide, ⟨by decide, by decide, nofun, by decide, by rintro pa ⟨⟩; decide⟩, ⟨by decide, by decide, nofun, by decide, by rintro pa ⟨⟩; decide⟩, by decide⟩

theorem witness_SbarWrites_0 : ∃ (s : State),
    s.hold.phase ≠ .none :=
  ⟨{ sys (usr []) with hold := { phase := .stopped } },
    by decide⟩

theorem witness_SbarWrites_1 : ∃ (s : State),
    s.hold.phase = .none :=
  ⟨sys (usr []),
    by decide⟩

theorem witness_LogsPop_0 : ∃ (s : State) (p : Nat),
    slotOfHart s (s.input.hart) = some p ∧ (s.hart (s.input.hart)).priv ≠ .fw ∧ (s.part p).orphans = [] :=
  ⟨sys (usr [(5, 0xF000000040), (6, 0x8877665544332211), (7, 0xF000000043)]), 0,
    by decide⟩

theorem witness_LogsPop_1 : ∃ (s : State) (p : Nat),
    slotOfHart s (s.input.hart) = some p ∧ (s.hart (s.input.hart)).priv ≠ .fw ∧ (s.part p).errs = [] :=
  ⟨sys (usr [(5, 0xF000000040), (6, 0x8877665544332211), (7, 0xF000000043)]), 0,
    by decide⟩

theorem witness_LogsPop_2 : ∃ (s : State) (p : Nat) (e : _) (l : _),
    slotOfHart s (s.input.hart) = some p ∧ (s.hart (s.input.hart)).priv ≠ .fw ∧ (s.part p).orphans = e :: l ∧ e.cause < 16 ∧ e.unit < 256 :=
  ⟨sysP (sup []) { part0 with orphans := [⟨15, 255, 1, 9⟩] }, 0, ⟨15, 255, 1, 9⟩, [],
    by decide⟩

theorem witness_LogsPop_3 : ∃ (s : State) (p : Nat) (e : _) (l : _),
    slotOfHart s (s.input.hart) = some p ∧ (s.hart (s.input.hart)).priv ≠ .fw ∧ (s.part p).errs = e :: l ∧ e.act < 16 ∧ e.unit < 256
    ∧ e.hart < 4096 ∧ e.core < 4096 ∧ e.store < 16 :=
  ⟨sysP (sup []) { part0 with errs := [⟨9, 8, 15, 4095, 4095, 255, 15⟩] }, 0, ⟨9, 8, 15, 4095, 4095, 255, 15⟩, [],
    by decide⟩

theorem witness_WordsWrite_1 : ∃ (s : State) (mask : W64),
    (s.input.cw.toNat, mask) ∈ userFields ∧ 0x030 ≤ s.input.cw.toNat ∧ s.input.cw.toNat ≤ 0x033 :=
  ⟨ev (sys (usr [])) { cw := 0x033, word := ~~~0 }, 0x007FFFFFFFFFFFF0,
    by decide⟩

theorem witness_WordsWrite_2 : ∃ (s : State) (mask : W64),
    (s.input.cw.toNat, mask) ∈ userFields ∧ s.input.cw ∉ [0x030, 0x031, 0x032, 0x033, 0x048]
    ∧ (s.input.cw = 0x012 → (s.hart s.input.hart).priv = .user) :=
  ⟨ev (sys (usr [])) { cw := 0x042, word := ~~~0 }, 0x3E,
    by decide⟩

theorem witness_WordsWrite_3 : ∃ (s : State) (p : Nat),
    slotOfHart s s.input.hart = some p ∧ fld s.input.word 54 6 = 0 :=
  ⟨sys { usr [] with charge := 5 }, 0,
    by decide, by decide⟩

theorem witness_MeasurementExtends_0 : ∃ (s : State),
    s.boot.lock.getLsbD (fld s.input.word 2 0) = true :=
  ⟨ev { sys (fwh []) with boot := { stage := .started, lock := 0x80 } } { word := 7 },
    by decide⟩

theorem witness_MeasurementExtends_1 : ∃ (s : State),
    s.boot.lock.getLsbD (fld s.input.word 2 0) = false ∧ localMem (fld s.input.word 51 6 * 64) = true
    ∧ enginePoison s (dieOf s.cur) (.mem (fld s.input.word 51 6 * 64)) 64 = none ∧ s.boot.meas.length = 8 :=
  ⟨ev (sys (fwh [])) { word := 0x1FFFFFFFC7 },
    by decide⟩

theorem witness_HoldUpStoreReadsAndErases_1 : ∃ (s : State),
    s.hold.phase = .none :=
  ⟨sys (usr [(5, 0xF000000040), (6, 0x8877665544332211), (7, 0xF000000043)]),
    by decide⟩

theorem witness_HoldUpStoreReadsAndErases_2 : ∃ (s : State),
    s.hold.erasing = true :=
  ⟨{ sys (fwh []) with hold := { erasing := true } },
    by decide⟩

theorem witness_GateMoves_0 : ∃ (s : State),
    ((s.core (s.input.core)).gate) = .active ∧ (∀ i, i / 4 = (s.input.core) → letsGate s i = true) ∧ (∃ i n b, i / 4 = (s.input.core)
    ∧ (s.hart i).mode = .waiting (.pgate n) b) :=
  ⟨sys { sup [] with mode := .waiting (.pgate 1) false },
    by decide, by
      intro i h
      obtain rfl | rfl | rfl | rfl : i = 0 ∨ i = 1 ∨ i = 2 ∨ i = 3 := by simp only [sys] at h; omega
      all_goals decide, ⟨0, 1, false, by decide, by decide⟩⟩

theorem witness_GateMoves_1 : ∃ (s : State),
    ((s.core (s.input.core)).gate) = .draining :=
  ⟨sysC (sup []) { gate := .draining },
    by decide⟩

theorem witness_GateMoves_2 : ∃ (s : State),
    ((s.core (s.input.core)).gate) = .commit :=
  ⟨sysC (sup []) { gate := .commit },
    by decide⟩

theorem witness_GateMoves_3 : ∃ (s : State),
    s.hold.phase ≠ .none :=
  ⟨{ sysC (sup []) { gate := .gated } with hold := { phase := .stopped } },
    by decide⟩

theorem witness_GateMoves_4 : ∃ (s : State),
    ((s.core (s.input.core)).gate) = .gated ∧ s.hold.phase = .none :=
  ⟨sysC (sup []) { gate := .gated },
    by decide, by decide⟩

theorem witness_GateMoves_5 : ∃ (s : State),
    (((s.core (s.input.core)).gate) = .draining ∨ ((s.core (s.input.core)).gate) = .commit) ∧ s.hold.phase = .none :=
  ⟨sysC (sup []) { gate := .commit },
    by decide, by decide⟩

theorem witness_GateMoves_6 : ∃ (s : State),
    (((s.core (s.input.core)).gate) = .active ∨ ((s.core (s.input.core)).gate) = .waking) :=
  ⟨sysC (sup []) { gate := .waking },
    by decide⟩

theorem witness_GateMoves_7 : ∃ (s : State),
    ((s.core (s.input.core)).gate) = .waking ∧ s.hold.phase = .none :=
  ⟨sysC (sup []) { gate := .waking },
    by decide, by decide⟩

theorem witness_ApplyRefuses_0 : ∃ (s : State) (st : Nat),
    s.fw.fpBusy = false ∧ (s.input.slot) < 64 ∧ ((recordBad s (s.input.slot) (recordWords s (s.input.slot)) = true
    ∧ st = 1) ∨ (recordBad s (s.input.slot) (recordWords s (s.input.slot)) = false
    ∧ recordTaken s (s.input.slot) (partRecOf (recordWords s (s.input.slot))) = true
    ∧ st = 2) ∨ (recordBad s (s.input.slot) (recordWords s (s.input.slot)) = false
    ∧ recordTaken s (s.input.slot) (partRecOf (recordWords s (s.input.slot))) = false
    ∧ resourcesBusy s (s.input.slot) (partRecOf (recordWords s (s.input.slot))) = true ∧ st = 3)) :=
  ⟨ev (sysF (fwh [])) { slot := 63 }, 1,
    by decide, by decide, .inl ⟨by decide, rfl⟩⟩

theorem witness_ApplyMovesAndClears_0 : ∃ (s : State),
    s.fw.fpBusy = false ∧ (s.input.slot) < 64 ∧ recordBad s (s.input.slot) (recordWords s (s.input.slot)) = false
    ∧ recordTaken s (s.input.slot) (partRecOf (recordWords s (s.input.slot))) = false
    ∧ resourcesBusy s (s.input.slot) (partRecOf (recordWords s (s.input.slot))) = false :=
  ⟨ev (sysF (fwh [])) { slot := 1 },
    by decide⟩

theorem witness_DissolveClears_0 : ∃ (s : State),
    s.fw.fpBusy = false ∧ (s.input.slot) < 64 ∧ resourcesBusy s (s.input.slot) {} = false :=
  ⟨ev (sys {}) { slot := 0 },
    by decide⟩

theorem witness_DissolveClears_1 : ∃ (s : State),
    s.fw.fpBusy = false ∧ (s.input.slot) < 64 ∧ resourcesBusy s (s.input.slot) {} = true :=
  ⟨ev (sys (usr [])) { slot := 0 },
    by decide⟩

theorem witness_RamoSends_0 : ∃ (s : State) (u : State) (i : Instr) (op : AmoOp) (w : Bool) (d : Reg) (a : Reg) (b : Reg) (pa : Nat) (node :
    BitVec 16) (addr : Nat) (dev : Bool),
    remoteAtomicForm i = some (op, w, d, a, b) ∧ Lands s .rmw (s.rx a) (if w then 8 else 4) ⟨.fabric pa node addr, dev⟩ ∧ s.me.remote = none :=
  ⟨sys (fwh [(5, 0x8000000000004), (6, 7)]), sys (fwh [(5, 0x8000000000004), (6, 7)]), .ramocas false 7 5 6, .cas, false, 7, 5, 6,
    0x8000000000004, 5, 4, false,
    by decide, by unfold Lands; decide, by decide⟩

theorem witness_RamoSends_1 : ∃ (s : State) (u : State) (i : Instr) (op : AmoOp) (w : Bool) (d : Reg) (a : Reg) (b : Reg) (pa : Nat) (node :
    BitVec 16) (addr : Nat) (dev : Bool),
    Lands s .rmw (s.rx a) (if w then 8 else 4) ⟨.fabric pa node addr, dev⟩ ∧ CommitsFirst s u
    ∧ (fld u.me.uw.ramostat 2 0 = 1 → { u.me.ramo with held := false } = ramoRequest s op w d a b) ∧ slotFree u s.cur = false
    ∧ remoteAtomicForm i = some (op, w, d, a, b) ∧ s.me.remote = none ∧ fld u.fw.fnode 15 0 ≠ 0 :=
  ⟨fullS (fwh [(5, 0x8000000000004), (6, 7)]), fullS (fwh [(5, 0x8000000000004), (6, 7)]), .ramocas false 7 5 6, .cas, false, 7, 5, 6,
    0x8000000000004, 5, 4, false,
    by unfold Lands; decide, .inl ⟨by decide, rfl⟩, nofun, by decide +kernel, by decide⟩

theorem witness_RamoSends_2 : ∃ (s : State) (u : State) (i : Instr) (op : AmoOp) (w : Bool) (d : Reg) (a : Reg) (b : Reg) (pa : Nat) (node :
    BitVec 16) (addr : Nat) (dev : Bool),
    Lands s .rmw (s.rx a) (if w then 8 else 4) ⟨.fabric pa node addr, dev⟩ ∧ CommitsFirst s u
    ∧ (fld u.me.uw.ramostat 2 0 = 1 → { u.me.ramo with held := false } = ramoRequest s op w d a b)
    ∧ remoteAtomicForm i = some (op, w, d, a, b) ∧ s.me.remote = none ∧ fld u.fw.fnode 15 0 ≠ 0 ∧ slotFree u s.cur = true :=
  ⟨sys (fwh [(5, 0x8000000000004), (6, 7)]), sys (fwh [(5, 0x8000000000004), (6, 7)]), .ramocas false 7 5 6, .cas, false, 7, 5, 6,
    0x8000000000004, 5, 4, false,
    by unfold Lands; decide, .inl ⟨by decide, rfl⟩, nofun, by decide⟩

theorem witness_RamoCompletes_0 : ∃ (s : State) (i : Instr) (op : AmoOp) (w : Bool) (d : Reg) (a : Reg) (b : Reg) (pa : Nat) (node : BitVec
    16) (addr : Nat) (id : Nat) (dev : Bool) (x : RemoteResult) (old : _),
    Steady s ∧ (s.me.guarded = true → s.me.openBinding = false) ∧ Lands s .rmw (s.rx a) (if w then 8 else 4) ⟨.fabric pa node addr, dev⟩
    ∧ remoteAtomicForm i = some (op, w, d, a, b) ∧ s.me.remote = some ⟨id, false, some x⟩ ∧ x = .value old :=
  ⟨sys { fwh [(5, 0x8000000000000), (6, 7)] with remote := some ⟨3, false, some (.value 8)⟩ }, .ramomax true 0 5 6, .max, true, 0, 5, 6,
    0x8000000000000, 5, 0, 3, false, .value 8, 8,
    by unfold Steady; decide, nofun, by unfold Lands; decide, by decide⟩

theorem witness_RamoCompletes_1 : ∃ (s : State) (i : Instr) (op : AmoOp) (w : Bool) (d : Reg) (a : Reg) (b : Reg) (pa : Nat) (node : BitVec
    16) (addr : Nat) (id : Nat) (dev : Bool) (x : RemoteResult),
    Steady s ∧ (s.me.guarded = true → s.me.openBinding = false) ∧ Lands s .rmw (s.rx a) (if w then 8 else 4) ⟨.fabric pa node addr, dev⟩
    ∧ remoteAtomicForm i = some (op, w, d, a, b) ∧ s.me.remote = some ⟨id, false, some x⟩ ∧ x = .expired :=
  ⟨sys { fwh [(5, 0x8000000000000), (6, 7)] with remote := some ⟨3, false, some .expired⟩ }, .ramomax true 0 5 6, .max, true, 0, 5, 6,
    0x8000000000000, 5, 0, 3, false, .expired,
    by unfold Steady; decide, nofun, by unfold Lands; decide, by decide⟩

theorem witness_RamoCompletes_2 : ∃ (s : State) (i : Instr) (op : AmoOp) (w : Bool) (d : Reg) (a : Reg) (b : Reg) (pa : Nat) (node : BitVec
    16) (addr : Nat) (id : Nat) (dev : Bool) (x : RemoteResult),
    Steady s ∧ (s.me.guarded = true → s.me.openBinding = false) ∧ Lands s .rmw (s.rx a) (if w then 8 else 4) ⟨.fabric pa node addr, dev⟩
    ∧ remoteAtomicForm i = some (op, w, d, a, b) ∧ s.me.remote = some ⟨id, false, some x⟩ ∧ x = .busy :=
  ⟨sys { fwh [(5, 0x8000000000000), (6, 7)] with remote := some ⟨3, false, some .busy⟩ }, .ramomax true 0 5 6, .max, true, 0, 5, 6,
    0x8000000000000, 5, 0, 3, false, .busy,
    by unfold Steady; decide, nofun, by unfold Lands; decide, by decide⟩

theorem witness_RamoCompletes_3 : ∃ (s : State) (i : Instr) (op : AmoOp) (w : Bool) (d : Reg) (a : Reg) (b : Reg) (pa : Nat) (node : BitVec
    16) (addr : Nat) (id : Nat) (dev : Bool) (x : RemoteResult) (f : _),
    Steady s ∧ (s.me.guarded = true → s.me.openBinding = false) ∧ Lands s .rmw (s.rx a) (if w then 8 else 4) ⟨.fabric pa node addr, dev⟩
    ∧ remoteAtomicForm i = some (op, w, d, a, b) ∧ s.me.remote = some ⟨id, false, some x⟩ ∧ x = .named f :=
  ⟨sys { fwh [(5, 0x8000000000000), (6, 7)] with remote := some ⟨3, false, some (.named 255)⟩ }, .ramomax true 0 5 6, .max, true, 0, 5, 6,
    0x8000000000000, 5, 0, 3, false, .named 255, 255,
    by unfold Steady; decide, nofun, by unfold Lands; decide, by decide⟩

theorem witness_RamoCompletes_4 : ∃ (s : State) (i : Instr) (op : AmoOp) (w : Bool) (d : Reg) (a : Reg) (b : Reg) (pa : Nat) (node : BitVec
    16) (addr : Nat) (id : Nat) (dev : Bool) (x : RemoteResult),
    Steady s ∧ (s.me.guarded = true → s.me.openBinding = false) ∧ Lands s .rmw (s.rx a) (if w then 8 else 4) ⟨.fabric pa node addr, dev⟩
    ∧ remoteAtomicForm i = some (op, w, d, a, b) ∧ s.me.remote = some ⟨id, false, some x⟩ ∧ x = .keyRevoked :=
  ⟨sys { fwh [(5, 0x8000000000000), (6, 7)] with remote := some ⟨3, false, some .keyRevoked⟩ }, .ramomax true 0 5 6, .max, true, 0, 5, 6,
    0x8000000000000, 5, 0, 3, false, .keyRevoked,
    by unfold Steady; decide, nofun, by unfold Lands; decide, by decide⟩

theorem witness_RamoCompletes_5 : ∃ (s : State) (i : Instr) (op : AmoOp) (w : Bool) (d : Reg) (a : Reg) (b : Reg) (pa : Nat) (node : BitVec
    16) (addr : Nat) (id : Nat) (dev : Bool) (x : RemoteResult),
    Steady s ∧ (s.me.guarded = true → s.me.openBinding = false) ∧ Lands s .rmw (s.rx a) (if w then 8 else 4) ⟨.fabric pa node addr, dev⟩
    ∧ remoteAtomicForm i = some (op, w, d, a, b) ∧ s.me.remote = some ⟨id, false, some x⟩ ∧ x = .targetFault :=
  ⟨sys { fwh [(5, 0x8000000000000), (6, 7)] with remote := some ⟨3, false, some .targetFault⟩ }, .ramomax true 0 5 6, .max, true, 0, 5, 6,
    0x8000000000000, 5, 0, 3, false, .targetFault,
    by unfold Steady; decide, nofun, by unfold Lands; decide, by decide⟩

theorem witness_RamoTraps_0 : ∃ (s : State) (i : Instr) (op : AmoOp) (w : Bool) (d : Reg) (a : Reg) (b : Reg),
    remoteAtomicForm i = some (op, w, d, a, b) ∧ (s.me.guarded = true → s.me.openBinding = false)
    ∧ (s.rx a).toNat % (if w then 8 else 4) ≠ 0 :=
  ⟨sys (fwh [(5, 0x8000000000004)]), .ramoor true 7 5 6, .or, true, 7, 5, 6,
    by decide⟩

theorem witness_RamoTraps_1 : ∃ (s : State) (i : Instr) (op : AmoOp) (w : Bool) (d : Reg) (a : Reg) (b : Reg) (p : _),
    remoteAtomicForm i = some (op, w, d, a, b) ∧ (s.me.guarded = true → s.me.openBinding = false)
    ∧ Lands s .rmw (s.rx a) (if w then 8 else 4) p ∧ (∀ pa node addr, p.loc ≠ .fabric pa node addr) :=
  ⟨sys (fwh [(5, 0x5000)]), .ramoadd true 7 5 6, .add, true, 7, 5, 6, ⟨.mem 0x5000, false⟩,
    by decide, by decide, by unfold Lands; decide, nofun⟩

theorem witness_RamoTraps_2 : ∃ (s : State) (i : Instr) (op : AmoOp) (w : Bool) (d : Reg) (a : Reg) (b : Reg) (p : _) (u : _) (pa : _) (node
    : _) (addr : _),
    Lands s .rmw (s.rx a) (if w then 8 else 4) p ∧ CommitsFirst s u ∧ remoteAtomicForm i = some (op, w, d, a, b)
    ∧ (s.me.guarded = true → s.me.openBinding = false) ∧ p.loc = .fabric pa node addr ∧ s.me.remote = none ∧ fld u.me.uw.ramostat 2 0 = 1
    ∧ { u.me.ramo with held := false } ≠ ramoRequest s op w d a b :=
  ⟨sys { fwh [(5, 0x8000000000000)] with uw := { ramostat := 1 } }, .ramoadd true 7 5 6, .add, true, 7, 5, 6,
    ⟨.fabric 0x8000000000000 5 0, false⟩, sys { fwh [(5, 0x8000000000000)] with uw := { ramostat := 1 } }, 0x8000000000000, 5, 0,
    by unfold Lands; decide, .inl ⟨by decide, rfl⟩, by decide⟩

theorem witness_RequestsServed_0 : ∃ (s : State) (r : RemoteReq) (p : Nat),
    Served s r p ∧ r.addr < 0xC0000000000 ∧ ownsPa s (some p) r.addr = true ∧ ownsPa s (some p) (r.addr + r.width - 1) = true ∧ r.op = .load
    ∧ poisonAt s .home (.mem r.addr) r.width = none :=
  ⟨ev (sys {}) { request := some { doorbell with addr := 0x3FFFFFFF, width := 1, op := .load } },
    { doorbell with addr := 0x3FFFFFFF, width := 1, op := .load }, 0,
    ⟨by decide, by decide, by decide, by decide, nofun, by decide, by decide⟩, by decide⟩

theorem witness_RequestsServed_1 : ∃ (s : State) (r : RemoteReq) (p : Nat),
    Served s r p ∧ r.addr < 0xC0000000000 ∧ ownsPa s (some p) r.addr = true ∧ ownsPa s (some p) (r.addr + r.width - 1) = true
    ∧ r.op = .store :=
  ⟨ev (sys {}) { request := some { doorbell with addr := 0x3FFFFFFF, width := 1, op := .store } },
    { doorbell with addr := 0x3FFFFFFF, width := 1, op := .store }, 0,
    ⟨by decide, by decide, by decide, by decide, nofun, by decide, by decide⟩, by decide⟩

theorem witness_RequestsServed_2 : ∃ (s : State) (r : RemoteReq) (p : Nat) (op : _),
    Served s r p ∧ r.addr < 0xC0000000000 ∧ ownsPa s (some p) r.addr = true ∧ ownsPa s (some p) (r.addr + r.width - 1) = true
    ∧ r.op = .atomic op ∧ dedupFind s r = none ∧ r.retry = false ∧ s.fab.dedup.length < 65536
    ∧ poisonAt (recallL1 s (homeDie r.addr) none (r.addr / 64)) .home (.mem r.addr) r.width = none :=
  ⟨ev (sys {}) { request := some { doorbell with addr := 0x3FFFFFFF, width := 1, op := .atomic .minu } },
    { doorbell with addr := 0x3FFFFFFF, width := 1, op := .atomic .minu }, 0, .minu,
    ⟨by decide, by decide, by decide, by decide, nofun, by decide, by decide⟩, by decide⟩

theorem witness_RequestsServed_3 : ∃ (s : State) (r : RemoteReq) (p : Nat) (op : _) (e : _) (v : _),
    Served s r p ∧ r.addr < 0xC0000000000 ∧ ownsPa s (some p) r.addr = true ∧ ownsPa s (some p) (r.addr + r.width - 1) = true
    ∧ r.op = .atomic op ∧ dedupFind s r = some e ∧ e.result = some v :=
  ⟨ev { sys {} with fab := { dedup := [⟨7, 1, 2, 3, 4, some 9⟩] } } { request := some { doorbell with addr := 0x3FFFFFFF, width := 1, op := .atomic .add } },
    { doorbell with addr := 0x3FFFFFFF, width := 1, op := .atomic .add }, 0, .add, ⟨7, 1, 2, 3, 4, some 9⟩, 9,
    ⟨by decide, by decide, by decide, by decide, nofun, by decide, by decide⟩, by decide⟩

theorem witness_RequestsServed_4 : ∃ (s : State) (r : RemoteReq) (p : Nat) (op : _),
    Served s r p ∧ r.addr < 0xC0000000000 ∧ ownsPa s (some p) r.addr = true ∧ ownsPa s (some p) (r.addr + r.width - 1) = true
    ∧ r.op = .atomic op ∧ dedupFind s r = none ∧ r.retry = true :=
  ⟨ev (sys {}) { request := some { doorbell with addr := 0x3FFFFFFF, width := 1, op := .atomic .cas, retry := true } },
    { doorbell with addr := 0x3FFFFFFF, width := 1, op := .atomic .cas, retry := true }, 0, .cas,
    ⟨by decide, by decide, by decide, by decide, nofun, by decide, by decide⟩, by decide⟩

theorem witness_RequestsServed_5 : ∃ (s : State) (r : RemoteReq),
    s.input.request = some r ∧ fld s.fw.fnode 15 0 ≠ 0 ∧ s.hold.phase = .none ∧ 1 ≤ r.width ∧ r.width ≤ 8 ∧ slotOfKey s r.key = none :=
  ⟨ev (sys {}) { request := some { doorbell with key := 8 } }, { doorbell with key := 8 },
    by decide⟩

theorem witness_FabricEvents_1 : ∃ (s : State),
    s.input.index < 32 :=
  ⟨ev (sys {}) { index := 31 },
    by decide⟩

theorem witness_RequestsEnd_0 : ∃ (s : State) (r : Request) (w : RemoteWait),
    ((s.fab.requests.find? fun q => q.id = s.input.index) = some r) ∧ r.store = false ∧ r.engine = false ∧ (s.hart r.hart).remote = some w
    ∧ w.id = r.id ∧ fld s.fw.fnode 15 0 ≠ 0 ∧ fits r.msg s.input.result = true ∧ s.input.result ≠ .busy :=
  ⟨ev { sys { usr [] with remote := some ⟨3, false, none⟩ } with fab := { requests := [request0] } } { index := 3, result := .bytes [1, 2, 3, 4, 5, 6, 7, 8] },
    request0, ⟨3, false, none⟩,
    by decide⟩

theorem witness_RequestsEnd_1 : ∃ (s : State) (r : Request) (w : RemoteWait),
    ((s.fab.requests.find? fun q => q.id = s.input.index) = some r) ∧ r.store = false ∧ r.engine = false ∧ (s.hart r.hart).remote = some w
    ∧ w.id = r.id ∧ fld s.fw.fnode 15 0 ≠ 0 ∧ fits r.msg .busy = true ∧ s.input.result = .busy :=
  ⟨ev { sys { usr [] with remote := some ⟨3, false, none⟩ } with fab := { requests := [{ request0 with msg := .atomic 3 5 0 7 0 0 false .add true 1 0 }] } } { index := 3, result := .busy },
    { request0 with msg := .atomic 3 5 0 7 0 0 false .add true 1 0 }, ⟨3, false, none⟩,
    by decide⟩

theorem witness_RequestsEnd_2 : ∃ (s : State) (r : Request) (w : RemoteWait),
    ((s.fab.requests.find? fun q => q.id = s.input.index) = some r) ∧ r.store = false ∧ r.engine = false ∧ (s.hart r.hart).remote = some w
    ∧ w.id = r.id ∧ fld s.fw.fnode 15 0 ≠ 0 ∧ r.id ∈ s.fab.orphaned :=
  ⟨ev { sys { usr [] with remote := some ⟨3, false, none⟩ } with fab := { requests := [request0], orphaned := [3] } } { index := 3, result := .bytes [1] },
    request0, ⟨3, false, none⟩,
    by decide⟩

theorem witness_RequestsEnd_3 : ∃ (s : State) (r : Request) (w : RemoteWait),
    ((s.fab.requests.find? fun q => q.id = s.input.index) = some r) ∧ r.store = false ∧ r.engine = false ∧ (s.hart r.hart).remote = some w
    ∧ w.id = r.id ∧ fld s.fw.fnode 15 0 ≠ 0 ∧ s.fw.ffence.getLsbD 0 = true ∧ (∀ q ∈ s.fab.requests, q.id = r.id → q.busy = false) :=
  ⟨ev { sys { usr [] with remote := some ⟨3, false, none⟩ } with fab := { requests := [request0] }, fw := { ffence := 1, fnode := 9 } } { index := 3, result := .ack },
    request0, ⟨3, false, none⟩,
    by decide⟩

theorem witness_RequestsEnd_4 : ∃ (s : State) (r : Request) (w : RemoteWait),
    ((s.fab.requests.find? fun q => q.id = s.input.index) = some r) ∧ r.store = false ∧ r.engine = false ∧ (s.hart r.hart).remote = some w
    ∧ w.id = r.id ∧ fld s.fw.fnode 15 0 ≠ 0 ∧ r.busy = true :=
  ⟨ev { sys { usr [] with remote := some ⟨3, false, none⟩ } with fab := { requests := [{ request0 with busy := true }] } } { index := 3, result := .bytes [1] },
    { request0 with busy := true }, ⟨3, false, none⟩,
    by decide⟩

theorem witness_RequestsEnd_5 : ∃ (s : State) (r : Request) (w : RemoteWait),
    ((s.fab.requests.find? fun q => q.id = s.input.index) = some r) ∧ r.store = false ∧ r.engine = false ∧ (s.hart r.hart).remote = some w
    ∧ w.id = r.id ∧ fld s.fw.fnode 15 0 ≠ 0 ∧ r.busy = false :=
  ⟨ev { sys { usr [] with remote := some ⟨3, false, none⟩ } with fab := { requests := [request0] } } { index := 3, result := .bytes [1] },
    request0, ⟨3, false, none⟩,
    by decide⟩

theorem witness_RequestsEnd_6 : ∃ (s : State) (r : Request) (w : RemoteWait),
    ((s.fab.requests.find? fun q => q.id = s.input.index) = some r) ∧ r.store = false ∧ r.engine = false ∧ (s.hart r.hart).remote = some w
    ∧ w.id = r.id ∧ fld s.fw.fnode 15 0 ≠ 0 ∧ r.busy = true :=
  ⟨ev { sys { usr [] with remote := some ⟨3, false, none⟩ } with fab := { requests := [{ request0 with busy := true }] } } { index := 3, result := .bytes [1] },
    { request0 with busy := true }, ⟨3, false, none⟩,
    by decide⟩

theorem witness_RequestsEnd_7 : ∃ (s : State),
    fld s.fw.fnode 15 0 = 0 :=
  ⟨ev { sys (usr []) with fab := { requests := [request0] }, fw := {} } { index := 3, result := .bytes [1] },
    by decide⟩

theorem witness_RequestsEnd_8 : ∃ (s : State) (r : Request),
    ((s.fab.requests.find? fun q => q.id = s.input.index) = some r) ∧ r.engine = true ∧ fld s.fw.fnode 15 0 ≠ 0
    ∧ fits r.msg s.input.result = true ∧ s.input.result ≠ .busy :=
  ⟨ev { sys (usr []) with fab := { requests := [{ request0 with engine := true }] } } { index := 3, result := .bytes [1, 2, 3, 4, 5, 6, 7, 8] },
    { request0 with engine := true },
    by decide⟩

theorem witness_RequestsEnd_9 : ∃ (s : State) (r : Request),
    ((s.fab.requests.find? fun q => q.id = s.input.index) = some r) ∧ r.store = true ∧ r.engine = false ∧ r.busy = false :=
  ⟨ev { sys (usr []) with fab := { requests := [store0] } } { index := 3, result := .bytes [1] }, store0,
    by decide⟩

theorem witness_ScrubFinds_0 : ∃ (s : State) (pa : Nat) (p : Nat),
    s.input.granule = .line pa ∧ slotOfSegment s (segmentOf pa) = some p ∧ s.input.bad = false :=
  ⟨ev (sys {}) { granule := .line 0x3FFFFFFFC0 }, 0x3FFFFFFFC0, 0,
    by decide⟩

theorem witness_ScrubFinds_1 : ∃ (s : State) (pa : Nat) (p : Nat),
    s.input.granule = .line pa ∧ slotOfSegment s (segmentOf pa) = some p ∧ s.input.bad = true ∧ s.input.index = 0 ∧ s.poison = []
    ∧ (s.part p).errs.length < 64 :=
  ⟨ev (sys {}) { granule := .line 0x3FFFFFFFC0, bad := true }, 0x3FFFFFFFC0, 0,
    by decide⟩

theorem witness_InputLossStops_0 : ∃ (s : State),
    s.hold.phase = .none ∧ (∀ i, (s.hart i).midGather = false) :=
  ⟨sys (usr []),
    by decide, (by
      intro i
      by_cases h : i = 0
      · subst h; decide
      · rw [show (sys _).hart i = ({} : Hart) from by simp [State.hart, sys, kget, Ne.symm h]]; rfl)⟩

theorem witness_InputLossStops_1 : ∃ (s : State),
    s.input.index < 20 ∧ ((BitVec.ofNat 16 (s.fw.fthermal.toNat / 2 ^ 16)).toInt) ≤ ((Config.temperature s.ticks s.input.index).toInt) :=
  ⟨{ sys (usr []) with fw := { fthermal := 0x80000000 } },
    by decide, by
      have := BitVec.le_toInt (x := Config.temperature 0 0)
      exact this⟩

theorem witness_InputLossStops_2 (cold : (Config.temperature 0 0).toInt < 0x7FFF) : ∃ (s : State),
    s.input.index < 20 ∧ ((Config.temperature s.ticks s.input.index).toInt) < ((BitVec.ofNat 16 (s.fw.fthermal.toNat / 2 ^ 16)).toInt) :=
  ⟨{ sys (usr []) with fw := { fthermal := 0x7FFF0000 } },
    by decide, cold⟩

theorem witness_HoldUpRuns_0 : ∃ (s : State),
    s.hold.phase = .stopped :=
  ⟨{ sys (usr []) with hold := { phase := .stopped } },
    by decide⟩

theorem witness_HoldUpRuns_1 : ∃ (s : State),
    s.hold.phase = .writtenBack ∧ s.input.bad = false :=
  ⟨{ sys (usr []) with hold := { phase := .writtenBack } },
    by decide, by decide⟩

theorem witness_HoldUpRuns_2 : ∃ (s : State),
    s.hold.phase = .written :=
  ⟨{ sys (usr []) with hold := { phase := .written } },
    by decide⟩

theorem witness_ClockAndThrottleMove_2 : ∃ (s : State),
    1000 * (s.fw.fplim.toNat % 2 ^ 12) < (s.input.word.toNat) ∧ (s.power).step < 15 :=
  ⟨ev { sys (usr []) with power := { step := 14 } } { word := 2400001 },
    by decide, by decide⟩

theorem witness_ClockAndThrottleMove_3 : ∃ (s : State),
    1000 * (s.fw.fplim.toNat % 2 ^ 12) < (s.input.word.toNat) ∧ 15 ≤ (s.power).step ∧ 8 < (s.power).limClock :=
  ⟨ev { sys (usr []) with power := { step := 15, limClock := 9 } } { word := 2400001 },
    by decide⟩

theorem witness_ClockAndThrottleMove_4 (cold : hotDie (ev { sys (usr []) with power := { limClock := 15 } } { word := 2279999 }) = false) :
    ∃ (s : State),
    (s.input.word.toNat) < 950 * (s.fw.fplim.toNat % 2 ^ 12) ∧ hotDie s = false ∧ (s.power).limClock < 16 :=
  ⟨ev { sys (usr []) with power := { limClock := 15 } } { word := 2279999 },
    by decide, cold, by decide⟩

theorem witness_ClockAndThrottleMove_5 (cold : hotDie (ev { sys (usr []) with power := { step := 1 } } { word := 2279999 }) = false) : ∃ (s
    : State),
    hotDie s = false ∧ (s.input.word.toNat) < 950 * (s.fw.fplim.toNat % 2 ^ 12) ∧ 16 ≤ (s.power).limClock ∧ 0 < (s.power).step :=
  ⟨ev { sys (usr []) with power := { step := 1 } } { word := 2279999 },
    cold, by decide⟩

theorem witness_ClockAndThrottleMove_6 (cold : hotDie (ev { sys (usr []) with power := {  } } { word := 2280000 }) = false) : ∃ (s : State),
    950 * (s.fw.fplim.toNat % 2 ^ 12) ≤ (s.input.word.toNat) ∧ (s.input.word.toNat) ≤ 1000 * (s.fw.fplim.toNat % 2 ^ 12) ∧ hotDie s = false :=
  ⟨ev { sys (usr []) with power := {  } } { word := 2280000 },
    by decide, by decide, cold⟩

theorem witness_EnergyAndRampMove_1 : ∃ (s : State),
    fld s.fw.framp 15 0 ≠ 0 :=
  ⟨sys (usr [(5, 0xF000000040), (6, 0x8877665544332211), (7, 0xF000000043)]),
    by decide⟩

theorem witness_ResetBoots_0 : ∃ (s : State),
    imageOk s.input.bytesA = false ∧ imageOk s.input.bytesB = false :=
  ⟨sys (usr [(5, 0xF000000040), (6, 0x8877665544332211), (7, 0xF000000043)]),
    by decide, by decide⟩

theorem witness_AttestationAnswers_0 : ∃ (s : State),
    s.boot.stage = .noFirmware :=
  ⟨{ boot := { stage := .noFirmware } },
    by decide⟩

theorem witness_AttestationAnswers_1 : ∃ (s : State),
    s.boot.stage = .started ∧ s.input.bytesA.length = 32 :=
  ⟨ev (sys (fwh [])) { bytesA := List.replicate 32 255 },
    by decide, by decide⟩

theorem witness_DecodeEncodeAgree_0 : ∃ (i : Instr) (rest : List Byte),
    i.wf = true ∧ encode i ≠ [] :=
  ⟨.cpcopy true 6 31 31 30, [],
    by decide, by decide⟩

theorem witness_StepKeepsMemoryForm_0 : ∃ (s : State) (t : State),
    MemoryForm s ∧ step s = .next t :=
  ⟨{ boot := { stage := .noFirmware } }, tick { boot := { stage := .noFirmware } },
    ⟨by decide, fun _ => rfl, by decide, (fun _ _ h => nomatch h), (fun _ _ h => nomatch h)⟩, rfl⟩

theorem witness_PrivilegeRisesOnlyByTrap_0 : ∃ (s : State) (t : State) (i : Instr),
    encode i ≠ [] ∧ s.me.priv = .user ∧ exec i s = .next t :=
  ⟨sys (usr [(5, 0xF000000040), (6, 0x8877665544332211), (7, 0xF000000043)]),
    raise ((sys (usr [(5, 0xF000000040), (6, 0x8877665544332211), (7, 0xF000000043)])).setMe { (sys (usr [(5, 0xF000000040), (6, 0x8877665544332211), (7, 0xF000000043)])).me with pc := (sys (usr [(5, 0xF000000040), (6, 0x8877665544332211), (7, 0xF000000043)])).me.pc + 4 }) 0 { cause := 0x07, code := 1 },
    .svc 1,
    by decide, by decide, rfl⟩

theorem witness_StepRunsDecodedInstruction_0 : ∃ (s : State) (bs : List Byte),
    OnlyFrontEnd s ∧ Stands (fetchLines (tick s)) bs :=
  ⟨sys { fwh [] with pc := 0x3100 }, [0x32, 0, 0, 2],
    ⟨⟨rfl, rfl⟩, ⟨rfl, rfl⟩, by decide, ⟨.inl rfl, rfl, rfl⟩, ⟨rfl, rfl⟩, by decide, rfl, ⟨rfl, rfl, rfl⟩, by decide⟩, stands_tick _ _ (by decide)⟩

theorem witness_StepRunsDecodedInstruction_1 : ∃ (s : State) (bs : List Byte) (i : _) (n : _),
    OnlyFrontEnd s ∧ Stands (fetchLines (tick s)) bs ∧ decode bs = .ok (i, n) ∧ scalarPoison (fetchLines (tick s)).me i = none :=
  ⟨sys { fwh [] with pc := 0x3100 }, [0x32, 0, 0, 2], .sret, 4,
    ⟨⟨rfl, rfl⟩, ⟨rfl, rfl⟩, by decide, ⟨.inl rfl, rfl, rfl⟩, ⟨rfl, rfl⟩, by decide, rfl, ⟨rfl, rfl, rfl⟩, by decide⟩, stands_tick _ _ (by decide), by decide, by decide⟩

theorem witness_StepRunsDecodedInstruction_2 : ∃ (s : State) (bs : List Byte) (i : _) (n : _) (k : _) (t : _),
    OnlyFrontEnd s ∧ Stands (fetchLines (tick s)) bs ∧ decode bs = .ok (i, n) ∧ scalarPoison (fetchLines (tick s)).me i = some k
    ∧ exec i (fetchLines (tick s)) = .next t
    ∧ t ≠ raise (fetchLines (tick s)) (fetchLines (tick s)).cur { cause := 0x00, val := firstBits i }
    ∧ t ≠ raise (fetchLines (tick s)) (fetchLines (tick s)).cur { cause := 0x01, val := firstBits i } :=
  ⟨sys (markX5 { fwh [] with pc := 0x3180 }), [0x84, 0x53, 0, 0], .addi 7 5 0, 4, 2, _,
    ⟨⟨rfl, rfl⟩, ⟨rfl, rfl⟩, by decide, ⟨.inl rfl, rfl, rfl⟩, ⟨rfl, rfl⟩, by decide, rfl, ⟨rfl, rfl, rfl⟩, by decide⟩, stands_tick _ _ (by decide), by decide, by decide, rfl, (fun h => absurd (congrArg (fun u => u.me.mode) h) (by decide)), (fun h => absurd (congrArg (fun u => u.me.mode) h) (by decide))⟩

theorem witness_StepRunsDecodedInstruction_3 : ∃ (s : State) (bs : List Byte) (e : _),
    OnlyFrontEnd s ∧ Stands (fetchLines (tick s)) bs ∧ s.me.fetched = [] ∧ decode bs = .error e :=
  ⟨sys (fwh []), [0, 0, 0, 0], .major,
    ⟨⟨rfl, rfl⟩, ⟨rfl, rfl⟩, by decide, ⟨.inl rfl, rfl, rfl⟩, ⟨rfl, rfl⟩, by decide, rfl, ⟨rfl, rfl, rfl⟩, by decide⟩, stands_tick _ _ (by decide), by decide, by decide⟩

/-- A firmware image of one instruction, signed by the key of the seed 1. -/
def imagePub : List Byte := toLE 32 0xFCD43B685D06DFE696D6731B4D04B9AD95F08808291C959572DD1DDC0715CCCE
def image : List Byte :=
  toLE 8 0x4D4952564C4F5644 ++ toLE 8 5 ++ toLE 8 4 ++ toLE 8 0x10000 ++ toLE 8 0x10000 ++ toLE 8 1 ++ List.replicate 16 0 ++ imagePub
  ++ List.replicate 32 0 ++ toLE 64 0x07F3008EC3A6DFDDDF807C6825FDC8E7C458C8B4DD66239EA92362703DF08FCFF2C06A26E66331E4598A12478F8D09AA15601F717958BAF201794A8201CFF936 ++ [0x32, 0, 0, 2]

/-- The fused values are constants of the package that nothing in Lean can evaluate: for the package whose vendor key is the image's and
whose minimum version is the image's, the image verifies. -/
theorem witness_ResetBoots_1 (key : Config.vendorKeyHash = sha512 imagePub) (least : Config.minSvn = 5) : ∃ (s : State) (img : List Byte),
    (imageOk s.input.bytesA = true ∧ img = s.input.bytesA)
      ∨ (imageOk s.input.bytesA = false ∧ imageOk s.input.bytesB = true ∧ img = s.input.bytesB) :=
  ⟨ev (sys {}) { bytesA := image }, image, .inl ⟨by
    show imageOk image = true
    unfold imageOk; rw [key, least]
    decide +kernel, rfl⟩⟩


/-! ## Single steps, with results worked out from the rules by hand -/

/-- The hart after one instruction. -/
def after (i : Instr) (s : State) : Hart := match exec i s with
  | .next t => t.me
  | _ => {}

/-- Registers 5 and 6 hold two values at user privilege. -/
def pair (a b : W64) : State := sys (usr [(5, a), (6, b)])

/-- R149: the immediate is signed, and the sum wraps. -/
theorem test_addi_wraps : (after (.addi 7 5 0x7FFF) (pair 0 0)).getX 7 = 0xFFFFFFFFFFFFFFFF := by decide
/-- R150: a division by zero answers all ones, its remainder the dividend. -/
theorem test_div_by_zero : (after (.div 7 5 6) (pair 9 0)).getX 7 = 0xFFFFFFFFFFFFFFFF ∧ (after (.rem 7 5 6) (pair 9 0)).getX 7 = 9 := by
  decide
/-- R150: the high half of a signed times an unsigned number. -/
theorem test_mulhsu : (after (.mulhsu 7 5 6) (pair 0xFFFFFFFFFFFFFFFF 2)).getX 7 = 0xFFFFFFFFFFFFFFFF := by decide
/-- R130: register 0 stays zero. -/
theorem test_x0_is_zero : (after (.addi 0 5 1) (pair 3 0)).getX 0 = 0 := by decide
/-- R144: a compressed instruction moves the pc by 2. -/
theorem test_compressed_pc : (after (.cAddi 1 5) (pair 3 0)).pc = 0x3002 ∧ (after (.cAddi 1 5) (pair 3 0)).getX 13 = 1 := by decide
/-- R77: a misaligned load traps with cause 0x02 and its address. -/
theorem test_misaligned_load : (after (.ld64 7 5 0) (pair 0xF000000041 0)).sup.cause = 2
    ∧ (after (.ld64 7 5 0) (pair 0xF000000041 0)).sup.val = 0xF000000041 ∧ (after (.ld64 7 5 0) (pair 0xF000000041 0)).priv = .sup := by
  decide
/-- R163: `svc` saves the next address, `brk` its own. -/
theorem test_svc_brk_pc : (after (.svc 3) (pair 0 0)).sup.pc = 0x3004 ∧ (after (.brk 3) (pair 0 0)).sup.pc = 0x3000 := by decide
/-- 1.5 + 2.25 = 3.75 in FP32. -/
theorem test_fadd_fp32 : (after (.fadd 0 0 7 5 6) (pair 0x3FC00000 0x40100000)).getX 7 % 2 ^ 32 = 0x40700000 := by decide
/-- 2^24 + 1 lies half-way between two FP32 codes and rounds to the even one. -/
theorem test_fadd_ties_to_even : (after (.fadd 0 0 7 5 6) (pair 0x4B800000 0x3F800000)).getX 7 % 2 ^ 32 = 0x4B800000 := by decide
/-- An infinity times zero is invalid. -/
theorem test_fmul_invalid : (after (.fmul 0 0 7 5 6) (pair 0x7F800000 0)).getX 7 % 2 ^ 32 = 0x7FC00000 := by decide

/-- FIPS 180-4, the message "abc". -/
theorem test_sha512_abc : sha512 [0x61, 0x62, 0x63] = (toLE 64 0xDDAF35A193617ABACC417349AE20413112E6FA4E89A97EA20A9EEEE64B55D39A2192992A274FC1A836BA3C23A3FEEBBD454D4423643CE80E2A9AC94FA54CA49F).reverse := by
  decide +kernel
/-- RFC 8032, section 7.1, test 1: the signature of the empty message. -/
theorem test_ed25519_signature :
    ed25519Sign (BitVec.ofNat 256 (ofLE (toLE 32 0x9D61B19DEFFD5A60BA844AF492EC2CC44449C5697B326919703BAC031CAE7F60).reverse)) []
      = (toLE 64 0xE5564300C360AC729086E2CC806E828A84877F1EB8E5D974D873E065224901555FB8821590A33BACC61E39701CF9B46BD25BF5F0595BBE24655141438E7A100B).reverse := by
  decide +kernel

/-- R360: the check value of CRC-32C over the digits 1 to 9. -/
theorem test_crc32c_check : crc32 [0x31, 0x32, 0x33, 0x34, 0x35, 0x36, 0x37, 0x38, 0x39] = 0xE3069283 := by decide +kernel
/-- R183: the check value of CRC-64/ECMA-182 over the digits 1 to 9. -/
theorem test_crc64_check : crc64 [0x31, 0x32, 0x33, 0x34, 0x35, 0x36, 0x37, 0x38, 0x39] = 0x6C40DF5F0B497347 := by decide +kernel
/-- The published answer of Philox-4x32-10 for a zero key and counter. -/
theorem test_philox_zero : philox 0 0 0 0 0 0 = (0x6627E8D5, 0xE169C58D, 0xBC57AC4C, 0x9B00DBD8) := by decide +kernel

end Sys2Proof.Tests
end

section
/-! PROOF. The scalar integer instructions, branches and jumps: the frame of a register write, values as the integers of the tables, and
the words of the formats (R129, R130, R148 to R150, R154). -/

namespace Sys2Proof.Claim

open Sys2Proof Sys2Proof.Machine

/-! ## The frame of a scalar instruction (R130, R362) -/

/-- R130: what a register shows after a write to it and a move of the pc. -/
theorem rx_setX (s : State) (d : Reg) (v pc : W64) : (s.setMe { s.me.setX d v with pc := pc }).rx d = shown d v := by
  unfold State.rx
  rw [State.me_setMe]
  exact Hart.getX_setX s.me d v

/-- R362: the marks that a register write leaves are those of no register but the one written. -/
theorem setX_marks (h : Hart) (d : Reg) (v : W64) :
    (h.setX d v).sram = h.sram.filter fun m => !([d].any fun d => d != 0 && m.1 == .x d.toNat) := by
  rw [Hart.setX_sram]
  split
  · next z => simp [z]
  · next n =>
    simp only [List.any_cons, List.any_nil, Bool.or_false, bne_iff_ne.mpr n, Bool.true_and]
    rfl

/-- A register write and a move of the pc change nothing else. -/
theorem onlyRegs_setX (s : State) (d : Reg) (v pc : W64) : OnlyRegs s (s.setMe { s.me.setX d v with pc := pc }) [d] := by
  refine ⟨?_, fun r n => ?_, ?_, fun _ _ => rfl, fun _ _ => rfl⟩
  · rw [State.me_setMe]
    exact congrArg (fun h : Hart => s.setMe { h with pc := pc }) (Hart.setX_eq s.me d v)
  · unfold State.rx
    rw [State.me_setMe]
    exact Hart.getX_setX_ne s.me v (by simpa using n)
  · rw [State.me_setMe]
    exact setX_marks s.me d v

/-- A move of the pc changes nothing else. -/
theorem onlyRegs_pc (s : State) (pc : W64) : OnlyRegs s (s.setMe { s.me with pc := pc }) [] := by
  refine ⟨?_, fun r _ => ?_, ?_, fun _ _ => rfl, fun _ _ => rfl⟩
  · rw [State.me_setMe]
  · unfold State.rx
    rw [State.me_setMe]
    rfl
  · rw [State.me_setMe]
    simp

/-- R130: an instruction of four bytes that writes x[d]. -/
theorem write_runs (s : State) (d : Reg) (v : W64) :
    (s.write d v).rx d = shown d v ∧ (s.write d v).me.pc = s.me.pc + 4 ∧ OnlyRegs s (s.write d v) [d] := by
  have e : s.write d v = s.setMe { s.me.setX d v with pc := s.me.pc + 4 } := by
    simp [State.write, Hart.advance]
  rw [e]
  exact ⟨rx_setX s d v _, by rw [State.me_setMe], onlyRegs_setX s d v _⟩

/-! ## Words and integers -/

/-- A word is the number that it counts. -/
theorem eq_ofNat_of_toNat {x : W64} {n : Nat} (h : x.toNat = n) : x = BitVec.ofNat 64 n := by
  rw [← h, BitVec.ofNat_toNat, BitVec.setWidth_eq]

/-- A word is the integer that it stands for. -/
theorem eq_ofInt_of_toInt {x : W64} {z : Int} (h : x.toInt = z) : x = BitVec.ofInt 64 z := by
  rw [← h, BitVec.ofInt_toInt]

/-- A sign-extended field is its integer. -/
theorem sext_eq_ofInt {n : Nat} (i : BitVec n) : sext i = BitVec.ofInt 64 i.toInt := rfl

/-- A sign-extended field moved up is a multiple of its integer. -/
theorem sext_shiftLeft {n : Nat} (i : BitVec n) (k : Nat) : sext i <<< k = BitVec.ofInt 64 (2 ^ k * i.toInt) := by
  have pow : BitVec.twoPow 64 k = BitVec.ofInt 64 (2 ^ k) := by
    have cast : (2 ^ k : Int) = (2 ^ k : Nat) := by norm_cast
    rw [cast, BitVec.ofInt_natCast]
    exact BitVec.eq_of_toNat_eq (by rw [BitVec.toNat_twoPow, BitVec.toNat_ofNat])
  rw [BitVec.shiftLeft_eq_mul_twoPow, sext_eq_ofInt, BitVec.ofInt_mul, BitVec.mul_comm, pow]

/-- R130: the immediate of `lim` and `adpc`. -/
theorem up20_eq_ofInt (i : BitVec 20) : up20 i = BitVec.ofInt 64 (i.toInt * 4096) := by
  unfold up20
  rw [sext_shiftLeft, Int.mul_comm]
  rfl

theorem add_ofInt_eq (a : W64) (z : Int) : a + BitVec.ofInt 64 z = BitVec.ofInt 64 (a.toInt + z) := by
  rw [BitVec.ofInt_add, BitVec.ofInt_toInt]

theorem add_ofInt_eq_toNat (a : W64) (z : Int) : a + BitVec.ofInt 64 z = BitVec.ofInt 64 (a.toNat + z) := by
  rw [BitVec.ofInt_add, BitVec.ofInt_natCast, BitVec.ofNat_toNat, BitVec.setWidth_eq]

theorem sub_eq_ofInt (a b : W64) : a - b = BitVec.ofInt 64 (a.toInt - b.toInt) :=
  BitVec.eq_of_toInt_eq (by rw [BitVec.toInt_sub, BitVec.toInt_ofInt])

theorem and_eq_ofNat (a b : W64) : a &&& b = BitVec.ofNat 64 (a.toNat &&& b.toNat) := eq_ofNat_of_toNat (BitVec.toNat_and a b)
theorem or_eq_ofNat (a b : W64) : a ||| b = BitVec.ofNat 64 (a.toNat ||| b.toNat) := eq_ofNat_of_toNat (BitVec.toNat_or a b)
theorem xor_eq_ofNat (a b : W64) : a ^^^ b = BitVec.ofNat 64 (a.toNat ^^^ b.toNat) := eq_ofNat_of_toNat (BitVec.toNat_xor a b)
theorem andn_eq_ofNat (a b : W64) : a &&& ~~~b = BitVec.ofNat 64 (a.toNat &&& (2 ^ 64 - 1 - b.toNat)) :=
  eq_ofNat_of_toNat (by rw [BitVec.toNat_and, BitVec.toNat_not])

theorem shiftLeft_eq_ofNat (a : W64) (n : Nat) : a <<< n = BitVec.ofNat 64 (a.toNat * 2 ^ n) :=
  BitVec.eq_of_toNat_eq (by rw [BitVec.toNat_shiftLeft, Nat.shiftLeft_eq, BitVec.toNat_ofNat])
theorem shiftRight_eq_ofNat (a : W64) (n : Nat) : a >>> n = BitVec.ofNat 64 (a.toNat / 2 ^ n) :=
  eq_ofNat_of_toNat (by rw [BitVec.toNat_ushiftRight, Nat.shiftRight_eq_div_pow])
theorem sshiftRight_eq_shiftSigned (a : W64) (n : Nat) : a.sshiftRight n = shiftSigned a n := by
  rw [BitVec.sshiftRight_eq, Int.shiftRight_eq_div_pow]
  norm_cast

theorem bit64_decide (p : Prop) [Decidable p] : bit64 (decide p) = flag p := by
  unfold bit64 flag
  simp
theorem bit64_slt (a b : W64) : bit64 (a.slt b) = flag (a.toInt < b.toInt) := by rw [BitVec.slt_eq_decide, bit64_decide]
theorem bit64_ult (a b : W64) : bit64 (a.ult b) = flag (a.toNat < b.toNat) := by rw [BitVec.ult_eq_decide, bit64_decide]
theorem bit64_slt_sext (a : W64) (i : BitVec 14) : bit64 (a.slt (sext i)) = flag (a.toInt < i.toInt) := by
  rw [bit64_slt, sext, BitVec.toInt_signExtend_of_le (by decide)]

theorem smin_eq_ofInt (a b : W64) : (if b.slt a then b else a) = BitVec.ofInt 64 (min a.toInt b.toInt) := eq_ofInt_of_toInt (by
  simp only [BitVec.slt_iff_toInt_lt]
  split <;> omega)
theorem smax_eq_ofInt (a b : W64) : (if a.slt b then b else a) = BitVec.ofInt 64 (max a.toInt b.toInt) := eq_ofInt_of_toInt (by
  simp only [BitVec.slt_iff_toInt_lt]
  split <;> omega)
theorem umin_eq_ofNat (a b : W64) : (if b.ult a then b else a) = BitVec.ofNat 64 (min a.toNat b.toNat) := eq_ofNat_of_toNat (by
  simp only [BitVec.ult_iff_toNat_lt]
  split <;> omega)
theorem umax_eq_ofNat (a b : W64) : (if a.ult b then b else a) = BitVec.ofNat 64 (max a.toNat b.toNat) := eq_ofNat_of_toNat (by
  simp only [BitVec.ult_iff_toNat_lt]
  split <;> omega)

/-- The leading zeros end at the highest set bit, the logarithm of the number. -/
theorem clz64_eq_leadingZeros (a : W64) : clz64 a = leadingZeros a := by
  unfold clz64 leadingZeros
  split
  · next z => rw [BitVec.clz_eq_iff_eq_zero.mpr z]; rfl
  · next n =>
    have lt : a.clz.toNat < 64 := BitVec.lt_def.mp (BitVec.clz_lt_iff_ne_zero.mpr n)
    have lo := BitVec.two_pow_sub_clz_le_toNat_of_ne_zero (by decide) n
    have hi := @BitVec.toNat_lt_two_pow_sub_clz 64 a
    have pos : a.toNat ≠ 0 := fun z => n (BitVec.eq_of_toNat_eq z)
    have log : a.toNat.log2 = 63 - a.clz.toNat :=
      (Nat.log2_eq_iff pos).mpr ⟨lo, by rwa [show 63 - a.clz.toNat + 1 = 64 - a.clz.toNat by omega]⟩
    omega

/-- The trailing zeros end at the lowest set bit, the first one found. -/
theorem ctz64_eq_trailingZeros (a : W64) : ctz64 a = trailingZeros a := by
  unfold ctz64 trailingZeros
  by_cases z : a = 0
  · have full : a.ctz = 64 := by
      rw [z, BitVec.ctz_eq_reverse_clz]
      exact BitVec.clz_eq_iff_eq_zero.mpr (by simp)
    have missing : (List.range 64).find? (fun i => a.getLsbD i) = none := by simp [z]
    rw [full, missing]
    rfl
  · have found : (List.range 64).find? (fun i => a.getLsbD i) = some a.ctz.toNat :=
      List.find?_range_eq_some.mpr ⟨BitVec.getLsbD_true_ctz_of_ne_zero z,
        List.mem_range.mpr (BitVec.lt_def.mp (BitVec.ctz_lt_iff_ne_zero.mpr z)),
        fun j lt => by simp [BitVec.getLsbD_false_of_lt_ctz lt]⟩
    rw [found]
    rfl

theorem popc64_eq_setBits (a : W64) : popc64 a = setBits a := List.countP_eq_length_filter

theorem mul_eq_ofInt (a b : W64) : a * b = BitVec.ofInt 64 (a.toInt * b.toInt) := by
  rw [BitVec.ofInt_mul, BitVec.ofInt_toInt, BitVec.ofInt_toInt]
theorem highWord_nat (m n : Nat) : highWord (m * n) = BitVec.ofNat 64 (m * n / 2 ^ 64) := by
  rw [← BitVec.ofInt_natCast]
  norm_cast

theorem divSigned_eq (a b : W64) :
    divSigned a b = if b = 0 then BitVec.ofInt 64 (-1) else BitVec.ofInt 64 (a.toInt.tdiv b.toInt) :=
  if_congr Iff.rfl rfl (BitVec.eq_of_toInt_eq (by rw [BitVec.toInt_sdiv, BitVec.toInt_ofInt]))
theorem divUnsigned_eq (a b : W64) :
    divUnsigned a b = if b = 0 then BitVec.ofNat 64 (2 ^ 64 - 1) else BitVec.ofNat 64 (a.toNat / b.toNat) :=
  if_congr Iff.rfl rfl (eq_ofNat_of_toNat BitVec.toNat_udiv)
theorem remSigned_eq (a b : W64) : remSigned a b = if b = 0 then a else BitVec.ofInt 64 (a.toInt.tmod b.toInt) :=
  if_congr Iff.rfl rfl (eq_ofInt_of_toInt (BitVec.toInt_srem a b))
theorem remUnsigned_eq (a b : W64) : remUnsigned a b = if b = 0 then a else BitVec.ofNat 64 (a.toNat % b.toNat) :=
  if_congr Iff.rfl rfl (eq_ofNat_of_toNat BitVec.toNat_umod)

/-! ## Results (R148, R149, R150) -/

/-- An instruction that writes the value of its table. -/
theorem next_write {s : State} {d d' : Reg} {v v' w : W64} (h : some (d, v) = some (d', v')) (e : w = v) :
    (.next (s.write d w) : Out) = .next (s.write d' v') := by
  cases h
  rw [e]

/-- Every scalar integer instruction writes the value of its table. -/
theorem exec_integerResult {s : State} {i : Instr} {d : Reg} {v : W64} (h : integerResult s i = some (d, v)) :
    exec i s = .next (s.write d v) := by
  cases i with
  | add _ a b => exact next_write h (BitVec.add_def ..)
  | sub _ a b => exact next_write h (sub_eq_ofInt ..)
  | and _ a b => exact next_write h (and_eq_ofNat ..)
  | or _ a b => exact next_write h (or_eq_ofNat ..)
  | xor _ a b => exact next_write h (xor_eq_ofNat ..)
  | andn _ a b => exact next_write h (andn_eq_ofNat ..)
  | sll _ a b => exact next_write h (shiftLeft_eq_ofNat ..)
  | srl _ a b => exact next_write h (shiftRight_eq_ofNat ..)
  | sra _ a b => exact next_write h (sshiftRight_eq_shiftSigned ..)
  | slt _ a b => exact next_write h (bit64_slt ..)
  | sltu _ a b => exact next_write h (bit64_ult ..)
  | min _ a b => exact next_write h (smin_eq_ofInt ..)
  | max _ a b => exact next_write h (smax_eq_ofInt ..)
  | minu _ a b => exact next_write h (umin_eq_ofNat ..)
  | maxu _ a b => exact next_write h (umax_eq_ofNat ..)
  | clz _ a => exact next_write h (congrArg _ (clz64_eq_leadingZeros _))
  | ctz _ a => exact next_write h (congrArg _ (ctz64_eq_trailingZeros _))
  | popc _ a => exact next_write h (congrArg _ (popc64_eq_setBits _))
  | addi _ a i => exact next_write h (add_ofInt_eq ..)
  | andi _ a i => exact next_write h rfl
  | ori _ a i => exact next_write h rfl
  | xori _ a i => exact next_write h rfl
  | slli _ a k => exact next_write h (shiftLeft_eq_ofNat ..)
  | srli _ a k => exact next_write h (shiftRight_eq_ofNat ..)
  | srai _ a k => exact next_write h (sshiftRight_eq_shiftSigned ..)
  | slti _ a i => exact next_write h (bit64_slt_sext ..)
  | sltiu _ a i => exact next_write h (bit64_ult ..)
  | lim _ i => exact next_write h (up20_eq_ofInt ..)
  | adpc _ i => exact next_write h (by rw [← add_ofInt_eq_toNat, ← up20_eq_ofInt])
  | mul _ a b => exact next_write h (mul_eq_ofInt ..)
  | mulh _ a b => exact next_write h rfl
  | mulhu _ a b => exact next_write h (highWord_nat ..)
  | mulhsu _ a b => exact next_write h rfl
  | div _ a b => exact next_write h (divSigned_eq ..)
  | divu _ a b => exact next_write h (divUnsigned_eq ..)
  | rem _ a b => exact next_write h (remSigned_eq ..)
  | remu _ a b => exact next_write h (remUnsigned_eq ..)
  | _ => cases h

/-! ## Branches and jumps (R130, R144, R154) -/

/-- R154: a branch moves the pc alone. -/
theorem branch_eq_setMe (s : State) (taken : Bool) (off : W64) (n : Nat) :
    branch s taken off n
      = s.setMe { s.me with pc := if taken then s.me.pc + off else s.me.pc + BitVec.ofNat 64 n } := by
  cases taken <;> rfl

/-- R130: a distance in parcels, in bytes. -/
theorem parcels_eq_ofInt {n : Nat} (o : BitVec n) : sext o <<< 1 = BitVec.ofInt 64 (2 * o.toInt) := sext_shiftLeft o 1

/-- R154: how the comparison of a branch reads on the integers. -/
theorem not_slt_eq_decide (a b : W64) : (!a.slt b) = decide (b.toInt ≤ a.toInt) := by
  rw [BitVec.slt_eq_decide, ← decide_not, decide_eq_decide]
  exact not_lt
theorem not_ult_eq_decide (a b : W64) : (!a.ult b) = decide (b.toNat ≤ a.toNat) := by
  rw [BitVec.ult_eq_decide, ← decide_not, decide_eq_decide]
  exact not_lt
theorem bne_eq_decide (a b : W64) : (a != b) = decide (a ≠ b) := by
  rw [decide_not]
  rfl

theorem next_branch {s : State} {p p' : Bool} {off : W64} {o o' : Int} {n n' : Nat} (h : some (p, o, n) = some (p', o', n'))
    {c : Bool} (e : c = p) (f : off = BitVec.ofInt 64 o) :
    (.next (branch s c off n) : Out) = .next (branch s p' (BitVec.ofInt 64 o') n') := by
  cases h
  rw [e, f]

/-- R154: every branch goes by the condition of its table. -/
theorem exec_branchOf {s : State} {i : Instr} {taken : Bool} {o : Int} {n : Nat} (h : branchOf s i = some (taken, o, n)) :
    exec i s = .next (branch s taken (BitVec.ofInt 64 o) n) := by
  cases i with
  | beq a b o => exact next_branch h rfl (parcels_eq_ofInt o)
  | bne a b o => exact next_branch h (bne_eq_decide ..) (parcels_eq_ofInt o)
  | blt a b o => exact next_branch h BitVec.slt_eq_decide (parcels_eq_ofInt o)
  | bge a b o => exact next_branch h (not_slt_eq_decide ..) (parcels_eq_ofInt o)
  | bltu a b o => exact next_branch h BitVec.ult_eq_decide (parcels_eq_ofInt o)
  | bgeu a b o => exact next_branch h (not_ult_eq_decide ..) (parcels_eq_ofInt o)
  | cBeqz o a => exact next_branch h rfl (parcels_eq_ofInt o)
  | cBnez o a => exact next_branch h (bne_eq_decide ..) (parcels_eq_ofInt o)
  | cJ o => exact next_branch h rfl (parcels_eq_ofInt o)
  | _ => cases h

/-- R154: every jump goes to the target of its table; `c.jr` is a jump that links to x0. -/
theorem exec_jumpOf {s : State} {i : Instr} {d : Reg} {target : W64} (h : jumpOf s i = some (d, target)) :
    exec i s = .next (jump s d target) := by
  cases i with
  | jal d i =>
    cases h
    rw [← add_ofInt_eq_toNat, ← parcels_eq_ofInt]
    rfl
  | jalr d a i =>
    cases h
    rw [← add_ofInt_eq]
    rfl
  | cJr a =>
    cases h
    rfl
  | _ => cases h

/-! ## Words of the formats (R127, R129, R133) -/

/-- The words of a table, in the order of fn, are those of its entries. -/
theorem word_of_table {α β : Type} {l : List α} {f : α → β} {g : Nat → α → β} (h : l.map f = l.mapIdx g) {k : Nat} {p : α}
    (hp : l[k]? = some p) : f p = g k p := by
  simpa [hp] using congrArg (·[k]?) h

theorem encode_alu (d a b : Reg) :
    (aluTable d a b).map (fun p => encode p.1) = (aluTable d a b).mapIdx fun k p => qWord 0 (BitVec.ofNat 5 k) p.2 a d 0x01 := by
  simp only [aluTable, List.map_cons, List.map_nil, List.mapIdx_cons, List.mapIdx_nil]
  rfl
theorem encode_muldiv (d a b : Reg) :
    (muldivTable d a b).map encode = (muldivTable d a b).mapIdx fun k _ => qWord 0 (BitVec.ofNat 5 k) b a d 0x0D := rfl
theorem encode_immediate (d a : Reg) (i : BitVec 15) (h : BitVec 6) (j : BitVec 14) (k : BitVec 20) :
    ∀ p ∈ immediateTable d a i h j k, encode p.1 = p.2 := List.map_inj_left.mp rfl

/-- R127: the decoder reads a word whose bit 0 is clear as an instruction of 32 bits. -/
theorem decode_le32 {w : BitVec 32} (h : w.getLsbD 0 = false) : decode (le32 w) = checked (decode32 w) 4 := by
  have low : parcel (w.extractLsb' 0 8) (w.extractLsb' 8 8) = w.extractLsb' 0 16 :=
    BitVec.extractLsb'_append_extractLsb'_eq_extractLsb' rfl
  have high : parcel (w.extractLsb' 16 8) (w.extractLsb' 24 8) = w.extractLsb' 16 16 :=
    BitVec.extractLsb'_append_extractLsb'_eq_extractLsb' rfl
  have word : w.extractLsb' 16 16 ++ w.extractLsb' 0 16 = w := BitVec.extractLsb'_append_extractLsb'
  have length : parcelLength (w.extractLsb' 0 16) = 4 := by
    unfold parcelLength
    rw [BitVec.getLsbD_extractLsb', h]
    rfl
  unfold decode le32
  simp only [low, length, high, word]

/-- R129: the major and the fields of a word in format I. -/
theorem major_packI (maj : BitVec 6) (q : FI) : (packI maj q).extractLsb' 1 6 = maj := by
  unfold packI
  rw [BitVec.extractLsb'_append_eq_of_le (by decide), BitVec.extractLsb'_append_eq_right]
theorem imm_packI (maj : BitVec 6) (q : FI) : (packI maj q).extractLsb' 17 15 = q.imm := by
  unfold packI
  rw [BitVec.extractLsb'_append_eq_of_le (by decide), BitVec.extractLsb'_append_eq_of_le (by decide),
    BitVec.extractLsb'_append_eq_of_le (by decide), BitVec.extractLsb'_append_eq_left]
theorem a_packI (maj : BitVec 6) (q : FI) : (packI maj q).extractLsb' 12 5 = q.a := by
  unfold packI
  rw [BitVec.extractLsb'_append_eq_of_le (by decide), BitVec.extractLsb'_append_eq_of_le (by decide),
    BitVec.extractLsb'_append_eq_of_le (by decide), BitVec.extractLsb'_append_eq_right]
theorem d_packI (maj : BitVec 6) (q : FI) : (packI maj q).extractLsb' 7 5 = q.d := by
  unfold packI
  rw [BitVec.extractLsb'_append_eq_of_le (by decide), BitVec.extractLsb'_append_eq_of_le (by decide),
    BitVec.extractLsb'_append_eq_right]
theorem unpackI_packI (maj : BitVec 6) (q : FI) : unpackI (packI maj q) = q := by
  unfold unpackI
  rw [imm_packI, a_packI, d_packI]

/-- R133: major 0x06 has no selector 3. -/
theorem decode_selector3 (d a : Reg) (i : BitVec 13) : decode (iWord (3#2 ++ i) a d 0x06) = .error .function := by
  have selector : (3#2 ++ i).extractLsb' 13 2 = 3#2 := BitVec.extractLsb'_append_eq_left
  have shift : decodeShift ⟨3#2 ++ i, a, d⟩ = .error .function := by
    unfold decodeShift
    rw [selector]
    rfl
  have word : decode32 (packI 0x06 ⟨3#2 ++ i, a, d⟩) = .error .function := by
    unfold decode32
    rw [major_packI, unpackI_packI]
    exact shift
  have even : (packI 0x06 ⟨3#2 ++ i, a, d⟩).getLsbD 0 = false := by
    unfold packI
    rw [BitVec.getLsbD_append]
    rfl
  calc decode (iWord (3#2 ++ i) a d 0x06) = checked (decode32 (packI 0x06 ⟨3#2 ++ i, a, d⟩)) 4 := decode_le32 even
    _ = .error .function := by rw [word]; rfl

end Sys2Proof.Claim

open Sys2Proof Sys2Proof.Machine Sys2Proof.Claim

/-- Settles O1: every instruction of the tables is a register write of its table's value. -/
theorem scalarIntegerResults : Obligations.ScalarIntegerResults := by
  unfold Obligations.ScalarIntegerResults
  refine ⟨fun s i d v h => ⟨s.write d v, exec_integerResult h, write_runs s d v⟩, fun d a b k p => word_of_table (encode_alu d a b),
    fun d a b k p => word_of_table (encode_muldiv d a b), encode_immediate, fun d a i => ⟨_, decode_selector3 d a i⟩⟩

/-- Settles O3: a branch moves the pc alone, a jump writes its link register and moves the pc. -/
theorem branchAndJumpTargets : Obligations.BranchAndJumpTargets := by
  unfold Obligations.BranchAndJumpTargets
  refine ⟨fun s i taken o n h => ⟨_, exec_branchOf h, ?_⟩, fun s i d target h => ⟨_, exec_jumpOf h, ?_⟩,
    fun _ _ _ => ⟨rfl, rfl, rfl, rfl, rfl, rfl⟩, fun _ _ _ _ => ⟨rfl, rfl⟩⟩
  · rw [branch_eq_setMe]
    exact ⟨by rw [State.me_setMe], onlyRegs_pc s _⟩
  · exact ⟨by rw [jump, State.me_setMe], rx_setX s d _ target, onlyRegs_setX s d _ target⟩
end

section
/-! PROOF. Trap entry at the scalar trap point (R293, R297, R298), and `svc` and `brk` (R163). -/

namespace Sys2Proof.Machine

/-! ## Fields of words -/

theorem getLsbD_at64 (lo n i : Nat) : (at64 lo n).getLsbD i = (decide (i < 64) && decide (lo ≤ i) && n.testBit (i - lo)) := by
  simp [at64, BitVec.getLsbD_ofNat, Nat.testBit_shiftLeft, Bool.and_assoc]

theorem getLsbD_bitAt (j i : Nat) (b : Bool) : (bitAt j b).getLsbD i = (decide (i < 64) && decide (i = j) && b) := by
  cases b
  · simp [bitAt]
  · rw [bitAt, if_pos rfl, getLsbD_at64, Bool.and_true, Bool.and_assoc]
    congr 1
    rw [Bool.eq_iff_iff]
    simp [Nat.testBit_one_eq_true_iff_self_eq_zero]
    omega

/-- A field holds a number when its bits are those of the number. -/
theorem fld_eq {w : W64} {hi lo n : Nat} (small : n < 2 ^ (hi + 1 - lo))
    (bits : ∀ i, i < hi + 1 - lo → w.getLsbD (lo + i) = n.testBit i) : fld w hi lo = n := by
  refine Nat.eq_of_testBit_eq fun i => ?_
  rw [fld, Nat.testBit_mod_two_pow, Nat.testBit_shiftRight]
  by_cases h : i < hi + 1 - lo
  · rw [BitVec.testBit_toNat, bits i h]
    simp [h]
  · have : n.testBit i = false := Nat.testBit_lt_two_pow (small.trans_le (Nat.pow_le_pow_right (by decide) (by omega)))
    simp [h, this]

theorem Priv.code_lt (p : Priv) : p.code < 2 ^ 2 := by cases p <;> decide

/-- The bits of a privilege's code end below bit 2. -/
theorem Priv.testBit_code {p : Priv} {i : Nat} (h : 2 ≤ i) : p.code.testBit i = false :=
  Nat.testBit_lt_two_pow (p.code_lt.trans_le (Nat.pow_le_pow_right (by decide) h))

/-- R298: the bits of a trap's status word. -/
theorem getLsbD_trapStat (t : TrapInfo) (qi : Bool) (p : Priv) (i : Nat) :
    (trapStat t qi p).getLsbD i = (decide (i < 64) && ((decide (8 ≤ i) && t.code.getLsbD (i - 8)) || (decide (i = 7) && t.cf)
      || (decide (i = 6) && t.sp) || (decide (i = 5) && qi) || (decide (i = 4) && t.vf) || p.code.testBit i)) := by
  simp only [trapStat, BitVec.getLsbD_or, getLsbD_at64, getLsbD_bitAt, Nat.zero_le, decide_true, Nat.sub_zero,
    BitVec.testBit_toNat, Bool.and_assoc, Bool.and_or_distrib_left, Bool.true_and]

/-- R298: the fields of a trap's status word. -/
theorem trapStat_fields (t : TrapInfo) (qi : Bool) (p : Priv) :
    fld (trapStat t qi p) 1 0 = p.code ∧ fld (trapStat t qi p) 15 8 = t.code.toNat ∧ (trapStat t qi p).getLsbD 7 = t.cf
      ∧ (trapStat t qi p).getLsbD 6 = t.sp ∧ (trapStat t qi p).getLsbD 5 = qi ∧ (trapStat t qi p).getLsbD 4 = t.vf := by
  refine ⟨fld_eq p.code_lt fun i h => ?_, fld_eq t.code.isLt fun i h => ?_, ?_, ?_, ?_, ?_⟩
  · rw [getLsbD_trapStat]
    have : i = 0 ∨ i = 1 := by omega
    rcases this with rfl | rfl <;> simp
  · have low : decide (8 + i < 64) = true := by simp; omega
    rw [getLsbD_trapStat, Priv.testBit_code (by omega), low]
    simp [show 8 + i ≠ 7 by omega, show 8 + i ≠ 6 by omega, show 8 + i ≠ 5 by omega, show 8 + i ≠ 4 by omega, BitVec.testBit_toNat]
  all_goals
    rw [getLsbD_trapStat, Priv.testBit_code (by decide)]
    simp

/-! ## Trap entry -/

theorem trapTo_eq (h : Hart) (c : BitVec 5) : trapTo h c = if h.priv = .user ∧ h.sw.fdeleg.getLsbD c.toNat = true then .sup else .fw := by
  simp [trapTo]

/-- R293: no trap goes to user privilege. -/
theorem trapTo_ne_user (h : Hart) (c : BitVec 5) : trapTo h c ≠ .user := by
  rw [trapTo_eq]
  split <;> simp

/-- R298: the words that a trap at the scalar trap point gives its level. -/
theorem Hart.level_trap (h : Hart) {t : TrapInfo} (sp : t.sp = false) :
    let L := trapTo h t.cause
    let w := (h.trap t).level L
    let img := (h.vq ++ h.mq).map QEntry.stopped
    w.cause = t.cause.setWidth 64 ∧ w.val = t.val ∧ w.pc = h.pc
      ∧ (∃ qi, qi = (!img.isEmpty || (h.level L).qi) ∧ w.stat = trapStat t qi h.priv) ∧ w.elem = at64 0 (t.idx % 2 ^ 40)
      ∧ w.seq = t.seq ∧ w.image = (if img.isEmpty then (h.level L).image else img)
      ∧ w.tvec = (h.level L).tvec ∧ w.scratch = (h.level L).scratch := by
  unfold Hart.trap
  rw [sp]
  cases trapTo h t.cause <;> exact ⟨rfl, rfl, rfl, ⟨_, rfl, rfl⟩, rfl, rfl, rfl, rfl, rfl⟩

/-- R297: the words of the other level stay. -/
theorem Hart.level_trap_ne (h : Hart) {t : TrapInfo} {q : Priv} (n : q ≠ trapTo h t.cause) (hq : q ≠ .user) :
    (h.trap t).level q = h.level q := by
  have live := trapTo_ne_user h t.cause
  cases q with
  | user => exact absurd rfl hq
  | sup =>
    have fw : trapTo h t.cause = .fw := by cases e : trapTo h t.cause <;> simp_all
    unfold Hart.trap
    rw [fw]
    cases t.sp <;> rfl
  | fw =>
    have sup : trapTo h t.cause = .sup := by cases e : trapTo h t.cause <;> simp_all
    unfold Hart.trap
    rw [sup]
    cases t.sp <;> rfl

end Sys2Proof.Machine

namespace Sys2Proof.Claim

open Sys2Proof Sys2Proof.Machine

/-- R293, R297, R298: a trap that no error raised, at the scalar trap point, is the trap of the statements. -/
theorem trapTaken_trapEnter {s : State} {i : Nat} {r : TrapInfo} (sp : r.sp = false) (err : r.err = none) (idx : r.idx < 2 ^ 40) :
    TrapTaken s (trapEnter s i r) i r := by
  have enter : trapEnter s i r = s.setHart i ((s.hart i).trap r) := by rw [trapEnter, reportError_none err]
  obtain ⟨hmode, hpriv, hpc, hvq, hmq, hx, hv, hm, hq, huw, hsw⟩ := Hart.trap_eq (s.hart i) r
  obtain ⟨wcause, wval, wpc, ⟨qi, hqi, wstat⟩, welem, wseq, wimage, wtvec, wscratch⟩ := Hart.level_trap (s.hart i) sp
  obtain ⟨fpriv, fcode, fcf, fsp, fqi, fvf⟩ := trapStat_fields r qi (s.hart i).priv
  unfold TrapTaken
  dsimp only
  rw [enter, ← trapTo_eq, State.hart_setHart, wstat, wcause, welem, wimage]
  refine ⟨hpriv, hmode, hpc, ?_, wval, wpc, ?_, wseq, fpriv, fcode, fcf, fsp, fvf, wtvec, wscratch, fun e => ?_, fun n => ?_,
    hvq, hmq, hx, hv, hm, hq, huw, hsw, fun M n u => Hart.level_trap_ne _ n u, fun j n => State.hart_setHart_ne _ _ n, rfl, rfl, rfl,
    rfl⟩
  · exact BitVec.toNat_setWidth_of_le (by decide)
  · rw [at64, Nat.mod_eq_of_lt idx, Nat.shiftLeft_zero]
  · rw [fqi, hqi, e.1, e.2]
    exact ⟨rfl, rfl⟩
  · have queued : (((s.hart i).vq ++ (s.hart i).mq).map QEntry.stopped).isEmpty = false := by simpa using n
    rw [fqi, hqi, queued]
    exact ⟨rfl, rfl⟩

end Sys2Proof.Claim

open Sys2Proof Sys2Proof.Machine Sys2Proof.Claim

/-- Settles O14: causes 0x07 and 0x08 are always taken as traps, `svc` behind itself. -/
theorem svcAndBrkTrap : Obligations.SvcAndBrkTrap := by
  unfold Obligations.SvcAndBrkTrap
  have c7 : (0x07 : BitVec 5) ≠ 0x09 ∧ (0x07 : BitVec 5) ≠ 0x0D := by decide
  have c8 : (0x08 : BitVec 5) ≠ 0x09 ∧ (0x08 : BitVec 5) ≠ 0x0D := by decide
  refine ⟨fun s k => ⟨_, State.trapMe_eq s.pass _, ?_⟩, fun s k => ⟨_, State.trapMe_eq s _, ?_⟩, fun _ => ⟨rfl, rfl⟩⟩
  · rw [raise_other c7.1 c7.2]
    exact trapTaken_trapEnter rfl rfl (Nat.two_pow_pos 40)
  · rw [raise_other c8.1 c8.2]
    exact trapTaken_trapEnter rfl rfl (Nat.two_pow_pos 40)
end

section
/-! PROOF. `gundo` beside the gating of its core: the write of an entry can end a `pgate` of the hart (R157, R287, R329, R330). -/

namespace Sys2Proof.Claim

open Sys2Proof Sys2Proof.Machine

/-! ## A hart in `pgate` whose watch sees the forest -/

/-- Hart 0 at supervisor privilege waits in `pgate`, with its watch armed on the line of its forest at 0xF000000040. One mark is open at 7, and
link 8 is newer. -/
def gatingHart : Hart where
  mode := .waiting (.pgate 1) false
  pc := 0x3000
  priv := .sup
  watch := { armed := true, loc := some (.spad 0 0x40) }
  marks := [7]
  uw := { gforest := 0xF000000040, gcount := 2, glog := 0xF000000080, glogend := 0xF000000090, gseq := 8 }

/-- The core of that hart drains. Entry 0 is link 8 to element 1, entry 1 a root of size 2, and the log says that link 8 put 0 under 1,
which had size 1. -/
def gatingCore : Core where
  gate := .draining
  spad := [(0x40, 1), (0x44, 8), (0x48, 1), (0x4C, 2), (0x4F, 0x80), (0x84, 1), (0x88, 1), (0x8C, 8)]

def gatingState : State := { harts := [(0, gatingHart)], cores := [(0, gatingCore)] }

/-- The space in which the hart reaches its forest. -/
def gatingSpace : Space := spaceOf gatingState 0

/-! ## The hypotheses of `UndoUnlinks` -/

theorem gatingState_drained : Drained gatingState := ⟨rfl, rfl, by decide⟩

/-- Entry 0, the child of link 8. -/
theorem gatingState_child : EntryAt gatingState 0 gatingSpace 0 0 0x40 (BitVec.ofNat 64 (linkWord 8 1)) where
  below := by decide
  place := by decide
  aligned := rfl
  unheld := rfl
  word := by decide

/-- Entry 1, its parent. -/
theorem gatingState_parent : EntryAt gatingState 0 gatingSpace 1 0 0x48 (BitVec.ofNat 64 (rootWord 2 1)) where
  below := by decide
  place := by decide
  aligned := rfl
  unheld := rfl
  word := by decide

/-- The log entry of link 8: child 0, parent 1, the parent's size before it, and its number. -/
theorem gatingState_log :
    gatherPlace gatingState 0 gatingSpace gatingState.me.uw.glog
        (gatingState.me.uw.glog + BitVec.ofNat 64 (16 * (gatingState.me.uw.gseq.toNat - gatingState.me.marks.headD 0 - 1))) 16
      = .ok ⟨.spad 0 0x80, false⟩
    ∧ spadBytesAt gatingState 0 0x80 16 = toLE 4 0 ++ toLE 4 1 ++ toLE 4 1 ++ toLE 4 8 := by
  decide

/-! ## What the step does to the hart -/

/-- The state behind the first write of the step, which makes the child a root of size 1 again. -/
def childRestored : State := writeEntry gatingState 0 gatingSpace 0 (rootEntry 1 0)

/-- R157, R329, R330: the watch sees the write, its event wakes the draining core, and the `pgate` of the hart completes. -/
theorem childRestored_ends_pgate :
    (childRestored.core 0).gate = .active ∧ childRestored.me.mode = .running ∧ childRestored.me.pc = gatingState.me.pc + 4 := by
  decide

/-- The pc of the moving hart in the next state. -/
def nextPc : Out → Option W64
  | .next t => some t.me.pc
  | _ => none

/-- `gundo` leaves the pc where the end of the `pgate` has put it. -/
theorem gundo_nextPc : nextPc (exec .gundo gatingState) = some (gatingState.me.pc + 4) := by
  obtain ⟨-, -, moved⟩ := childRestored_ends_pgate
  calc nextPc (exec .gundo gatingState) = some childRestored.me.pc := by decide
    _ = some (gatingState.me.pc + 4) := by rw [moved]

/-- No hypothesis of `UndoUnlinks` says that the hart runs, and in `pgate` it does not keep its pc. -/
theorem not_undoUnlinks : ¬ UndoUnlinks := by
  intro undo
  obtain ⟨place, bytes⟩ := gatingState_log
  have newer : 7 < gatingState.me.uw.gseq.toNat ∧ gatingState.me.uw.gseq.toNat < 2 ^ 31 := by decide
  have check : forestCheck gatingState 0 gatingSpace = .ok () := by decide
  obtain ⟨t, run, -, -, -, -, -, -, stands, -⟩ := undo gatingState 7 0 1 0 0x40 0x48 0x80 2 1 8 _ gatingState_drained rfl rfl
    newer.1 newer.2 check place bytes (by decide) (by decide) (by decide) (by decide) (by decide) gatingState_child gatingState_parent
  have moved : some t.me.pc = some (gatingState.me.pc + 4) := by rw [← gundo_nextPc, run]; rfl
  rw [stands] at moved
  exact absurd moved (by decide)

end Sys2Proof.Claim

open Sys2Proof Sys2Proof.Machine Sys2Proof.Claim

/-- Refutes O45: `UndoUnlinks` says of every state that `gundo` leaves the pc while links are left to undo, and does not ask that the hart
runs (`Steady`). In `gatingState` the hart waits in `pgate` on a draining core, with its watch armed on the line of its forest: the write of
the child's entry wakes the core, and the `pgate` moves the pc on. -/
theorem not_gatheringMarksAndLossScale : ¬ Obligations.GatheringMarksAndLossScale := by
  unfold Obligations.GatheringMarksAndLossScale
  rintro ⟨-, -, -, -, undo, -⟩
  exact not_undoUnlinks undo
end
